-- ==== Sys2Proof/Word.lean ====
section
/-!
DEFINITION. The word types of Kutil: bytes, 32-bit lane and instruction words, 64-bit scalars; and the
operand types of the steps that have no encoding.
Bits are numbered from 0 at the least significant end (R7).
-/

namespace Sys2Proof

abbrev Byte := BitVec 8
abbrev Word := BitVec 32
abbrev DWord := BitVec 64

/-- The party that issues a word: a group of a context, and its main side (`none`) or the fragment
of one FRAGS entry (R177). -/
structure PartyRef where
  ctx  : Nat
  grp  : Nat
  frag : Option Nat
  deriving DecidableEq, Repr

/-- A unit that Kutil can retire (R409): a core, a core's matrix array, an L2 slice; the index is the
core index of R47 or the global slice number of R74. A pool granule is retired within its core
(Table 02-4). -/
inductive HwUnit where
  | core (core : Nat)
  | mxa (core : Nat)
  | slice (slice : Nat)
  | granule (core granule : Nat)
  deriving DecidableEq, Repr

/-- Where an uncorrectable error strikes (R65, R85, R315, R409): the home copy of a 32-byte sector, a
core's L1 copy of one, a replica, a register of a group, a hypervector or bundle register, a byte of
a team's pool window, or a unit as a whole (an error not confined to data). Sectors are numbered by
physical address divided by 32. -/
inductive ErrorSite where
  | home (sector : Nat)
  | l1 (core sector : Nat)
  | replica (area sector : Nat)
  | vreg (ctx grp reg : Nat)
  | hreg (ctx grp reg : Nat)
  | breg (ctx grp reg : Nat)
  | pool (ctx offset : Nat)
  | unit (u : HwUnit)
  deriving DecidableEq, Repr

/-- What happens on a queue pair beside its requests (R390): for the events that Kutil sent, an acknowledgement, a NAK
of its sequence, for want of a receiver, or fatal, or a timeout; for a request to it, a duplicate WRITE or SEND, or a
packet out of order. -/
inductive RoceSignal where
  | ack (psn : BitVec 24)
  | nakSequence (psn : BitVec 24)
  | rnrNak (psn : BitVec 24)
  | nakFatal (psn : BitVec 24)
  | timeout
  | duplicate (psn : BitVec 24)
  | outOfOrder (psn : BitVec 24)
  deriving DecidableEq, Repr

/-- A peer's fabric access (R399): an offset in local HBM and what it does there. Atomics carry the codes of
Table 08-9; `cas` is ATOMC's, `arrive` BARARR's. -/
inductive PeerOp where
  | read (offset len : Nat)
  | write (offset : Nat) (data : List Byte)
  | atomic (offset code size operand : Nat)
  | cas (offset size expected new : Nat)
  | arrive (offset : Nat)
  deriving DecidableEq, Repr

/-- What the power-up steps find (Table 21-1): the units that fail self-test, and whether every HBM
stack trains. -/
structure PowerUpReport where
  failedClusters : List Nat
  failedSlices   : List Nat
  failedGranules : List (Nat × Nat)
  stacksTrained  : Bool
  deriving DecidableEq, Repr, Inhabited

end Sys2Proof
end

