-- ==== Sys2Proof/Syntax.lean ====
section
/-!
DEFINITION. The syntax of Gnoithes and of the machine's other steps: one constructor for every row
of the opcode table. An instruction word's constructor carries the fields of its encoding (R213,
R224), each at the width the encoding gives it. A row with no encoding is a step of another agent
(an engine, the Keeper, the host, a peer, an error); its constructor carries what names the thing the
step is about, or the data that arrives with it from outside.
-/

namespace Sys2Proof

/-- Where an RDMA request arrives, and its packet sequence number (R390). -/
structure RdmaRequest where
  qp  : Nat
  psn : BitVec 24
  deriving DecidableEq, Repr

/-- The instructions and steps of the machine. -/

inductive Instr where
  /-- BRA (R233): Branches unconditionally to a relative target that must be a clause header. -/
  | bra (o : BitVec 21)
  /-- BRC (R233): Branches to a relative target when scalar register s(N) is nonzero. -/
  | brc (n : BitVec 4) (o : BitVec 21)
  /-- BRM_ANY (R233): Branches when any lane of m(N) AND the party's mask is set. -/
  | brmAny (n : BitVec 3) (o : BitVec 21)
  /-- BRM_NONE (R233): Branches when no lane of m(N) AND the party's mask is set. -/
  | brmNone (n : BitVec 3) (o : BitVec 21)
  /-- JMPI (R233): Jumps to the address held in s(N), after checking the target. -/
  | jmpi (n : BitVec 4)
  /-- CALL (R234): Branches to a relative target and writes the return address to s31. -/
  | call (o : BitVec 21)
  /-- CALLI (R234): Jumps to the address in s(N) and writes the return address to s31. -/
  | calli (n : BitVec 4)
  /-- RET (R234): Transfers control to the address held in s31. -/
  | ret
  /-- LOOP (R233): Decrements s(N) and branches while the result is nonzero. -/
  | loop (n : BitVec 4) (o : BitVec 21)
  /-- SPLIT (R236): Divides the party's lanes by a mask condition, making a fragment or a serial split under a join
  token. -/
  | split (t : BitVec 4) (c : BitVec 4) (o : BitVec 17)
  /-- JOIN (R179): Marks a fragment as arrived at its join, or makes the continuing side wait to merge the token's
  fragments. -/
  | join (t : BitVec 4)
  /-- JOIN_MERGE (R179): Once no fragment of the token is still running, the waiting side takes back their lanes and
  frees the token. -/
  | joinMerge (p : PartyRef)
  /-- EXIT (R237): Retires the issuing party, and the group when no party remains, with the release actions of a group
  exit. -/
  | exit
  /-- YIELD (R240): Moves the party out of the active set when a ready party is pending. -/
  | yield
  /-- NOP (R240): Has no effect. -/
  | nop
  /-- TRAP (R238): Raises SOFTWARE_TRAP carrying an 8-bit code. -/
  | trap (c : BitVec 8)
  /-- BKPT (R238): Raises BREAKPOINT. -/
  | bkpt
  /-- ERET (R239): Ends a trap handler, restores the recorded mask and resumes at the return point. -/
  | eret
  /-- SADD (R242): Scalar 64-bit addition. -/
  | sadd (i : BitVec 1) (d : BitVec 5) (a : BitVec 8) (b : BitVec 8)
  /-- SSUB (R242): Scalar 64-bit subtraction. -/
  | ssub (i : BitVec 1) (d : BitVec 5) (a : BitVec 8) (b : BitVec 8)
  /-- SMUL (R242): Low 64 bits of a scalar product. -/
  | smul (i : BitVec 1) (d : BitVec 5) (a : BitVec 8) (b : BitVec 8)
  /-- SMULH (R242): High 64 bits of a signed 128-bit product. -/
  | smulh (i : BitVec 1) (d : BitVec 5) (a : BitVec 8) (b : BitVec 8)
  /-- SMULH_U (R242): High 64 bits of an unsigned 128-bit product. -/
  | smulhU (i : BitVec 1) (d : BitVec 5) (a : BitVec 8) (b : BitVec 8)
  /-- SDIV (R243): Signed scalar quotient, with defined results for division by zero. -/
  | sdiv (i : BitVec 1) (d : BitVec 5) (a : BitVec 8) (b : BitVec 8)
  /-- SDIV_U (R243): Unsigned scalar quotient. -/
  | sdivU (i : BitVec 1) (d : BitVec 5) (a : BitVec 8) (b : BitVec 8)
  /-- SREM (R243): Signed scalar remainder. -/
  | srem (i : BitVec 1) (d : BitVec 5) (a : BitVec 8) (b : BitVec 8)
  /-- SREM_U (R243): Unsigned scalar remainder. -/
  | sremU (i : BitVec 1) (d : BitVec 5) (a : BitVec 8) (b : BitVec 8)
  /-- SAND (R242): Scalar bitwise AND. -/
  | sand (i : BitVec 1) (d : BitVec 5) (a : BitVec 8) (b : BitVec 8)
  /-- SOR (R242): Scalar bitwise OR. -/
  | sor (i : BitVec 1) (d : BitVec 5) (a : BitVec 8) (b : BitVec 8)
  /-- SXOR (R242): Scalar bitwise XOR. -/
  | sxor (i : BitVec 1) (d : BitVec 5) (a : BitVec 8) (b : BitVec 8)
  /-- SANDN (R242): Scalar a AND NOT b. -/
  | sandn (i : BitVec 1) (d : BitVec 5) (a : BitVec 8) (b : BitVec 8)
  /-- SSHL (R242): Scalar shift left by b[5:0]. -/
  | sshl (i : BitVec 1) (d : BitVec 5) (a : BitVec 8) (b : BitVec 8)
  /-- SSHR (R242): Scalar logical shift right. -/
  | sshr (i : BitVec 1) (d : BitVec 5) (a : BitVec 8) (b : BitVec 8)
  /-- SSAR (R242): Scalar arithmetic shift right. -/
  | ssar (i : BitVec 1) (d : BitVec 5) (a : BitVec 8) (b : BitVec 8)
  /-- SROT (R242): Scalar rotate left. -/
  | srot (i : BitVec 1) (d : BitVec 5) (a : BitVec 8) (b : BitVec 8)
  /-- SMIN (R242): Scalar signed minimum. -/
  | smin (i : BitVec 1) (d : BitVec 5) (a : BitVec 8) (b : BitVec 8)
  /-- SMIN_U (R242): Scalar unsigned minimum. -/
  | sminU (i : BitVec 1) (d : BitVec 5) (a : BitVec 8) (b : BitVec 8)
  /-- SMAX (R242): Scalar signed maximum. -/
  | smax (i : BitVec 1) (d : BitVec 5) (a : BitVec 8) (b : BitVec 8)
  /-- SMAX_U (R242): Scalar unsigned maximum. -/
  | smaxU (i : BitVec 1) (d : BitVec 5) (a : BitVec 8) (b : BitVec 8)
  /-- SCMP_EQ (R242): Writes 1 if a equals b, else 0. -/
  | scmpEq (i : BitVec 1) (d : BitVec 5) (a : BitVec 8) (b : BitVec 8)
  /-- SCMP_NE (R242): Writes 1 if a differs from b, else 0. -/
  | scmpNe (i : BitVec 1) (d : BitVec 5) (a : BitVec 8) (b : BitVec 8)
  /-- SCMP_LT (R242): Writes 1 if a is less than b (signed), else 0. -/
  | scmpLt (i : BitVec 1) (d : BitVec 5) (a : BitVec 8) (b : BitVec 8)
  /-- SCMP_LE (R242): Writes 1 if a is at most b (signed), else 0. -/
  | scmpLe (i : BitVec 1) (d : BitVec 5) (a : BitVec 8) (b : BitVec 8)
  /-- SCMP_LT_U (R242): Writes 1 if a is less than b (unsigned), else 0. -/
  | scmpLtU (i : BitVec 1) (d : BitVec 5) (a : BitVec 8) (b : BitVec 8)
  /-- SCMP_LE_U (R242): Writes 1 if a is at most b (unsigned), else 0. -/
  | scmpLeU (i : BitVec 1) (d : BitVec 5) (a : BitVec 8) (b : BitVec 8)
  /-- SSEL (R242): Selects a when the prior s(d) is nonzero, else b. -/
  | ssel (i : BitVec 1) (d : BitVec 5) (a : BitVec 8) (b : BitVec 8)
  /-- SMOV (R242): Writes the value of b to s(d). -/
  | smov (i : BitVec 1) (d : BitVec 5) (b : BitVec 8)
  /-- SLI (R242): Shifts a left by 8 and inserts an 8-bit immediate. -/
  | sli (d : BitVec 5) (a : BitVec 8) (b : BitVec 8)
  /-- SPOPC (R242): Scalar population count. -/
  | spopc (d : BitVec 5) (a : BitVec 8)
  /-- SCLZ (R242): Scalar count of leading zeros. -/
  | sclz (d : BitVec 5) (a : BitVec 8)
  /-- SBFE (R244): Extracts a zero-extended scalar bit field. -/
  | sbfe (i : BitVec 1) (d : BitVec 5) (a : BitVec 8) (b : BitVec 8)
  /-- SBFE_S (R244): Extracts a sign-extended scalar bit field. -/
  | sbfeS (i : BitVec 1) (d : BitVec 5) (a : BitVec 8) (b : BitVec 8)
  /-- MAND (R246): Mask AND, with writes to m0 limited to the party's own lanes. -/
  | mand (d : BitVec 4) (a : BitVec 8) (b : BitVec 8)
  /-- MOR (R246): Mask OR. -/
  | mor (d : BitVec 4) (a : BitVec 8) (b : BitVec 8)
  /-- MXOR (R246): Mask XOR. -/
  | mxor (d : BitVec 4) (a : BitVec 8) (b : BitVec 8)
  /-- MANDN (R246): Mask a AND NOT b. -/
  | mandn (d : BitVec 4) (a : BitVec 8) (b : BitVec 8)
  /-- MNOT (R246): Writes the complement of a mask register. -/
  | mnot (d : BitVec 4) (a : BitVec 4)
  /-- MMOV (R246): Copies a mask register. -/
  | mmov (d : BitVec 4) (a : BitVec 4)
  /-- MFROMS (R246): Writes a mask register from a scalar selector value. -/
  | mfroms (d : BitVec 4) (a : BitVec 8)
  /-- MTOS (R246): Writes a mask register, zero-extended, to a scalar register. -/
  | mtos (d : BitVec 5) (a : BitVec 4)
  /-- MPOPC (R246): Counts the set bits of a mask register. -/
  | mpopc (d : BitVec 5) (a : BitVec 4)
  /-- MFFS (R246): Finds the index of the lowest set bit of a mask register. -/
  | mffs (d : BitVec 5) (a : BitVec 4)
  /-- MLANE (R246): Writes a mask with only bit b set, or zero when b is not below W. -/
  | mlane (i : BitVec 1) (d : BitVec 4) (b : BitVec 8)
  /-- MTEST (R246): Writes 1 when a mask register AND b is nonzero. -/
  | mtest (d : BitVec 5) (a : BitVec 4) (b : BitVec 8)
  /-- VADD (R250): 32-bit vector addition. -/
  | vadd (i : BitVec 1) (d : BitVec 7) (a : BitVec 7) (b : BitVec 8)
  /-- VADD_I16 (R250): Packed 16-bit vector addition. -/
  | vaddI16 (i : BitVec 1) (d : BitVec 7) (a : BitVec 7) (b : BitVec 8)
  /-- VADD_I8 (R250): Packed 8-bit vector addition. -/
  | vaddI8 (i : BitVec 1) (d : BitVec 7) (a : BitVec 7) (b : BitVec 8)
  /-- VSUB (R250): 32-bit vector subtraction. -/
  | vsub (i : BitVec 1) (d : BitVec 7) (a : BitVec 7) (b : BitVec 8)
  /-- VSUB_I16 (R250): Packed 16-bit vector subtraction. -/
  | vsubI16 (i : BitVec 1) (d : BitVec 7) (a : BitVec 7) (b : BitVec 8)
  /-- VSUB_I8 (R250): Packed 8-bit vector subtraction. -/
  | vsubI8 (i : BitVec 1) (d : BitVec 7) (a : BitVec 7) (b : BitVec 8)
  /-- VMULLO (R250): Low 32 bits of a vector product. -/
  | vmullo (i : BitVec 1) (d : BitVec 7) (a : BitVec 7) (b : BitVec 8)
  /-- VMULLO_I16 (R250): Low bits of packed 16-bit products. -/
  | vmulloI16 (i : BitVec 1) (d : BitVec 7) (a : BitVec 7) (b : BitVec 8)
  /-- VMULLO_I8 (R250): Low bits of packed 8-bit products. -/
  | vmulloI8 (i : BitVec 1) (d : BitVec 7) (a : BitVec 7) (b : BitVec 8)
  /-- VMULHI (R250): High 32 bits of a signed 64-bit vector product. -/
  | vmulhi (i : BitVec 1) (d : BitVec 7) (a : BitVec 7) (b : BitVec 8)
  /-- VMULHI_U (R250): High 32 bits of an unsigned 64-bit vector product. -/
  | vmulhiU (i : BitVec 1) (d : BitVec 7) (a : BitVec 7) (b : BitVec 8)
  /-- VMAD (R250): 32-bit vector multiply-add with a fourth operand. -/
  | vmad (i : BitVec 1) (d : BitVec 7) (a : BitVec 7) (b : BitVec 8)
  /-- VMAD_I16 (R250): Packed 16-bit vector multiply-add. -/
  | vmadI16 (i : BitVec 1) (d : BitVec 7) (a : BitVec 7) (b : BitVec 8)
  /-- VMAD_I8 (R250): Packed 8-bit vector multiply-add. -/
  | vmadI8 (i : BitVec 1) (d : BitVec 7) (a : BitVec 7) (b : BitVec 8)
  /-- VMIN (R250): 32-bit signed vector minimum. -/
  | vmin (i : BitVec 1) (d : BitVec 7) (a : BitVec 7) (b : BitVec 8)
  /-- VMIN_I16 (R250): Packed 16-bit signed minimum. -/
  | vminI16 (i : BitVec 1) (d : BitVec 7) (a : BitVec 7) (b : BitVec 8)
  /-- VMIN_I8 (R250): Packed 8-bit signed minimum. -/
  | vminI8 (i : BitVec 1) (d : BitVec 7) (a : BitVec 7) (b : BitVec 8)
  /-- VMIN_U (R250): 32-bit unsigned vector minimum. -/
  | vminU (i : BitVec 1) (d : BitVec 7) (a : BitVec 7) (b : BitVec 8)
  /-- VMIN_U_I16 (R250): Packed 16-bit unsigned minimum. -/
  | vminUI16 (i : BitVec 1) (d : BitVec 7) (a : BitVec 7) (b : BitVec 8)
  /-- VMIN_U_I8 (R250): Packed 8-bit unsigned minimum. -/
  | vminUI8 (i : BitVec 1) (d : BitVec 7) (a : BitVec 7) (b : BitVec 8)
  /-- VMAX (R250): 32-bit signed vector maximum. -/
  | vmax (i : BitVec 1) (d : BitVec 7) (a : BitVec 7) (b : BitVec 8)
  /-- VMAX_I16 (R250): Packed 16-bit signed maximum. -/
  | vmaxI16 (i : BitVec 1) (d : BitVec 7) (a : BitVec 7) (b : BitVec 8)
  /-- VMAX_I8 (R250): Packed 8-bit signed maximum. -/
  | vmaxI8 (i : BitVec 1) (d : BitVec 7) (a : BitVec 7) (b : BitVec 8)
  /-- VMAX_U (R250): 32-bit unsigned vector maximum. -/
  | vmaxU (i : BitVec 1) (d : BitVec 7) (a : BitVec 7) (b : BitVec 8)
  /-- VMAX_U_I16 (R250): Packed 16-bit unsigned maximum. -/
  | vmaxUI16 (i : BitVec 1) (d : BitVec 7) (a : BitVec 7) (b : BitVec 8)
  /-- VMAX_U_I8 (R250): Packed 8-bit unsigned maximum. -/
  | vmaxUI8 (i : BitVec 1) (d : BitVec 7) (a : BitVec 7) (b : BitVec 8)
  /-- VABSD (R250): Signed absolute difference, as an unsigned value. -/
  | vabsd (i : BitVec 1) (d : BitVec 7) (a : BitVec 7) (b : BitVec 8)
  /-- VABSD_U (R250): Unsigned absolute difference. -/
  | vabsdU (i : BitVec 1) (d : BitVec 7) (a : BitVec 7) (b : BitVec 8)
  /-- VADDSAT (R250): 32-bit saturating addition, setting SAT on clamp. -/
  | vaddsat (i : BitVec 1) (d : BitVec 7) (a : BitVec 7) (b : BitVec 8)
  /-- VADDSAT_I16 (R250): Packed 16-bit saturating addition. -/
  | vaddsatI16 (i : BitVec 1) (d : BitVec 7) (a : BitVec 7) (b : BitVec 8)
  /-- VADDSAT_I8 (R250): Packed 8-bit saturating addition. -/
  | vaddsatI8 (i : BitVec 1) (d : BitVec 7) (a : BitVec 7) (b : BitVec 8)
  /-- VADDSAT_U8 (R250): Packed unsigned byte saturating addition. -/
  | vaddsatU8 (i : BitVec 1) (d : BitVec 7) (a : BitVec 7) (b : BitVec 8)
  /-- VSUBSAT (R250): 32-bit saturating subtraction. -/
  | vsubsat (i : BitVec 1) (d : BitVec 7) (a : BitVec 7) (b : BitVec 8)
  /-- VSUBSAT_I16 (R250): Packed 16-bit saturating subtraction. -/
  | vsubsatI16 (i : BitVec 1) (d : BitVec 7) (a : BitVec 7) (b : BitVec 8)
  /-- VSUBSAT_I8 (R250): Packed 8-bit saturating subtraction. -/
  | vsubsatI8 (i : BitVec 1) (d : BitVec 7) (a : BitVec 7) (b : BitVec 8)
  /-- VSUBSAT_U8 (R250): Packed unsigned byte saturating subtraction. -/
  | vsubsatU8 (i : BitVec 1) (d : BitVec 7) (a : BitVec 7) (b : BitVec 8)
  /-- VAND (R250): Vector bitwise AND. -/
  | vand (i : BitVec 1) (d : BitVec 7) (a : BitVec 7) (b : BitVec 8)
  /-- VOR (R250): Vector bitwise OR. -/
  | vor (i : BitVec 1) (d : BitVec 7) (a : BitVec 7) (b : BitVec 8)
  /-- VXOR (R250): Vector bitwise XOR. -/
  | vxor (i : BitVec 1) (d : BitVec 7) (a : BitVec 7) (b : BitVec 8)
  /-- VANDN (R250): Vector a AND NOT b. -/
  | vandn (i : BitVec 1) (d : BitVec 7) (a : BitVec 7) (b : BitVec 8)
  /-- VSHL (R250): Vector shift left by b[4:0]. -/
  | vshl (i : BitVec 1) (d : BitVec 7) (a : BitVec 7) (b : BitVec 8)
  /-- VSHR (R250): Vector logical shift right. -/
  | vshr (i : BitVec 1) (d : BitVec 7) (a : BitVec 7) (b : BitVec 8)
  /-- VSAR (R250): Vector arithmetic shift right. -/
  | vsar (i : BitVec 1) (d : BitVec 7) (a : BitVec 7) (b : BitVec 8)
  /-- VROT (R250): Vector rotate left. -/
  | vrot (i : BitVec 1) (d : BitVec 7) (a : BitVec 7) (b : BitVec 8)
  /-- VPOPC (R250): Vector population count. -/
  | vpopc (d : BitVec 7) (a : BitVec 7)
  /-- VCLZ (R250): Vector count of leading zeros. -/
  | vclz (d : BitVec 7) (a : BitVec 7)
  /-- VBREV (R250): Vector bit reversal. -/
  | vbrev (d : BitVec 7) (a : BitVec 7)
  /-- VBFE (R251): Extracts a zero-extended vector bit field. -/
  | vbfe (i : BitVec 1) (d : BitVec 7) (a : BitVec 7) (b : BitVec 8)
  /-- VBFE_S (R251): Extracts a sign-extended vector bit field. -/
  | vbfeS (i : BitVec 1) (d : BitVec 7) (a : BitVec 7) (b : BitVec 8)
  /-- VBFI (R251): Inserts a field of a into the fourth operand. -/
  | vbfi (i : BitVec 1) (d : BitVec 7) (a : BitVec 7) (b : BitVec 8)
  /-- VCMP (R252): Integer vector compare writing a mask register. -/
  | vcmp (i : BitVec 1) (c : BitVec 3) (m : BitVec 4) (a : BitVec 7) (b : BitVec 8)
  /-- VSEL (R252): Selects a where the fourth operand is nonzero, else b. -/
  | vsel (i : BitVec 1) (d : BitVec 7) (a : BitVec 7) (b : BitVec 8)
  /-- VMOV (R254): Writes the value of b to the active lanes of vd. -/
  | vmov (i : BitVec 1) (d : BitVec 7) (b : BitVec 8)
  /-- VRDX (R254): Reads a vector register indexed per lane. -/
  | vrdx (i : BitVec 1) (d : BitVec 7) (a : BitVec 7) (b : BitVec 8)
  /-- VWRX (R254): Writes a vector register indexed per lane. -/
  | vwrx (i : BitVec 1) (s : BitVec 7) (a : BitVec 7) (b : BitVec 8)
  /-- VDEAD (R255): Gives a run of registers format 4 (zero), discarding their values. -/
  | vdead (d : BitVec 7) (n : BitVec 8)
  /-- VFADD (R256): FP32 vector addition. -/
  | vfadd (d : BitVec 7) (a : BitVec 7) (b : BitVec 8)
  /-- VFADD_F16 (R256): Packed FP16 addition. -/
  | vfaddF16 (d : BitVec 7) (a : BitVec 7) (b : BitVec 8)
  /-- VFADD_BF16 (R256): Packed BF16 addition. -/
  | vfaddBf16 (d : BitVec 7) (a : BitVec 7) (b : BitVec 8)
  /-- VFSUB (R256): FP32 vector subtraction. -/
  | vfsub (d : BitVec 7) (a : BitVec 7) (b : BitVec 8)
  /-- VFSUB_F16 (R256): Packed FP16 subtraction. -/
  | vfsubF16 (d : BitVec 7) (a : BitVec 7) (b : BitVec 8)
  /-- VFSUB_BF16 (R256): Packed BF16 subtraction. -/
  | vfsubBf16 (d : BitVec 7) (a : BitVec 7) (b : BitVec 8)
  /-- VFMUL (R256): FP32 vector multiplication. -/
  | vfmul (d : BitVec 7) (a : BitVec 7) (b : BitVec 8)
  /-- VFMUL_F16 (R256): Packed FP16 multiplication. -/
  | vfmulF16 (d : BitVec 7) (a : BitVec 7) (b : BitVec 8)
  /-- VFMUL_BF16 (R256): Packed BF16 multiplication. -/
  | vfmulBf16 (d : BitVec 7) (a : BitVec 7) (b : BitVec 8)
  /-- VFMA (R256): FP32 fused multiply-add, rounded once. -/
  | vfma (d : BitVec 7) (a : BitVec 7) (b : BitVec 8)
  /-- VFMA_F16 (R256): Packed FP16 fused multiply-add. -/
  | vfmaF16 (d : BitVec 7) (a : BitVec 7) (b : BitVec 8)
  /-- VFMA_BF16 (R256): Packed BF16 fused multiply-add. -/
  | vfmaBf16 (d : BitVec 7) (a : BitVec 7) (b : BitVec 8)
  /-- VFMIN (R194): FP32 minimum with -0 below +0 and NaN rules. -/
  | vfmin (d : BitVec 7) (a : BitVec 7) (b : BitVec 8)
  /-- VFMIN_F16 (R194): Packed FP16 minimum. -/
  | vfminF16 (d : BitVec 7) (a : BitVec 7) (b : BitVec 8)
  /-- VFMIN_BF16 (R194): Packed BF16 minimum. -/
  | vfminBf16 (d : BitVec 7) (a : BitVec 7) (b : BitVec 8)
  /-- VFMAX (R194): FP32 maximum. -/
  | vfmax (d : BitVec 7) (a : BitVec 7) (b : BitVec 8)
  /-- VFMAX_F16 (R194): Packed FP16 maximum. -/
  | vfmaxF16 (d : BitVec 7) (a : BitVec 7) (b : BitVec 8)
  /-- VFMAX_BF16 (R194): Packed BF16 maximum. -/
  | vfmaxBf16 (d : BitVec 7) (a : BitVec 7) (b : BitVec 8)
  /-- VFSGN (R257): Copies a with the sign bit of b. -/
  | vfsgn (d : BitVec 7) (a : BitVec 7) (b : BitVec 8)
  /-- VFSGN_N (R257): Copies a with the inverted sign bit of b. -/
  | vfsgnN (d : BitVec 7) (a : BitVec 7) (b : BitVec 8)
  /-- VFSGN_X (R257): Copies a with its sign XOR the sign of b. -/
  | vfsgnX (d : BitVec 7) (a : BitVec 7) (b : BitVec 8)
  /-- VFCMP (R258): FP32 vector compare writing a mask register. -/
  | vfcmp (c : BitVec 3) (m : BitVec 4) (a : BitVec 7) (b : BitVec 8)
  /-- VFCLASS (R257): Writes a one-hot class of each FP32 lane value. -/
  | vfclass (d : BitVec 7) (a : BitVec 7)
  /-- VFDIV (R259): FP32 division rounded by the effective mode. -/
  | vfdiv (d : BitVec 7) (a : BitVec 7) (b : BitVec 8)
  /-- VFSQRT (R259): FP32 square root rounded by the effective mode. -/
  | vfsqrt (d : BitVec 7) (a : BitVec 7)
  /-- VFRCP (R259): FP32 reciprocal rounded by RNE. -/
  | vfrcp (d : BitVec 7) (a : BitVec 7)
  /-- VFRSQ (R259): FP32 reciprocal square root. -/
  | vfrsq (d : BitVec 7) (a : BitVec 7)
  /-- VFEXP2 (R259): FP32 base-2 exponential. -/
  | vfexp2 (d : BitVec 7) (a : BitVec 7)
  /-- VFLOG2 (R259): FP32 base-2 logarithm. -/
  | vflog2 (d : BitVec 7) (a : BitVec 7)
  /-- VFSIN (R259): FP32 sine. -/
  | vfsin (d : BitVec 7) (a : BitVec 7)
  /-- VFCOS (R259): FP32 cosine. -/
  | vfcos (d : BitVec 7) (a : BitVec 7)
  /-- VFRND (R259): Rounds FP32 values to integral values. -/
  | vfrnd (d : BitVec 7) (a : BitVec 7)
  /-- VFRND_F16 (R259): Rounds packed FP16 values to integral values. -/
  | vfrndF16 (d : BitVec 7) (a : BitVec 7)
  /-- VFRND_BF16 (R259): Rounds packed BF16 values to integral values. -/
  | vfrndBf16 (d : BitVec 7) (a : BitVec 7)
  /-- VCVT (R260): Converts elements between number formats within each lane. -/
  | vcvt (g : BitVec 2) (d : BitVec 7) (a : BitVec 7) (t : BitVec 4) (s : BitVec 4)
  /-- VPACK (R261): Packs low bits of a into an element of vd without conversion. -/
  | vpack (g : BitVec 2) (d : BitVec 7) (a : BitVec 7) (f : BitVec 4)
  /-- VUNPK (R261): Unpacks an element of a, extended, into vd. -/
  | vunpk (g : BitVec 2) (d : BitVec 7) (a : BitVec 7) (f : BitVec 4)
  /-- VQUANT_E4M3 (R262): Quantises 32-value blocks to E4M3 with an E8M0 scale. -/
  | vquantE4m3 (d : BitVec 7) (a : BitVec 7)
  /-- VQUANT_E5M2 (R262): Quantises blocks to E5M2. -/
  | vquantE5m2 (d : BitVec 7) (a : BitVec 7)
  /-- VQUANT_E2M1 (R262): Quantises blocks to FP4 E2M1. -/
  | vquantE2m1 (d : BitVec 7) (a : BitVec 7)
  /-- VDEQ_E4M3 (R262): Decodes an E4M3 element and scale to FP32. -/
  | vdeqE4m3 (d : BitVec 7) (a : BitVec 7)
  /-- VDEQ_E5M2 (R262): Decodes an E5M2 element and scale to FP32. -/
  | vdeqE5m2 (d : BitVec 7) (a : BitVec 7)
  /-- VDEQ_E2M1 (R262): Decodes an E2M1 element and scale to FP32. -/
  | vdeqE2m1 (d : BitVec 7) (a : BitVec 7)
  /-- VPERM (R263): Each lane reads the lane of a named by its selector value. -/
  | vperm (d : BitVec 7) (a : BitVec 7) (b : BitVec 8)
  /-- VBCAST (R263): Broadcasts one lane of a to every active lane. -/
  | vbcast (i : BitVec 1) (d : BitVec 7) (a : BitVec 7) (b : BitVec 8)
  /-- VLSHIFT_UP (R263): Shifts lane values up by n lanes, filling with zero. -/
  | vlshiftUp (i : BitVec 1) (d : BitVec 7) (a : BitVec 7) (b : BitVec 8)
  /-- VLSHIFT_DN (R263): Shifts lane values down by n lanes, filling with zero. -/
  | vlshiftDn (i : BitVec 1) (d : BitVec 7) (a : BitVec 7) (b : BitVec 8)
  /-- VRED (R264): Reduces the active lanes to every active lane of vd. -/
  | vred (d : BitVec 7) (a : BitVec 7) (o : BitVec 8)
  /-- VRED_SCALAR (R264): Reduces the active lanes to a scalar register. -/
  | vredScalar (d : BitVec 5) (a : BitVec 7) (o : BitVec 8)
  /-- VREDMI (R265): Finds the unsigned minimum and its lane into vd and vd+1. -/
  | vredmi (d : BitVec 7) (a : BitVec 7)
  /-- VREDMI_SCALAR (R265): Finds the unsigned minimum and its lane into two scalar registers. -/
  | vredmiScalar (d : BitVec 5) (a : BitVec 7)
  /-- VSCAN (R264): Inclusive scan over the active lanes. -/
  | vscan (d : BitVec 7) (a : BitVec 7) (o : BitVec 8)
  /-- VSCAN_EX (R264): Exclusive scan over the active lanes. -/
  | vscanEx (d : BitVec 7) (a : BitVec 7) (o : BitVec 8)
  /-- VBALLOT (R263): Writes a mask of lanes whose value is nonzero. -/
  | vballot (m : BitVec 4) (a : BitVec 7)
  /-- VEXTR (R263): Extracts one lane of a into a scalar register. -/
  | vextr (i : BitVec 1) (d : BitVec 5) (a : BitVec 7) (b : BitVec 8)
  /-- VINS (R263): Inserts a scalar value into one active lane of vd. -/
  | vins (i : BitVec 1) (d : BitVec 7) (a : BitVec 5) (b : BitVec 8)
  /-- PREFIX (R218): Qualifies the next word with mask select, zeroing, rounding, fourth operand and permutation or
  memory ordering fields. -/
  | prefixWord (m : BitVec 4) (z : BitVec 1) (r : BitVec 3) (f : BitVec 8) (k : BitVec 3) (a : BitVec 6)
  /-- LD (R267): Vector load from tenant virtual memory, one access per active lane. -/
  | ld (f : BitVec 1) (z : BitVec 2) (d : BitVec 7) (o : BitVec 7) (b : BitVec 5) (k : BitVec 2) (n : BitVec 1)
  /-- ST (R267): Vector store to tenant virtual memory. -/
  | st (f : BitVec 1) (z : BitVec 2) (d : BitVec 7) (o : BitVec 7) (b : BitVec 5) (k : BitVec 2) (n : BitVec 1)
  /-- LDS (R270): Scalar load of one access for the party. -/
  | lds (f : BitVec 1) (z : BitVec 2) (d : BitVec 5) (o : BitVec 7) (b : BitVec 5) (k : BitVec 2) (n : BitVec 1)
  /-- STS (R270): Scalar store of one access for the party. -/
  | sts (f : BitVec 1) (z : BitVec 2) (d : BitVec 5) (o : BitVec 7) (b : BitVec 5) (k : BitVec 2) (n : BitVec 1)
  /-- LDP (R271): Vector load from the team's staging or shared pool regions. -/
  | ldp (f : BitVec 1) (z : BitVec 2) (d : BitVec 7) (o : BitVec 7) (b : BitVec 5) (k : BitVec 2) (n : BitVec 1)
  /-- STP (R271): Vector store to the team's staging or shared pool regions. -/
  | stp (f : BitVec 1) (z : BitVec 2) (d : BitVec 7) (o : BitVec 7) (b : BitVec 5) (k : BitVec 2) (n : BitVec 1)
  /-- LDCL (R271): Vector load from a cluster-shared granule of a core's pool. -/
  | ldcl (f : BitVec 1) (z : BitVec 2) (d : BitVec 7) (o : BitVec 7) (b : BitVec 5) (k : BitVec 2) (n : BitVec 1)
  /-- ATOM_ADD (R273): Atomic add at the home slice, returning the old value. -/
  | atomAdd (f : BitVec 1) (w : BitVec 1) (d : BitVec 7) (o : BitVec 7) (b : BitVec 5)
  /-- ATOM_EXCH (R273): Atomic exchange at the home slice. -/
  | atomExch (f : BitVec 1) (w : BitVec 1) (d : BitVec 7) (o : BitVec 7) (b : BitVec 5)
  /-- ATOM_AND (R273): Atomic AND at the home slice. -/
  | atomAnd (f : BitVec 1) (w : BitVec 1) (d : BitVec 7) (o : BitVec 7) (b : BitVec 5)
  /-- ATOM_OR (R273): Atomic OR at the home slice. -/
  | atomOr (f : BitVec 1) (w : BitVec 1) (d : BitVec 7) (o : BitVec 7) (b : BitVec 5)
  /-- ATOM_XOR (R273): Atomic XOR at the home slice. -/
  | atomXor (f : BitVec 1) (w : BitVec 1) (d : BitVec 7) (o : BitVec 7) (b : BitVec 5)
  /-- ATOM_MIN (R273): Atomic signed minimum at the home slice. -/
  | atomMin (f : BitVec 1) (w : BitVec 1) (d : BitVec 7) (o : BitVec 7) (b : BitVec 5)
  /-- ATOM_MAX (R273): Atomic signed maximum at the home slice. -/
  | atomMax (f : BitVec 1) (w : BitVec 1) (d : BitVec 7) (o : BitVec 7) (b : BitVec 5)
  /-- ATOM_MIN_U (R273): Atomic unsigned minimum at the home slice. -/
  | atomMinU (f : BitVec 1) (w : BitVec 1) (d : BitVec 7) (o : BitVec 7) (b : BitVec 5)
  /-- ATOM_MAX_U (R273): Atomic unsigned maximum at the home slice. -/
  | atomMaxU (f : BitVec 1) (w : BitVec 1) (d : BitVec 7) (o : BitVec 7) (b : BitVec 5)
  /-- ATOM_FADD (R273): Atomic FP32 add at the home slice, rounded by RNE. -/
  | atomFadd (f : BitVec 1) (d : BitVec 7) (o : BitVec 7) (b : BitVec 5)
  /-- ATOMC (R274): Compare-and-swap of 4, 8 or 16 bytes per lane in tenant memory. -/
  | atomc (f : BitVec 1) (z : BitVec 2) (d : BitVec 7) (o : BitVec 7) (b : BitVec 5)
  /-- ATOMP_ADD (R273): Atomic add on a pool word. -/
  | atompAdd (f : BitVec 1) (w : BitVec 1) (d : BitVec 7) (o : BitVec 7) (b : BitVec 5)
  /-- ATOMP_EXCH (R273): Atomic exchange on a pool word. -/
  | atompExch (f : BitVec 1) (w : BitVec 1) (d : BitVec 7) (o : BitVec 7) (b : BitVec 5)
  /-- ATOMP_AND (R273): Atomic AND on a pool word. -/
  | atompAnd (f : BitVec 1) (w : BitVec 1) (d : BitVec 7) (o : BitVec 7) (b : BitVec 5)
  /-- ATOMP_OR (R273): Atomic OR on a pool word. -/
  | atompOr (f : BitVec 1) (w : BitVec 1) (d : BitVec 7) (o : BitVec 7) (b : BitVec 5)
  /-- ATOMP_XOR (R273): Atomic XOR on a pool word. -/
  | atompXor (f : BitVec 1) (w : BitVec 1) (d : BitVec 7) (o : BitVec 7) (b : BitVec 5)
  /-- ATOMP_MIN (R273): Atomic signed minimum on a pool word. -/
  | atompMin (f : BitVec 1) (w : BitVec 1) (d : BitVec 7) (o : BitVec 7) (b : BitVec 5)
  /-- ATOMP_MAX (R273): Atomic signed maximum on a pool word. -/
  | atompMax (f : BitVec 1) (w : BitVec 1) (d : BitVec 7) (o : BitVec 7) (b : BitVec 5)
  /-- ATOMP_MIN_U (R273): Atomic unsigned minimum on a pool word. -/
  | atompMinU (f : BitVec 1) (w : BitVec 1) (d : BitVec 7) (o : BitVec 7) (b : BitVec 5)
  /-- ATOMP_MAX_U (R273): Atomic unsigned maximum on a pool word. -/
  | atompMaxU (f : BitVec 1) (w : BitVec 1) (d : BitVec 7) (o : BitVec 7) (b : BitVec 5)
  /-- ATOMP_FADD (R273): Atomic FP32 add on a pool word. -/
  | atompFadd (f : BitVec 1) (d : BitVec 7) (o : BitVec 7) (b : BitVec 5)
  /-- FENCE (R276): Performs the cache actions of its ordering and scope, takes an SC place if SC, and waits for
  flagless operations. -/
  | fence (o : BitVec 2) (s : BitVec 3)
  /-- PREF_L1 (R277): Prefetches each active lane's line into the L1 and the home slice. -/
  | prefL1 (f : BitVec 1) (o : BitVec 7) (b : BitVec 5) (k : BitVec 2) (n : BitVec 1)
  /-- PREF_L2 (R277): Prefetches each active lane's line at the home slice. -/
  | prefL2 (f : BitVec 1) (o : BitVec 7) (b : BitVec 5) (k : BitVec 2) (n : BitVec 1)
  /-- CCTL_WB (R278): Writes back the L1's dirty sectors of each line, leaving them clean. -/
  | cctlWb (f : BitVec 1) (o : BitVec 7) (b : BitVec 5) (k : BitVec 2) (n : BitVec 1)
  /-- CCTL_DC (R278): Drops the L1's clean sectors of each line. -/
  | cctlDc (f : BitVec 1) (o : BitVec 7) (b : BitVec 5) (k : BitVec 2) (n : BitVec 1)
  /-- CCTL_WBDC (R278): Writes back dirty and drops clean L1 sectors of each line. -/
  | cctlWbdc (f : BitVec 1) (o : BitVec 7) (b : BitVec 5) (k : BitVec 2) (n : BitVec 1)
  /-- MEMORY_ACCESS_COMPLETE (R210): A load, store, atomic, PREF or CCTL completes and decrements the flag it counts on.
  -/
  | memoryAccessComplete (op : Nat)
  /-- FABRIC_REJECTION (R29): A peer's rejection of a posted store or non-returning atomic arrives and ends the team at
  its next clause boundary. -/
  | fabricRejection (op : Nat)
  /-- PGROW (R280): Requests granules for the shared region, stalling until granted, and reports the granted size. -/
  | pgrow (i : BitVec 1) (d : BitVec 5) (b : BitVec 8)
  /-- PSHRINK (R54): Takes granules off the top of the shared region at once and reports the granted size. -/
  | pshrink (i : BitVec 1) (d : BitVec 5) (b : BitVec 8)
  /-- PQUERY (R281): Returns one of the pool window or core occupancy values. -/
  | pquery (d : BitVec 5) (x : BitVec 8)
  /-- PSHARE (R282): Marks a run of granules cluster-shared, or unshares it, returning its cluster pool address. -/
  | pshare (i : BitVec 1) (d : BitVec 5) (a : BitVec 8) (b : BitVec 8)
  /-- BARINIT (R285): Initialises a barrier word with an expected count, as a release. -/
  | barinit (d : BitVec 5) (a : BitVec 8) (p : BitVec 1) (c : BitVec 3)
  /-- BARARR (R285): Arrives at a barrier, completing a phase when the count is reached. -/
  | bararr (a : BitVec 8) (p : BitVec 1) (c : BitVec 3)
  /-- BARWAIT (R285): Waits until the barrier's phase reaches the target, then acquires. -/
  | barwait (d : BitVec 5) (a : BitVec 8) (p : BitVec 1) (c : BitVec 3)
  /-- BARTEST (R285): Returns the barrier's lag behind a target phase without waiting. -/
  | bartest (d : BitVec 5) (a : BitVec 8) (p : BitVec 1) (c : BitVec 3)
  /-- BARRIER_PASS (R286): A waiting BARWAIT observes a barrier write whose lag is not negative and passes. -/
  | barrierPass (p : PartyRef)
  /-- CPY (R289): Records a slice of a strided copy; the last slice starts the BXE copy. -/
  | cpy (f : BitVec 1) (d : BitVec 5) (b : BitVec 8)
  /-- CPYIM (R292): Records a slice of an NHWC image-to-row gather copy. -/
  | cpyim (f : BitVec 1) (d : BitVec 5) (b : BitVec 8)
  /-- CPYGT (R291): Records a slice of an indexed row-gather copy. -/
  | cpygt (f : BitVec 1) (d : BitVec 5) (b : BitVec 8)
  /-- BXE_CHUNK_COMPLETE (R290): A 512-byte chunk has performed and the BXE sets its bitmap bit as a release. -/
  | bxeChunkComplete (copy chunk : Nat)
  /-- COPY_COMPLETE (R289): The whole copy has performed and every participant's flag completes. -/
  | copyComplete (copy : Nat)
  /-- CHKW (R294): Waits until every masked bit of a completion bitmap word is set. -/
  | chkw (d : BitVec 5) (b : BitVec 8)
  /-- CHKW_T (R294): Tests whether every masked bitmap bit is set, without waiting. -/
  | chkwT (d : BitVec 5) (a : BitVec 5) (b : BitVec 8)
  /-- CHKW_PASS (R294): A waiting CHKW finds all its masked bits set and passes as a flag wait. -/
  | chkwPass (p : PartyRef)
  /-- CSEND (R297): Contributes a buffer to a collective reduction slot. -/
  | csend (f : BitVec 1) (d : BitVec 7)
  /-- CRECV (R297): Receives the combined result of a collective slot into a buffer. -/
  | crecv (f : BitVec 1) (d : BitVec 7)
  /-- CSEND_COMPLETE (R297): The fabric has taken the contribution and the CSEND flag completes. -/
  | csendComplete (op : Nat)
  /-- CRECV_COMPLETE (R297): Every contributor has contributed and the result has performed; STATUS is written and the
  flag completes. -/
  | crecvComplete (op : Nat) (others : List (List Byte))
  /-- LDW (R303): Checks a control word and loads a weight tile into one or more matrix arrays. -/
  | ldw (f : BitVec 1) (s : BitVec 5) (c : BitVec 8)
  /-- LDW_LATCH (R304): The destination arrays latch the tile whole, or fail, and the LDW flag completes. -/
  | ldwLatch (op : Nat) (latchErrors : BitVec 4)
  /-- MMA (R306): Queues one matrix step accumulating into a tile. -/
  | mma (f : BitVec 1) (f2 : BitVec 4) (t : BitVec 3) (a : BitVec 7) (x : BitVec 1)
  /-- MMAZ (R307): Queues a matrix step that first zeroes the tile. -/
  | mmaz (f : BitVec 1) (f2 : BitVec 4) (t : BitVec 3) (a : BitVec 7) (x : BitVec 1)
  /-- MMA_STEP (R307): The MXA completes a step, writing the tile whole, counting it and clearing its flag, or fails it.
  -/
  | mmaStep (op : Nat)
  /-- ACCRD (R309): Reads 16 columns of an accumulator tile and its step count. -/
  | accrd (d : BitVec 7) (g : BitVec 3) (t : BitVec 3) (c : BitVec 5)
  /-- ACCWR (R309): Writes 16 columns of an accumulator tile from vector registers. -/
  | accwr (d : BitVec 7) (g : BitVec 3) (t : BitVec 3)
  /-- ACCZ (R311): Zeroes an accumulator tile and its step count. -/
  | accz (t : BitVec 3)
  /-- ACCCVT (R310): Converts 16 accumulator columns into a narrow format in vector registers. -/
  | acccvt (d : BitVec 7) (g : BitVec 3) (t : BitVec 3) (s : BitVec 1) (f : BitVec 4)
  /-- ACCALLOC (R311): Allocates and zeroes a tile if not already allocated. -/
  | accalloc (t : BitVec 3)
  /-- ACCFREE (R311): Frees an accumulator tile, discarding its contents. -/
  | accfree (t : BitVec 3)
  /-- HVLD (R322): Loads a hypervector register from memory or the pool. -/
  | hvld (f : BitVec 1) (h : BitVec 4) (p : BitVec 1) (s : BitVec 5)
  /-- HVST (R322): Stores a hypervector register to memory or the pool. -/
  | hvst (f : BitVec 1) (h : BitVec 4) (p : BitVec 1) (s : BitVec 5)
  /-- HVXOR (R319): Binds two hypervectors by XOR. -/
  | hvxor (d : BitVec 4) (a : BitVec 4) (b : BitVec 4)
  /-- HVMAJ3 (R319): Bitwise majority of three hypervectors. -/
  | hvmaj3 (d : BitVec 4) (a : BitVec 4) (c : BitVec 4) (b : BitVec 4)
  /-- HVROT_S (R319): Rotates a hypervector by a scalar register amount. -/
  | hvrotS (d : BitVec 4) (a : BitVec 4) (n : BitVec 5)
  /-- HVROT_IMM (R319): Rotates a hypervector by an 8-bit amount. -/
  | hvrotImm (d : BitVec 4) (a : BitVec 4) (n : BitVec 8)
  /-- HVBUN (R319): Adds a hypervector's bits as plus or minus one to bundle counters, saturating. -/
  | hvbun (d : BitVec 2) (a : BitVec 4)
  /-- HVBUN_SUB (R319): Subtracts a hypervector from bundle counters, saturating. -/
  | hvbunSub (d : BitVec 2) (a : BitVec 4)
  /-- HVTHR (R319): Thresholds a bundle to a hypervector, taking ties from a register. -/
  | hvthr (d : BitVec 4) (a : BitVec 2) (t : BitVec 4)
  /-- HVTHR_ALT (R319): Thresholds a bundle, taking ties from the alternating pattern. -/
  | hvthrAlt (d : BitVec 4) (a : BitVec 2)
  /-- HVCLRB (R319): Clears every counter of a bundle register. -/
  | hvclrb (d : BitVec 2)
  /-- HVDIST (R319): Hamming distance of two hypervectors into a scalar. -/
  | hvdist (d : BitVec 5) (a : BitVec 4) (b : BitVec 4)
  /-- HVPOPC (R319): Population count of a hypervector into a scalar. -/
  | hvpopc (d : BitVec 5) (a : BitVec 4)
  /-- HVNEAR (R323): Searches a light list for the entry nearest a hypervector. -/
  | hvnear (f : BitVec 1) (p : BitVec 1) (d : BitVec 5) (a : BitVec 4) (b : BitVec 5)
  /-- HVGEN (R320): Fills a hypervector from a 64-bit seed by SplitMix64. -/
  | hvgen (d : BitVec 4) (c : BitVec 8)
  /-- HVGET (R321): Reads a per-lane indexed word of a hypervector into vd. -/
  | hvget (d : BitVec 7) (a : BitVec 4) (i : BitVec 8)
  /-- HVSET (R321): Writes lanes of vs into indexed words of a hypervector. -/
  | hvset (d : BitVec 4) (a : BitVec 7) (i : BitVec 8)
  /-- HVU_WORD_COMPLETE (R316): The HVU completes a group's hypervector word in issue order, updating registers and
  BSAT. -/
  | hvuWordComplete (op : Nat)
  /-- HVLD_COMPLETE (R322): Every byte of an HVLD or HVST has been read or written; the register is written whole and
  the flag completes. -/
  | hvldComplete (op : Nat)
  /-- HVNEAR_COMPLETE (R323): The light-list search finishes, writing index and distance scalars and completing the
  flag. -/
  | hvnearComplete (op : Nat)
  /-- EMIT (R332): Appends records from the pool to a stream successor's input queue. -/
  | emit (f : BitVec 1) (p : BitVec 5) (c : BitVec 5) (j : BitVec 8)
  /-- EFLUSH (R333): Asks the Keeper to flush the remainder of a stream successor's queue. -/
  | eflush (f : BitVec 1) (j : BitVec 8)
  /-- LAUNCH (R336): Starts the launch record at s(R), as a release at .DEV. -/
  | launch (f : BitVec 1) (r : BitVec 5)
  /-- SIGNAL (R336): Decrements a record's PREDS and starts it when it reaches zero. -/
  | signal (f : BitVec 1) (r : BitVec 5)
  /-- SYSRD (R337): Reads a system value into a scalar register. -/
  | sysrd (d : BitVec 5) (x : BitVec 8)
  /-- MODEW_MODE (R338): Writes MODE, effective from the next clause header. -/
  | modewMode (b : BitVec 8)
  /-- MODER_MODE (R338): Reads MODE into a scalar register. -/
  | moderMode (d : BitVec 5)
  /-- MODEW_FSTAT (R338): Writes FSTAT, effective for the next instruction. -/
  | modewFstat (b : BitVec 8)
  /-- MODER_FSTAT (R338): Reads FSTAT after earlier hypervector words complete. -/
  | moderFstat (d : BitVec 5)
  /-- TRAPINFO (R339): Reads, and optionally writes, a word of the trap record inside a handler. -/
  | trapinfo (d : BitVec 5) (a : BitVec 8) (b : BitVec 8)
  /-- FWD (R340): Forwards the trap to the fault queue as a fault record and ends the team. -/
  | fwd
  /-- CLAUSE_START (R209): A party checks a clause header, waits for its WAIT flags to read zero, applies a safe point's
  live mask and begins issuing. -/
  | clauseStart (p : PartyRef)
  /-- OPERAND_FILL (R63): The Tender completes filling a missing register into the operand cache from the pool or frame,
  or parks the group. -/
  | operandFill (p : PartyRef) (reg : BitVec 7)
  /-- POOL_GRANT (R51): When granules pass, the allocator grants the oldest waiting request whole from L1 and retained
  granules. -/
  | poolGrant (core : Nat)
  /-- POOL_STALL_LIMIT (R52): A stalled PGROW's stall limit expires and the group faults POOL_EXHAUSTED. -/
  | poolStallLimit (p : PartyRef)
  /-- POOL_DEADLOCK (R53): Every resident team on a core is pool-blocked and the Keeper fails the latest-admitted team's
  requests. -/
  | poolDeadlock (core : Nat)
  /-- GRANULE_PASS_TO_L1 (R54): A freed granule's outstanding accesses finish and it passes to the L1, after which
  waiting requests are served. -/
  | granulePassToL1 (core granule : Nat)
  /-- PSHARE_MOVE_COMPLETE (R282): The Tender finishes moving a run into consecutive granules and PSHARE writes its
  address. -/
  | pshareMoveComplete (p : PartyRef)
  /-- L1_TIMED_WRITEBACK (R77): A dirty L1 sector reaches 32,768 cycles and is written back to its home slice. -/
  | l1TimedWriteback (core sector : Nat)
  /-- COMBINING_BUFFER_TIMEOUT (R78): A combining buffer reaches 512 cycles since its first store and drains its written
  bytes. -/
  | combiningBufferTimeout (core quad line : Nat)
  /-- REPLICA_PLACEMENT (R82): A victim replica's registration reaches the home slice, which accepts or refuses it. -/
  | replicaPlacement (core sector : Nat)
  /-- REPLICA_DROP (R83): A replica slice drops a replica without telling the home. -/
  | replicaDrop (area sector : Nat)
  /-- UNCORRECTABLE_ERROR (R85): An uncorrectable ECC error poisons a sector, drops a clean one, or retires a unit. -/
  | uncorrectableError (site : ErrorSite)
  /-- CORRECTED_ERROR (R85): A corrected ECC error changes no value and counts toward retirement. -/
  | correctedError (unit : HwUnit)
  /-- UNIT_RETIREMENT (R409): A core, MXA or slice is retired, its teams saved and moved, and its slice hosted by its
  partner. -/
  | unitRetirement (unit : HwUnit)
  /-- QUEUE_RECORD_TAKE (R393): The lead Keeper takes the next record of a served queue and accepts it or refuses it. -/
  | queueRecordTake (part : Nat)
  /-- DAYMARK_COPY_COMPLETE (R343): The BXE finishes copying a recorded result and the Keeper writes the completion word
  REUSED. -/
  | daymarkCopyComplete (launch : Nat)
  /-- DEVICE_LAUNCH_ACCEPT (R336): The Keeper accepts or refuses the record named by LAUNCH, or performs SIGNAL's
  decrement, and completes the flag. -/
  | deviceLaunchAccept (op : Nat)
  /-- TEAM_ADMIT (R166): The Keeper places a pending team on a core whose slots, pool and team slot allow, and starts it
  as one gang. -/
  | teamAdmit (part : Nat)
  /-- TEAM_RESUME (R369): The Keeper places a saved team again, migrating its regions if needed and clearing the weight
  tile. -/
  | teamResume (part : Nat)
  /-- TEAM_RETIRE (R237): After the last group exits and its operations complete, the team's pool window is released. -/
  | teamRetire (ctx : Nat)
  /-- LAUNCH_COMPLETE (R124): When every group has exited and every operation completed, the Keeper writes the
  completion word and processes successors. -/
  | launchComplete (launch : Nat)
  /-- EMIT_ACCEPT (R332): The Keeper accepts an EMIT whole once the ring has room, places its records and starts
  batches. -/
  | emitAccept (op : Nat)
  /-- EFLUSH_ACCEPT (R333): After earlier EMITs, the Keeper starts one team for the remainder of the stream queue. -/
  | eflushAccept (op : Nat)
  /-- TIME_SLICE (R351): A team's residency reaches QUANTUM with a pending team of equal or better class, and
  pre-emption is requested. -/
  | timeSlice (ctx : Nat)
  /-- PREEMPT_FOR_ROOM (R351): A pending team has waited PREWAIT and fits nowhere, so higher-class-number teams are
  pre-empted. -/
  | preemptForRoom (part : Nat)
  /-- PLACEMENT_AGING (R349): A pending team's placement class improves by one for each AGE µs of waiting. -/
  | placementAging (part : Nat)
  /-- KEEPER_SAVE (R367): When every party of the team has stopped, the Keeper saves the team and marks its granules
  retained. -/
  | keeperSave (ctx : Nat)
  /-- PREEMPT_HARD_STOP (R366): TIMEOUT expires and every running party is stopped at its next clause boundary without a
  live mask. -/
  | preemptHardStop (ctx : Nat)
  /-- PARTY_ACTIVATE (R355): The quadrant moves one ready pending party into the active set. -/
  | partyActivate (core quad : Nat)
  /-- STARVATION (R355): A pending party ready for 3,072 cycles displaces the longest-entered active party. -/
  | starvation (core quad : Nat)
  /-- ENERGY_TICK (R358): Each 1 µs tick charges static energy to resident contexts and updates launch classes. -/
  | energyTick
  /-- POWER_SAMPLE (R408): Every 10 µs the power manager samples power and temperature and steps the clock down when a
  cap is exceeded. -/
  | powerSample (watts celsius : Nat)
  /-- CLOCK_STEP_UP (R408): After 1 ms of headroom the clock rises by 100 MHz, up to 2.7 GHz. -/
  | clockStepUp
  /-- CAP_ISOLATED_DANGER (R408): A cap still exceeded at 1.2 GHz for 10 ms sets isolated-danger status. -/
  | capIsolatedDanger
  /-- RESUME_TOKEN (R144): A write of a token to the RESUME word frees the token and wakes its waiters to re-execute. -/
  | resumeToken (tf : BitVec 8) (token : Word)
  /-- RESUME_ALL (R144): A write of 0xFFFF_FFFF to the RESUME word wakes every waiter of the tenant function and frees
  its tokens. -/
  | resumeAll (tf : BitVec 8)
  /-- INVCMD_RANGE (R146): Invalidates translations, walk-cache entries and Daymark entries covering a virtual range. -/
  | invcmdRange (tf : BitVec 8) (v : DWord)
  /-- INVCMD_ASID (R146): Invalidates every translation and Daymark entry of the ASID. -/
  | invcmdAsid (tf : BitVec 8) (v : DWord)
  /-- INVCMD_IGNORED (R148): An INVCMD with OP 2 or 3 changes nothing. -/
  | invcmdIgnored (tf : BitVec 8) (v : DWord)
  /-- INVALIDATION_COMPLETE (R147): Every access through removed translations has finished; SEQ is written to the
  completion word and a held command may take effect. -/
  | invalidationComplete (tf : BitVec 8)
  /-- FAULT_QUEUE_ENABLE (R142): FQCTL.EN going to 1 restarts record counting and the fault queue. -/
  | faultQueueEnable (tf : BitVec 8) (v : DWord)
  /-- FAULT_QUEUE_DISABLE (R143): FQCTL.EN going to 0 discards held records and ends the teams they would end. -/
  | faultQueueDisable (tf : BitVec 8) (v : DWord)
  /-- FQCONS_WRITE (R142): Software advances CONS, freeing queue space so held records are written. -/
  | fqconsWrite (tf : BitVec 8) (v : DWord)
  /-- CODE_LOAD (R158): LOAD sets the slot loading and the Keeper begins reading the GCO header. -/
  | codeLoad (tf : BitVec 8) (slot : BitVec 7) (v : DWord)
  /-- CODE_LOAD_VERIFY (R158): The Keeper's reads complete and the header checks set the slot ready or failed. -/
  | codeLoadVerify (tf : BitVec 8) (slot : BitVec 7)
  /-- CODE_UNLOAD (R161): UNLOAD without force empties the object or sets it unloading until REFS reaches zero. -/
  | codeUnload (tf : BitVec 8) (slot : BitVec 7) (v : DWord)
  /-- CODE_UNLOAD_FORCE (R161): Forced UNLOAD ends every context of the object with CODE_GONE. -/
  | codeUnloadForce (tf : BitVec 8) (slot : BitVec 7) (v : DWord)
  /-- CODE_CMD_IGNORED (R157): A CODECTL command of 3, or in a state that does not accept it, is ignored. -/
  | codeCmdIgnored (tf : BitVec 8) (slot : BitVec 7) (v : DWord)
  /-- CODE_PAGE_VERIFY (R159): The first-fetch hash of a code page completes and the page is verified or the object
  poisoned. -/
  | codePageVerify (tf : BitVec 8) (slot : BitVec 7) (page : Nat)
  /-- CODE_OBJECT_EMPTY (R161): An unloading object's REFS reaches zero and it becomes empty. -/
  | codeObjectEmpty (tf : BitVec 8) (slot : BitVec 7)
  /-- TTCTL_WRITE (R37): A write to TTCTL sets EN, VR, DP and ASID under the live-tenant and duplicate-ASID rules. -/
  | ttctlWrite (tf : BitVec 8) (v : DWord)
  /-- TTROOT_WRITE (R37): A write to TTROOT changes the root only while TTCTL.EN is 0. -/
  | ttrootWrite (tf : BitVec 8) (v : DWord)
  /-- TF_PART_WRITE (R395): A write to a tenant function's PART takes effect only while it is disabled and idle. -/
  | tfPartWrite (tf : BitVec 8) (v : DWord)
  /-- DAYMARK_KEY_WRITE (R344): A write to DMKEY invalidates every Daymark entry of the tenant function. -/
  | daymarkKeyWrite (tf : BitVec 8) (half : Bool) (v : DWord)
  /-- QUEUE_ENABLE (R393): EN going to 1 reads the tail word and sets QHEAD to it. -/
  | queueEnable (q : BitVec 12) (v : DWord)
  /-- QUEUE_DISABLE (R393): Clearing EN stops the taking of records at once. -/
  | queueDisable (q : BitVec 12) (v : DWord)
  /-- PARTITION_CHANGE (R397): An accepted PARTCTL.P write invalidates translations, clears caches and Daymark and
  zeroes HBM. -/
  | partitionChange (v : DWord)
  /-- PARTITION_CHANGE_COMPLETE (R397): The repartition finishes, the new P applies and BUSY clears. -/
  | partitionChangeComplete
  /-- COLLECTIVE_SLOT_RELEASE (R400): Clearing a slot entry's EN releases the slot and aborts its outstanding CSEND and
  CRECV. -/
  | collectiveSlotRelease (slot : BitVec 12) (v : DWord)
  /-- ATTESTATION_REQUEST (R411): Writing HCTL.ATT sets ABUSY and starts an attestation report. -/
  | attestationRequest (v : DWord)
  /-- ATTESTATION_COMPLETE (R411): The signed report is written at ADDR and ABUSY clears. -/
  | attestationComplete
  /-- SERVICE_REGISTER_WRITE (R34): A write to a service register without behaviour of its own stores its writable
  fields. -/
  | serviceRegisterWrite (offset : Nat) (v : DWord)
  /-- RDMA_WRITE (R391): An incoming RDMA WRITE is translated whole and performs, or is refused with a NAK. -/
  | rdmaWrite (req : RdmaRequest) (rkey : Word) (va : DWord) (data : List Byte)
  /-- RDMA_WRITE_WITH_IMMEDIATE (R391): An incoming RDMA WRITE with immediate performs as a write and discards the
  immediate. -/
  | rdmaWriteWithImmediate (req : RdmaRequest) (rkey : Word) (va : DWord) (data : List Byte) (imm : Word)
  /-- RDMA_READ (R391): An incoming RDMA READ is translated and answered, or refused with a NAK. -/
  | rdmaRead (req : RdmaRequest) (rkey : Word) (va : DWord) (len : Nat)
  /-- SEND (R392): An incoming 512-byte SEND is written to a launch queue ring and the tail advanced, or NAKed. -/
  | send (req : RdmaRequest) (payload : List Byte)
  /-- INVALID_REQUEST (R390): An unsupported opcode or transport is answered NAK Invalid Request and the queue pair
  enters error. -/
  | invalidRequest (qp : Nat)
  /-- ROCE_RETRANSMISSION (R390): Kutil applies RoCEv2 sequence, acknowledgement and retransmission rules on a queue
  pair. -/
  | roceRetransmission (qp : Nat) (what : RoceSignal)
  /-- PEER_ACCESS (R399): A fabric access from a peer is checked against the import table and performs or is rejected.
  -/
  | peerAccess (dev : BitVec 20) (acc : PeerOp)
  /-- FLIT_DATA (R402): A data flit arrives and is delivered in sequence, held behind a gap, or discarded on a bad CRC.
  -/
  | flitData (port : Nat) (flit : List Byte)
  /-- FLIT_ACKNOWLEDGEMENT (R402): An acknowledgement flit frees covered flits from the replay buffer. -/
  | flitAcknowledgement (port : Nat) (flit : List Byte)
  /-- FLIT_REPLAY_REQUEST (R402): A replay request flit makes the sender resend one data flit. -/
  | flitReplayRequest (port : Nat) (flit : List Byte) (eccOk : Bool)
  /-- FLIT_IDLE (R401): An idle flit arrives and consumes no sequence number. -/
  | flitIdle (port : Nat) (flit : List Byte)
  /-- REPLAY_REQUEST_REPEAT (R402): Every 2 µs the receiver repeats its request for a still-missing flit. -/
  | replayRequestRepeat (port : Nat)
  /-- POWER_UP_RESET (R403): After power-up or reset Kutil runs the boot, self-test, training, spare and zeroing steps
  or enters the fog-signal state. -/
  | powerUpReset (report : PowerUpReport)
  /-- MGMT_STATUS (R406): The management responder returns the failing step and HSTAT. -/
  | mgmtStatus
  /-- MGMT_LOG (R406): The management responder returns 1,024 bytes of the self-test log. -/
  | mgmtLog (offset : Nat)
  /-- MGMT_IMAGE_BLOCK (R406): The management responder buffers a firmware image block and acknowledges it. -/
  | mgmtImageBlock (offset : Nat) (bytes : List Byte)
  /-- MGMT_IMAGE_COMMIT (R406): The responder verifies the buffered image, writes it to flash and resets, or refuses it.
  -/
  | mgmtImageCommit
  /-- MGMT_OTHER_DATAGRAM (R406): Any other datagram to the management responder is ignored. -/
  | mgmtOtherDatagram (bytes : List Byte)
  /-- ILLEGAL_INSTRUCTION (R225): Issuing a word that matches no assigned encoding (unassigned opcode or fn, wrong I,
  reserved selector or code, nonzero must-be-zero field) raises ILLEGAL_INSTRUCTION precisely at that word. -/
  | illegalInstruction (word : Word)
  /-- LINK_TRAINING (R402): A Varla link completes or loses training, after which it carries flits again or the accesses
  it held fault FABRIC. -/
  | linkTraining (port : Nat) (up : Bool)
  deriving DecidableEq, Repr

end Sys2Proof
end

