-- ==== Sys2Proof/WellFormed.lean ====
section
/-!
DEFINITION. Which instructions are well formed: every reserved selector, reserved code, register run
and fixed field that the encoding refuses (R213 to R225, R263, R265, R274, R284, R302, R306, R318, R334).
`wfError` names the first check an instruction fails.
-/

namespace Sys2Proof

/-- Why a word is no instruction; each raises ILLEGAL_INSTRUCTION (Table 08-16). `tooShort` is no
32-bit word at all. -/
inductive DecodeError where
  /-- an opcode that Table 08-15 does not assign -/
  | unassignedOpcode
  /-- an fn, I bit or fixed field that the opcode's rows do not allow -/
  | fixedField
  /-- a reserved source selector (Table 08-6) -/
  | reservedSelector
  /-- a reserved code in a field (Tables 08-7 to 08-14) -/
  | reservedCode
  /-- a register run that would pass v127 (R249, R268, R302) -/
  | runPastV127
  /-- a scalar pair that would pass s31 (R265, R318) -/
  | runPastS31
  /-- fewer than four bytes -/
  | tooShort
  deriving DecidableEq, Repr

namespace Check

/-- Form S column of Table 08-6: constants, scalars, masks and zero. -/
def selS (n : BitVec 8) : Bool := 0x80 ≤ n.toNat && n.toNat ≤ 0xF0

/-- Form A column of Table 08-6: every selector up to 0xF1. -/
def selA (n : BitVec 8) : Bool := n.toNat ≤ 0xF1

/-- One value for the whole word (R263): a constant, a scalar or zero. -/
def selU (n : BitVec 8) : Bool := (0x80 ≤ n.toNat && n.toNat ≤ 0xDF) || n.toNat = 0xF0

/-- An immediate, or a selector of the form (R215). -/
def selSImm (i : BitVec 1) (b : BitVec 8) : Bool := i = 1#1 || selS b
def selAImm (i : BitVec 1) (b : BitVec 8) : Bool := i = 1#1 || selA b
def selUImm (i : BitVec 1) (b : BitVec 8) : Bool := i = 1#1 || selU b

/-- A run of `n` vector registers from `d` stays below v128 (R249). -/
def runFits (d : BitVec 7) (n : Nat) : Bool := d.toNat + n ≤ 128

/-- Element width of a format code (Table 08-13); 0 for a reserved code. -/
def formatWidth (f : Nat) : Nat :=
  match f with
  | 0 | 7 => 32
  | 1 | 2 => 16
  | 3 | 4 | 6 | 8 => 8
  | 5 | 9 => 4
  | _ => 0

/-- VCVT's formats and element group (R260). -/
def cvtCodes (t s : BitVec 4) (g : BitVec 2) : Bool :=
  let wd := formatWidth t.toNat
  let ws := formatWidth s.toNat
  wd ≠ 0 && ws ≠ 0 &&
    !((wd = 4 && ws = 32) || (wd = 32 && ws = 4)) &&
    (if wd > ws then g.toNat < wd / ws
     else if wd < ws then g.toNat < ws / wd
     else g.toNat = 0)

/-- VPACK's and VUNPK's format and element group (R261). -/
def packCodes (f : BitVec 4) (g : BitVec 2) : Bool :=
  let w := formatWidth f.toNat
  w ≠ 0 && w ≠ 32 && (w ≠ 16 || g.toNat ≤ 1)

/-- The control byte of the barrier words (R284). -/
def barControl (p : BitVec 1) (c : BitVec 3) : Bool :=
  if p = 1#1 then c.toNat = 1 else 1 ≤ c.toNat && c.toNat ≤ 5

/-- Activation formats and BA of MMA and MMAZ (Table 12-5). -/
def actFormat (f : BitVec 4) (ba : BitVec 1) : Bool :=
  match f.toNat with
  | 1 | 2 | 6 | 8 => ba = 0#1
  | 3 | 4 => true
  | 5 => ba = 1#1
  | _ => false

/-- Destination formats of ACCCVT (R310). -/
def accFormat (f : BitVec 4) : Bool :=
  match f.toNat with
  | 1 | 2 | 3 | 4 | 6 | 8 => true
  | _ => false

/-- A core index of R47. -/
def validCore (core : Nat) : Bool := core < 512

end Check

open Check in
/-- The first check that an instruction fails, if any. A step with no encoding is well formed when
the core, queue pair, slot or port it names exists. -/
def wfError (ins : Instr) : Option DecodeError :=
  match ins with
  | .bra _ => none
  | .brc _ _ => none
  | .brmAny _ _ => none
  | .brmNone _ _ => none
  | .jmpi _ => none
  | .call _ => none
  | .calli _ => none
  | .ret => none
  | .loop _ _ => none
  | .split _ _ _ => none
  | .join _ => none
  | .joinMerge _ => none
  | .exit => none
  | .yield => none
  | .nop => none
  | .trap _ => none
  | .bkpt => none
  | .eret => none
  | .sadd i _ a b => if !(selS a) then some .reservedSelector else if !(selSImm i b) then some .reservedSelector else none
  | .ssub i _ a b => if !(selS a) then some .reservedSelector else if !(selSImm i b) then some .reservedSelector else none
  | .smul i _ a b => if !(selS a) then some .reservedSelector else if !(selSImm i b) then some .reservedSelector else none
  | .smulh i _ a b => if !(selS a) then some .reservedSelector else if !(selSImm i b) then some .reservedSelector else none
  | .smulhU i _ a b => if !(selS a) then some .reservedSelector else if !(selSImm i b) then some .reservedSelector else none
  | .sdiv i _ a b => if !(selS a) then some .reservedSelector else if !(selSImm i b) then some .reservedSelector else none
  | .sdivU i _ a b => if !(selS a) then some .reservedSelector else if !(selSImm i b) then some .reservedSelector else none
  | .srem i _ a b => if !(selS a) then some .reservedSelector else if !(selSImm i b) then some .reservedSelector else none
  | .sremU i _ a b => if !(selS a) then some .reservedSelector else if !(selSImm i b) then some .reservedSelector else none
  | .sand i _ a b => if !(selS a) then some .reservedSelector else if !(selSImm i b) then some .reservedSelector else none
  | .sor i _ a b => if !(selS a) then some .reservedSelector else if !(selSImm i b) then some .reservedSelector else none
  | .sxor i _ a b => if !(selS a) then some .reservedSelector else if !(selSImm i b) then some .reservedSelector else none
  | .sandn i _ a b => if !(selS a) then some .reservedSelector else if !(selSImm i b) then some .reservedSelector else none
  | .sshl i _ a b => if !(selS a) then some .reservedSelector else if !(selSImm i b) then some .reservedSelector else none
  | .sshr i _ a b => if !(selS a) then some .reservedSelector else if !(selSImm i b) then some .reservedSelector else none
  | .ssar i _ a b => if !(selS a) then some .reservedSelector else if !(selSImm i b) then some .reservedSelector else none
  | .srot i _ a b => if !(selS a) then some .reservedSelector else if !(selSImm i b) then some .reservedSelector else none
  | .smin i _ a b => if !(selS a) then some .reservedSelector else if !(selSImm i b) then some .reservedSelector else none
  | .sminU i _ a b => if !(selS a) then some .reservedSelector else if !(selSImm i b) then some .reservedSelector else none
  | .smax i _ a b => if !(selS a) then some .reservedSelector else if !(selSImm i b) then some .reservedSelector else none
  | .smaxU i _ a b => if !(selS a) then some .reservedSelector else if !(selSImm i b) then some .reservedSelector else none
  | .scmpEq i _ a b => if !(selS a) then some .reservedSelector else if !(selSImm i b) then some .reservedSelector else none
  | .scmpNe i _ a b => if !(selS a) then some .reservedSelector else if !(selSImm i b) then some .reservedSelector else none
  | .scmpLt i _ a b => if !(selS a) then some .reservedSelector else if !(selSImm i b) then some .reservedSelector else none
  | .scmpLe i _ a b => if !(selS a) then some .reservedSelector else if !(selSImm i b) then some .reservedSelector else none
  | .scmpLtU i _ a b => if !(selS a) then some .reservedSelector else if !(selSImm i b) then some .reservedSelector else none
  | .scmpLeU i _ a b => if !(selS a) then some .reservedSelector else if !(selSImm i b) then some .reservedSelector else none
  | .ssel i _ a b => if !(selS a) then some .reservedSelector else if !(selSImm i b) then some .reservedSelector else none
  | .smov i _ b => if !(selSImm i b) then some .reservedSelector else none
  | .sli _ a _ => if !(selS a) then some .reservedSelector else none
  | .spopc _ a => if !(selS a) then some .reservedSelector else none
  | .sclz _ a => if !(selS a) then some .reservedSelector else none
  | .sbfe i _ a b => if !(selS a) then some .reservedSelector else if !(selSImm i b) then some .reservedSelector else none
  | .sbfeS i _ a b => if !(selS a) then some .reservedSelector else if !(selSImm i b) then some .reservedSelector else none
  | .mand _ a b => if !(selS a && selS b) then some .reservedSelector else none
  | .mor _ a b => if !(selS a && selS b) then some .reservedSelector else none
  | .mxor _ a b => if !(selS a && selS b) then some .reservedSelector else none
  | .mandn _ a b => if !(selS a && selS b) then some .reservedSelector else none
  | .mnot _ _ => none
  | .mmov _ _ => none
  | .mfroms _ a => if !(selS a) then some .reservedSelector else none
  | .mtos _ _ => none
  | .mpopc _ _ => none
  | .mffs _ _ => none
  | .mlane i _ b => if !(selSImm i b) then some .reservedSelector else none
  | .mtest _ _ b => if !(selS b) then some .reservedSelector else none
  | .vadd i _ _ b => if !(selAImm i b) then some .reservedSelector else none
  | .vaddI16 i _ _ b => if !(selAImm i b) then some .reservedSelector else none
  | .vaddI8 i _ _ b => if !(selAImm i b) then some .reservedSelector else none
  | .vsub i _ _ b => if !(selAImm i b) then some .reservedSelector else none
  | .vsubI16 i _ _ b => if !(selAImm i b) then some .reservedSelector else none
  | .vsubI8 i _ _ b => if !(selAImm i b) then some .reservedSelector else none
  | .vmullo i _ _ b => if !(selAImm i b) then some .reservedSelector else none
  | .vmulloI16 i _ _ b => if !(selAImm i b) then some .reservedSelector else none
  | .vmulloI8 i _ _ b => if !(selAImm i b) then some .reservedSelector else none
  | .vmulhi i _ _ b => if !(selAImm i b) then some .reservedSelector else none
  | .vmulhiU i _ _ b => if !(selAImm i b) then some .reservedSelector else none
  | .vmad i _ _ b => if !(selAImm i b) then some .reservedSelector else none
  | .vmadI16 i _ _ b => if !(selAImm i b) then some .reservedSelector else none
  | .vmadI8 i _ _ b => if !(selAImm i b) then some .reservedSelector else none
  | .vmin i _ _ b => if !(selAImm i b) then some .reservedSelector else none
  | .vminI16 i _ _ b => if !(selAImm i b) then some .reservedSelector else none
  | .vminI8 i _ _ b => if !(selAImm i b) then some .reservedSelector else none
  | .vminU i _ _ b => if !(selAImm i b) then some .reservedSelector else none
  | .vminUI16 i _ _ b => if !(selAImm i b) then some .reservedSelector else none
  | .vminUI8 i _ _ b => if !(selAImm i b) then some .reservedSelector else none
  | .vmax i _ _ b => if !(selAImm i b) then some .reservedSelector else none
  | .vmaxI16 i _ _ b => if !(selAImm i b) then some .reservedSelector else none
  | .vmaxI8 i _ _ b => if !(selAImm i b) then some .reservedSelector else none
  | .vmaxU i _ _ b => if !(selAImm i b) then some .reservedSelector else none
  | .vmaxUI16 i _ _ b => if !(selAImm i b) then some .reservedSelector else none
  | .vmaxUI8 i _ _ b => if !(selAImm i b) then some .reservedSelector else none
  | .vabsd i _ _ b => if !(selAImm i b) then some .reservedSelector else none
  | .vabsdU i _ _ b => if !(selAImm i b) then some .reservedSelector else none
  | .vaddsat i _ _ b => if !(selAImm i b) then some .reservedSelector else none
  | .vaddsatI16 i _ _ b => if !(selAImm i b) then some .reservedSelector else none
  | .vaddsatI8 i _ _ b => if !(selAImm i b) then some .reservedSelector else none
  | .vaddsatU8 i _ _ b => if !(selAImm i b) then some .reservedSelector else none
  | .vsubsat i _ _ b => if !(selAImm i b) then some .reservedSelector else none
  | .vsubsatI16 i _ _ b => if !(selAImm i b) then some .reservedSelector else none
  | .vsubsatI8 i _ _ b => if !(selAImm i b) then some .reservedSelector else none
  | .vsubsatU8 i _ _ b => if !(selAImm i b) then some .reservedSelector else none
  | .vand i _ _ b => if !(selAImm i b) then some .reservedSelector else none
  | .vor i _ _ b => if !(selAImm i b) then some .reservedSelector else none
  | .vxor i _ _ b => if !(selAImm i b) then some .reservedSelector else none
  | .vandn i _ _ b => if !(selAImm i b) then some .reservedSelector else none
  | .vshl i _ _ b => if !(selAImm i b) then some .reservedSelector else none
  | .vshr i _ _ b => if !(selAImm i b) then some .reservedSelector else none
  | .vsar i _ _ b => if !(selAImm i b) then some .reservedSelector else none
  | .vrot i _ _ b => if !(selAImm i b) then some .reservedSelector else none
  | .vpopc _ _ => none
  | .vclz _ _ => none
  | .vbrev _ _ => none
  | .vbfe i _ _ b => if !(selAImm i b) then some .reservedSelector else none
  | .vbfeS i _ _ b => if !(selAImm i b) then some .reservedSelector else none
  | .vbfi i _ _ b => if !(selAImm i b) then some .reservedSelector else none
  | .vcmp i c _ _ b => if !(selAImm i b) then some .reservedSelector else if !(c.toNat ≤ 5) then some .reservedCode else none
  | .vsel i _ _ b => if !(selAImm i b) then some .reservedSelector else none
  | .vmov i _ b => if !(selAImm i b) then some .reservedSelector else none
  | .vrdx i _ _ b => if !(selAImm i b) then some .reservedSelector else none
  | .vwrx i _ _ b => if !(selAImm i b) then some .reservedSelector else none
  | .vdead d n => if !(runFits d (n.toNat + 1)) then some .runPastV127 else none
  | .vfadd _ _ b => if !(selA b) then some .reservedSelector else none
  | .vfaddF16 _ _ b => if !(selA b) then some .reservedSelector else none
  | .vfaddBf16 _ _ b => if !(selA b) then some .reservedSelector else none
  | .vfsub _ _ b => if !(selA b) then some .reservedSelector else none
  | .vfsubF16 _ _ b => if !(selA b) then some .reservedSelector else none
  | .vfsubBf16 _ _ b => if !(selA b) then some .reservedSelector else none
  | .vfmul _ _ b => if !(selA b) then some .reservedSelector else none
  | .vfmulF16 _ _ b => if !(selA b) then some .reservedSelector else none
  | .vfmulBf16 _ _ b => if !(selA b) then some .reservedSelector else none
  | .vfma _ _ b => if !(selA b) then some .reservedSelector else none
  | .vfmaF16 _ _ b => if !(selA b) then some .reservedSelector else none
  | .vfmaBf16 _ _ b => if !(selA b) then some .reservedSelector else none
  | .vfmin _ _ b => if !(selA b) then some .reservedSelector else none
  | .vfminF16 _ _ b => if !(selA b) then some .reservedSelector else none
  | .vfminBf16 _ _ b => if !(selA b) then some .reservedSelector else none
  | .vfmax _ _ b => if !(selA b) then some .reservedSelector else none
  | .vfmaxF16 _ _ b => if !(selA b) then some .reservedSelector else none
  | .vfmaxBf16 _ _ b => if !(selA b) then some .reservedSelector else none
  | .vfsgn _ _ b => if !(selA b) then some .reservedSelector else none
  | .vfsgnN _ _ b => if !(selA b) then some .reservedSelector else none
  | .vfsgnX _ _ b => if !(selA b) then some .reservedSelector else none
  | .vfcmp c _ _ b => if !(selA b) then some .reservedSelector else if !(c.toNat ≤ 5) then some .reservedCode else none
  | .vfclass _ _ => none
  | .vfdiv _ _ b => if !(selA b) then some .reservedSelector else none
  | .vfsqrt _ _ => none
  | .vfrcp _ _ => none
  | .vfrsq _ _ => none
  | .vfexp2 _ _ => none
  | .vflog2 _ _ => none
  | .vfsin _ _ => none
  | .vfcos _ _ => none
  | .vfrnd _ _ => none
  | .vfrndF16 _ _ => none
  | .vfrndBf16 _ _ => none
  | .vcvt g _ _ t s => if !(cvtCodes t s g) then some .reservedCode else none
  | .vpack g _ _ f => if !(packCodes f g) then some .reservedCode else none
  | .vunpk g _ _ f => if !(packCodes f g) then some .reservedCode else none
  | .vquantE4m3 _ _ => none
  | .vquantE5m2 _ _ => none
  | .vquantE2m1 _ _ => none
  | .vdeqE4m3 _ _ => none
  | .vdeqE5m2 _ _ => none
  | .vdeqE2m1 _ _ => none
  | .vperm _ _ b => if !(selA b) then some .reservedSelector else none
  | .vbcast i _ _ b => if !(selUImm i b) then some .reservedSelector else none
  | .vlshiftUp i _ _ b => if !(selUImm i b) then some .reservedSelector else none
  | .vlshiftDn i _ _ b => if !(selUImm i b) then some .reservedSelector else none
  | .vred _ _ o => if !(o.toNat ≤ 10) then some .reservedCode else none
  | .vredScalar _ _ o => if !(o.toNat ≤ 10) then some .reservedCode else none
  | .vredmi d _ => if !(runFits d 2) then some .runPastV127 else none
  | .vredmiScalar d _ => if !(d.toNat ≤ 30) then some .runPastS31 else none
  | .vscan _ _ o => if !(o.toNat ≤ 10) then some .reservedCode else none
  | .vscanEx _ _ o => if !(o.toNat ≤ 10) then some .reservedCode else none
  | .vballot _ _ => none
  | .vextr i _ _ b => if !(selUImm i b) then some .reservedSelector else none
  | .vins i _ _ b => if !(selAImm i b) then some .reservedSelector else none
  | .prefixWord _ _ r _ k a => if !(r.toNat ≠ 7) then some .reservedCode else if !(k.toNat ≤ 4) then some .reservedCode else if !((k.toNat ≠ 0 && k.toNat ≠ 4) || a.toNat = 0) then some .fixedField else none
  | .ld _ z d _ _ _ _ => if !(z.toNat ≠ 3 || runFits d 2) then some .runPastV127 else none
  | .st _ z d _ _ _ _ => if !(z.toNat ≠ 3 || runFits d 2) then some .runPastV127 else none
  | .lds _ _ _ _ _ _ _ => none
  | .sts _ _ _ _ _ _ _ => none
  | .ldp _ z d _ _ _ _ => if !(z.toNat ≠ 3 || runFits d 2) then some .runPastV127 else none
  | .stp _ z d _ _ _ _ => if !(z.toNat ≠ 3 || runFits d 2) then some .runPastV127 else none
  | .ldcl _ z d _ _ _ _ => if !(z.toNat ≠ 3 || runFits d 2) then some .runPastV127 else none
  | .atomAdd _ w d _ _ => if !(w.toNat = 0 || runFits d 2) then some .runPastV127 else none
  | .atomExch _ w d _ _ => if !(w.toNat = 0 || runFits d 2) then some .runPastV127 else none
  | .atomAnd _ w d _ _ => if !(w.toNat = 0 || runFits d 2) then some .runPastV127 else none
  | .atomOr _ w d _ _ => if !(w.toNat = 0 || runFits d 2) then some .runPastV127 else none
  | .atomXor _ w d _ _ => if !(w.toNat = 0 || runFits d 2) then some .runPastV127 else none
  | .atomMin _ w d _ _ => if !(w.toNat = 0 || runFits d 2) then some .runPastV127 else none
  | .atomMax _ w d _ _ => if !(w.toNat = 0 || runFits d 2) then some .runPastV127 else none
  | .atomMinU _ w d _ _ => if !(w.toNat = 0 || runFits d 2) then some .runPastV127 else none
  | .atomMaxU _ w d _ _ => if !(w.toNat = 0 || runFits d 2) then some .runPastV127 else none
  | .atomFadd _ _ _ _ => none
  | .atomc _ z d _ _ => if !(z.toNat ≠ 3) then some .reservedCode else if !(runFits d (3 * 2 ^ z.toNat)) then some .runPastV127 else none
  | .atompAdd _ w d _ _ => if !(w.toNat = 0 || runFits d 2) then some .runPastV127 else none
  | .atompExch _ w d _ _ => if !(w.toNat = 0 || runFits d 2) then some .runPastV127 else none
  | .atompAnd _ w d _ _ => if !(w.toNat = 0 || runFits d 2) then some .runPastV127 else none
  | .atompOr _ w d _ _ => if !(w.toNat = 0 || runFits d 2) then some .runPastV127 else none
  | .atompXor _ w d _ _ => if !(w.toNat = 0 || runFits d 2) then some .runPastV127 else none
  | .atompMin _ w d _ _ => if !(w.toNat = 0 || runFits d 2) then some .runPastV127 else none
  | .atompMax _ w d _ _ => if !(w.toNat = 0 || runFits d 2) then some .runPastV127 else none
  | .atompMinU _ w d _ _ => if !(w.toNat = 0 || runFits d 2) then some .runPastV127 else none
  | .atompMaxU _ w d _ _ => if !(w.toNat = 0 || runFits d 2) then some .runPastV127 else none
  | .atompFadd _ _ _ _ => none
  | .fence _ s => if !(s.toNat ≤ 5) then some .reservedCode else none
  | .prefL1 _ _ _ _ _ => none
  | .prefL2 _ _ _ _ _ => none
  | .cctlWb _ _ _ _ _ => none
  | .cctlDc _ _ _ _ _ => none
  | .cctlWbdc _ _ _ _ _ => none
  | .memoryAccessComplete _ => none
  | .fabricRejection _ => none
  | .pgrow i _ b => if !(selSImm i b) then some .reservedSelector else none
  | .pshrink i _ b => if !(selSImm i b) then some .reservedSelector else none
  | .pquery _ x => if !(x.toNat ≤ 7) then some .reservedCode else none
  | .pshare i _ a b => if !(selS a) then some .reservedSelector else if !(selSImm i b) then some .reservedSelector else none
  | .barinit _ a p c => if !(selS a) then some .reservedSelector else if !(barControl p c) then some .reservedCode else none
  | .bararr a p c => if !(selS a) then some .reservedSelector else if !(barControl p c) then some .reservedCode else none
  | .barwait _ a p c => if !(selS a) then some .reservedSelector else if !(barControl p c) then some .reservedCode else none
  | .bartest _ a p c => if !(selS a) then some .reservedSelector else if !(barControl p c) then some .reservedCode else none
  | .barrierPass _ => none
  | .cpy _ _ b => if !(selS b) then some .reservedSelector else none
  | .cpyim _ _ b => if !(selS b) then some .reservedSelector else none
  | .cpygt _ _ b => if !(selS b) then some .reservedSelector else none
  | .bxeChunkComplete _ _ => none
  | .copyComplete _ => none
  | .chkw _ b => if !(selS b) then some .reservedSelector else none
  | .chkwT _ _ b => if !(selS b) then some .reservedSelector else none
  | .chkwPass _ => none
  | .csend _ d => if !(d.toNat < 32) then some .fixedField else none
  | .crecv _ d => if !(d.toNat < 32) then some .fixedField else none
  | .csendComplete _ => none
  | .crecvComplete _ _ => none
  | .ldw _ _ c => if !(selS c) then some .reservedSelector else none
  | .ldwLatch _ _ => none
  | .mma _ f2 _ a x => if !(actFormat f2 x) then some .reservedCode else if !(runFits a (16 + x.toNat)) then some .runPastV127 else none
  | .mmaz _ f2 _ a x => if !(actFormat f2 x) then some .reservedCode else if !(runFits a (16 + x.toNat)) then some .runPastV127 else none
  | .mmaStep _ => none
  | .accrd d _ _ _ => if !(runFits d 16) then some .runPastV127 else none
  | .accwr d _ _ => if !(runFits d 16) then some .runPastV127 else none
  | .accz _ => none
  | .acccvt d _ _ _ f => if !(accFormat f) then some .reservedCode else if !(runFits d (if f.toNat ≤ 2 then 8 else 4)) then some .runPastV127 else none
  | .accalloc _ => none
  | .accfree _ => none
  | .hvld _ _ _ _ => none
  | .hvst _ _ _ _ => none
  | .hvxor _ _ _ => none
  | .hvmaj3 _ _ _ _ => none
  | .hvrotS _ _ _ => none
  | .hvrotImm _ _ _ => none
  | .hvbun _ _ => none
  | .hvbunSub _ _ => none
  | .hvthr _ _ _ => none
  | .hvthrAlt _ _ => none
  | .hvclrb _ => none
  | .hvdist _ _ _ => none
  | .hvpopc _ _ => none
  | .hvnear _ _ d _ b => if !(d.toNat ≤ 30 && b.toNat ≤ 30) then some .runPastS31 else none
  | .hvgen _ c => if !(selS c) then some .reservedSelector else none
  | .hvget _ _ i => if !(selA i) then some .reservedSelector else none
  | .hvset _ _ i => if !(selA i) then some .reservedSelector else none
  | .hvuWordComplete _ => none
  | .hvldComplete _ => none
  | .hvnearComplete _ => none
  | .emit _ _ _ j => if !(j.toNat ≤ 63) then some .reservedCode else none
  | .eflush _ j => if !(j.toNat ≤ 63) then some .reservedCode else none
  | .launch _ _ => none
  | .signal _ _ => none
  | .sysrd _ x => if !(x.toNat ≤ 13) then some .reservedCode else none
  | .modewMode b => if !(selS b) then some .reservedSelector else none
  | .moderMode _ => none
  | .modewFstat b => if !(selS b) then some .reservedSelector else none
  | .moderFstat _ => none
  | .trapinfo _ a b => if !(selS a && selS b) then some .reservedSelector else none
  | .fwd => none
  | .clauseStart _ => none
  | .operandFill _ _ => none
  | .poolGrant core => if !(validCore core) then some .fixedField else none
  | .poolStallLimit _ => none
  | .poolDeadlock core => if !(validCore core) then some .fixedField else none
  | .granulePassToL1 core granule => if !(validCore core && granule < 256) then some .fixedField else none
  | .pshareMoveComplete _ => none
  | .l1TimedWriteback core _ => if !(validCore core) then some .fixedField else none
  | .combiningBufferTimeout core quad _ => if !(validCore core && quad < 4) then some .fixedField else none
  | .replicaPlacement core _ => if !(validCore core) then some .fixedField else none
  | .replicaDrop _ _ => none
  | .uncorrectableError _ => none
  | .correctedError _ => none
  | .unitRetirement _ => none
  | .queueRecordTake part => if !(part < 4) then some .fixedField else none
  | .daymarkCopyComplete _ => none
  | .deviceLaunchAccept _ => none
  | .teamAdmit part => if !(part < 4) then some .fixedField else none
  | .teamResume part => if !(part < 4) then some .fixedField else none
  | .teamRetire _ => none
  | .launchComplete _ => none
  | .emitAccept _ => none
  | .eflushAccept _ => none
  | .timeSlice _ => none
  | .preemptForRoom part => if !(part < 4) then some .fixedField else none
  | .placementAging part => if !(part < 4) then some .fixedField else none
  | .keeperSave _ => none
  | .preemptHardStop _ => none
  | .partyActivate core quad => if !(validCore core && quad < 4) then some .fixedField else none
  | .starvation core quad => if !(validCore core && quad < 4) then some .fixedField else none
  | .energyTick => none
  | .powerSample _ _ => none
  | .clockStepUp => none
  | .capIsolatedDanger => none
  | .resumeToken _ _ => none
  | .resumeAll _ => none
  | .invcmdRange _ _ => none
  | .invcmdAsid _ _ => none
  | .invcmdIgnored _ _ => none
  | .invalidationComplete _ => none
  | .faultQueueEnable _ _ => none
  | .faultQueueDisable _ _ => none
  | .fqconsWrite _ _ => none
  | .codeLoad _ _ _ => none
  | .codeLoadVerify _ _ => none
  | .codeUnload _ _ _ => none
  | .codeUnloadForce _ _ _ => none
  | .codeCmdIgnored _ _ _ => none
  | .codePageVerify _ _ _ => none
  | .codeObjectEmpty _ _ => none
  | .ttctlWrite _ _ => none
  | .ttrootWrite _ _ => none
  | .tfPartWrite _ _ => none
  | .daymarkKeyWrite _ _ _ => none
  | .queueEnable _ _ => none
  | .queueDisable _ _ => none
  | .partitionChange _ => none
  | .partitionChangeComplete => none
  | .collectiveSlotRelease _ _ => none
  | .attestationRequest _ => none
  | .attestationComplete => none
  | .serviceRegisterWrite _ _ => none
  | .rdmaWrite r _ _ _ => if !(r.qp < 8192) then some .fixedField else none
  | .rdmaWriteWithImmediate r _ _ _ _ => if !(r.qp < 8192) then some .fixedField else none
  | .rdmaRead r _ _ _ => if !(r.qp < 8192) then some .fixedField else none
  | .send r _ => if !(r.qp < 8192) then some .fixedField else none
  | .invalidRequest qp => if !(qp < 8192) then some .fixedField else none
  | .roceRetransmission qp _ => if !(qp < 8192) then some .fixedField else none
  | .peerAccess _ _ => none
  | .flitData port flit => if !(port < 24 && flit.length = 64) then some .fixedField else none
  | .flitAcknowledgement port flit => if !(port < 24 && flit.length = 64) then some .fixedField else none
  | .flitReplayRequest port flit _ => if !(port < 24 && flit.length = 64) then some .fixedField else none
  | .flitIdle port flit => if !(port < 24 && flit.length = 64) then some .fixedField else none
  | .replayRequestRepeat port => if !(port < 24) then some .fixedField else none
  | .powerUpReset _ => none
  | .mgmtStatus => none
  | .mgmtLog _ => none
  | .mgmtImageBlock _ _ => none
  | .mgmtImageCommit => none
  | .mgmtOtherDatagram _ => none
  | .illegalInstruction _ => none
  | .linkTraining port _ => if !(port < 24) then some .fixedField else none

/-- The instruction can be encoded, or names things that exist. -/
def WellFormed (ins : Instr) : Prop := wfError ins = none

end Sys2Proof
end

