-- ==== Sys2Proof/Decode.lean ====
section
/-!
DEFINITION. The decoder and the encoder of instruction words (R213 to R225). A word is read by its
opcode [31:25], then by the rows of that opcode: the row whose fixed bits match gives the
constructor and its fields; the checks of `wfError` then refuse reserved values by name. A byte
sequence is read little-endian (R204).
The section is noncomputable only because Lean's compiler cannot lay out a value of a type with more
than 244 constructors; Lean's kernel evaluates every definition here.
-/

noncomputable section

namespace Sys2Proof

/-- Bits [lo + n − 1 : lo] of a word. -/
def bits (w : Word) (lo n : Nat) : BitVec n := w.extractLsb' lo n

/-- The fixed bits of a row match. -/
def fits (w mask pattern : Word) : Bool := w &&& mask == pattern

/-- Rows of opcode 0x00. -/
def rowsOf00 (w : Word) : Option Instr :=
  if fits w 0xFFE00000 0x00000000 then some (.bra (bits w 0 21)) else
  none

/-- Rows of opcode 0x01. -/
def rowsOf01 (w : Word) : Option Instr :=
  if fits w 0xFE000000 0x02000000 then some (.brc (bits w 21 4) (bits w 0 21)) else
  none

/-- Rows of opcode 0x02. -/
def rowsOf02 (w : Word) : Option Instr :=
  if fits w 0xFF000000 0x04000000 then some (.brmAny (bits w 21 3) (bits w 0 21)) else
  if fits w 0xFF000000 0x05000000 then some (.brmNone (bits w 21 3) (bits w 0 21)) else
  none

/-- Rows of opcode 0x03. -/
def rowsOf03 (w : Word) : Option Instr :=
  if fits w 0xFE1FFFFF 0x06000000 then some (.jmpi (bits w 21 4)) else
  none

/-- Rows of opcode 0x04. -/
def rowsOf04 (w : Word) : Option Instr :=
  if fits w 0xFFE00000 0x08000000 then some (.call (bits w 0 21)) else
  none

/-- Rows of opcode 0x05. -/
def rowsOf05 (w : Word) : Option Instr :=
  if fits w 0xFE1FFFFF 0x0A000000 then some (.calli (bits w 21 4)) else
  none

/-- Rows of opcode 0x06. -/
def rowsOf06 (w : Word) : Option Instr :=
  if fits w 0xFFFFFFFF 0x0C000000 then some (.ret) else
  none

/-- Rows of opcode 0x07. -/
def rowsOf07 (w : Word) : Option Instr :=
  if fits w 0xFE000000 0x0E000000 then some (.loop (bits w 21 4) (bits w 0 21)) else
  none

/-- Rows of opcode 0x08. -/
def rowsOf08 (w : Word) : Option Instr :=
  if fits w 0xFE000000 0x10000000 then some (.split (bits w 21 4) (bits w 17 4) (bits w 0 17)) else
  none

/-- Rows of opcode 0x09. -/
def rowsOf09 (w : Word) : Option Instr :=
  if fits w 0xFE1FFFFF 0x12000000 then some (.join (bits w 21 4)) else
  none

/-- Rows of opcode 0x0A. -/
def rowsOf0A (w : Word) : Option Instr :=
  if fits w 0xFFFFFFFF 0x14000000 then some (.exit) else
  none

/-- Rows of opcode 0x0B. -/
def rowsOf0B (w : Word) : Option Instr :=
  if fits w 0xFFFFFFFF 0x16000000 then some (.yield) else
  none

/-- Rows of opcode 0x0C. -/
def rowsOf0C (w : Word) : Option Instr :=
  if fits w 0xFFFFFFFF 0x18000000 then some (.nop) else
  none

/-- Rows of opcode 0x0D. -/
def rowsOf0D (w : Word) : Option Instr :=
  if fits w 0xFFFFFF00 0x1A000000 then some (.trap (bits w 0 8)) else
  none

/-- Rows of opcode 0x0E. -/
def rowsOf0E (w : Word) : Option Instr :=
  if fits w 0xFFFFFFFF 0x1C000000 then some (.bkpt) else
  none

/-- Rows of opcode 0x0F. -/
def rowsOf0F (w : Word) : Option Instr :=
  if fits w 0xFFFFFFFF 0x1E000000 then some (.eret) else
  none

/-- Rows of opcode 0x10. -/
def rowsOf10 (w : Word) : Option Instr :=
  if fits w 0xFEE00000 0x20000000 then some (.sadd (bits w 24 1) (bits w 16 5) (bits w 8 8) (bits w 0 8)) else
  if fits w 0xFEE00000 0x20200000 then some (.ssub (bits w 24 1) (bits w 16 5) (bits w 8 8) (bits w 0 8)) else
  none

/-- Rows of opcode 0x11. -/
def rowsOf11 (w : Word) : Option Instr :=
  if fits w 0xFEE00000 0x22000000 then some (.smul (bits w 24 1) (bits w 16 5) (bits w 8 8) (bits w 0 8)) else
  if fits w 0xFEE00000 0x22200000 then some (.smulh (bits w 24 1) (bits w 16 5) (bits w 8 8) (bits w 0 8)) else
  if fits w 0xFEE00000 0x22400000 then some (.smulhU (bits w 24 1) (bits w 16 5) (bits w 8 8) (bits w 0 8)) else
  none

/-- Rows of opcode 0x12. -/
def rowsOf12 (w : Word) : Option Instr :=
  if fits w 0xFEE00000 0x24000000 then some (.sdiv (bits w 24 1) (bits w 16 5) (bits w 8 8) (bits w 0 8)) else
  if fits w 0xFEE00000 0x24200000 then some (.sdivU (bits w 24 1) (bits w 16 5) (bits w 8 8) (bits w 0 8)) else
  if fits w 0xFEE00000 0x24400000 then some (.srem (bits w 24 1) (bits w 16 5) (bits w 8 8) (bits w 0 8)) else
  if fits w 0xFEE00000 0x24600000 then some (.sremU (bits w 24 1) (bits w 16 5) (bits w 8 8) (bits w 0 8)) else
  none

/-- Rows of opcode 0x13. -/
def rowsOf13 (w : Word) : Option Instr :=
  if fits w 0xFEE00000 0x26000000 then some (.sand (bits w 24 1) (bits w 16 5) (bits w 8 8) (bits w 0 8)) else
  if fits w 0xFEE00000 0x26200000 then some (.sor (bits w 24 1) (bits w 16 5) (bits w 8 8) (bits w 0 8)) else
  if fits w 0xFEE00000 0x26400000 then some (.sxor (bits w 24 1) (bits w 16 5) (bits w 8 8) (bits w 0 8)) else
  if fits w 0xFEE00000 0x26600000 then some (.sandn (bits w 24 1) (bits w 16 5) (bits w 8 8) (bits w 0 8)) else
  none

/-- Rows of opcode 0x14. -/
def rowsOf14 (w : Word) : Option Instr :=
  if fits w 0xFEE00000 0x28000000 then some (.sshl (bits w 24 1) (bits w 16 5) (bits w 8 8) (bits w 0 8)) else
  if fits w 0xFEE00000 0x28200000 then some (.sshr (bits w 24 1) (bits w 16 5) (bits w 8 8) (bits w 0 8)) else
  if fits w 0xFEE00000 0x28400000 then some (.ssar (bits w 24 1) (bits w 16 5) (bits w 8 8) (bits w 0 8)) else
  if fits w 0xFEE00000 0x28600000 then some (.srot (bits w 24 1) (bits w 16 5) (bits w 8 8) (bits w 0 8)) else
  none

/-- Rows of opcode 0x15. -/
def rowsOf15 (w : Word) : Option Instr :=
  if fits w 0xFEE00000 0x2A000000 then some (.smin (bits w 24 1) (bits w 16 5) (bits w 8 8) (bits w 0 8)) else
  if fits w 0xFEE00000 0x2A200000 then some (.sminU (bits w 24 1) (bits w 16 5) (bits w 8 8) (bits w 0 8)) else
  if fits w 0xFEE00000 0x2A400000 then some (.smax (bits w 24 1) (bits w 16 5) (bits w 8 8) (bits w 0 8)) else
  if fits w 0xFEE00000 0x2A600000 then some (.smaxU (bits w 24 1) (bits w 16 5) (bits w 8 8) (bits w 0 8)) else
  none

/-- Rows of opcode 0x16. -/
def rowsOf16 (w : Word) : Option Instr :=
  if fits w 0xFEE00000 0x2C000000 then some (.scmpEq (bits w 24 1) (bits w 16 5) (bits w 8 8) (bits w 0 8)) else
  if fits w 0xFEE00000 0x2C200000 then some (.scmpNe (bits w 24 1) (bits w 16 5) (bits w 8 8) (bits w 0 8)) else
  if fits w 0xFEE00000 0x2C400000 then some (.scmpLt (bits w 24 1) (bits w 16 5) (bits w 8 8) (bits w 0 8)) else
  if fits w 0xFEE00000 0x2C600000 then some (.scmpLe (bits w 24 1) (bits w 16 5) (bits w 8 8) (bits w 0 8)) else
  if fits w 0xFEE00000 0x2C800000 then some (.scmpLtU (bits w 24 1) (bits w 16 5) (bits w 8 8) (bits w 0 8)) else
  if fits w 0xFEE00000 0x2CA00000 then some (.scmpLeU (bits w 24 1) (bits w 16 5) (bits w 8 8) (bits w 0 8)) else
  none

/-- Rows of opcode 0x17. -/
def rowsOf17 (w : Word) : Option Instr :=
  if fits w 0xFEE00000 0x2E000000 then some (.ssel (bits w 24 1) (bits w 16 5) (bits w 8 8) (bits w 0 8)) else
  none

/-- Rows of opcode 0x18. -/
def rowsOf18 (w : Word) : Option Instr :=
  if fits w 0xFEE0FF00 0x3000F000 then some (.smov (bits w 24 1) (bits w 16 5) (bits w 0 8)) else
  if fits w 0xFFE00000 0x31200000 then some (.sli (bits w 16 5) (bits w 8 8) (bits w 0 8)) else
  none

/-- Rows of opcode 0x19. -/
def rowsOf19 (w : Word) : Option Instr :=
  if fits w 0xFFE000FF 0x320000F0 then some (.spopc (bits w 16 5) (bits w 8 8)) else
  if fits w 0xFFE000FF 0x322000F0 then some (.sclz (bits w 16 5) (bits w 8 8)) else
  none

/-- Rows of opcode 0x1A. -/
def rowsOf1A (w : Word) : Option Instr :=
  if fits w 0xFEE00000 0x34000000 then some (.sbfe (bits w 24 1) (bits w 16 5) (bits w 8 8) (bits w 0 8)) else
  if fits w 0xFEE00000 0x34200000 then some (.sbfeS (bits w 24 1) (bits w 16 5) (bits w 8 8) (bits w 0 8)) else
  none

/-- Rows of opcode 0x20. -/
def rowsOf20 (w : Word) : Option Instr :=
  if fits w 0xFFF00000 0x40000000 then some (.mand (bits w 16 4) (bits w 8 8) (bits w 0 8)) else
  if fits w 0xFFF00000 0x40200000 then some (.mor (bits w 16 4) (bits w 8 8) (bits w 0 8)) else
  if fits w 0xFFF00000 0x40400000 then some (.mxor (bits w 16 4) (bits w 8 8) (bits w 0 8)) else
  if fits w 0xFFF00000 0x40600000 then some (.mandn (bits w 16 4) (bits w 8 8) (bits w 0 8)) else
  none

/-- Rows of opcode 0x21. -/
def rowsOf21 (w : Word) : Option Instr :=
  if fits w 0xFFF0F0FF 0x4200E0F0 then some (.mnot (bits w 16 4) (bits w 8 4)) else
  if fits w 0xFFF0F0FF 0x4220E0F0 then some (.mmov (bits w 16 4) (bits w 8 4)) else
  none

/-- Rows of opcode 0x22. -/
def rowsOf22 (w : Word) : Option Instr :=
  if fits w 0xFFF000FF 0x440000F0 then some (.mfroms (bits w 16 4) (bits w 8 8)) else
  if fits w 0xFFE0F0FF 0x4420E0F0 then some (.mtos (bits w 16 5) (bits w 8 4)) else
  none

/-- Rows of opcode 0x23. -/
def rowsOf23 (w : Word) : Option Instr :=
  if fits w 0xFFE0F0FF 0x4600E0F0 then some (.mpopc (bits w 16 5) (bits w 8 4)) else
  if fits w 0xFFE0F0FF 0x4620E0F0 then some (.mffs (bits w 16 5) (bits w 8 4)) else
  none

/-- Rows of opcode 0x24. -/
def rowsOf24 (w : Word) : Option Instr :=
  if fits w 0xFEF0FF00 0x4800F000 then some (.mlane (bits w 24 1) (bits w 16 4) (bits w 0 8)) else
  none

/-- Rows of opcode 0x25. -/
def rowsOf25 (w : Word) : Option Instr :=
  if fits w 0xFFE0F000 0x4A00E000 then some (.mtest (bits w 16 5) (bits w 8 4) (bits w 0 8)) else
  none

/-- Rows of opcode 0x28. -/
def rowsOf28 (w : Word) : Option Instr :=
  if fits w 0xFEC00000 0x50000000 then some (.vadd (bits w 24 1) (bits w 15 7) (bits w 8 7) (bits w 0 8)) else
  if fits w 0xFEC00000 0x50400000 then some (.vaddI16 (bits w 24 1) (bits w 15 7) (bits w 8 7) (bits w 0 8)) else
  if fits w 0xFEC00000 0x50800000 then some (.vaddI8 (bits w 24 1) (bits w 15 7) (bits w 8 7) (bits w 0 8)) else
  none

/-- Rows of opcode 0x29. -/
def rowsOf29 (w : Word) : Option Instr :=
  if fits w 0xFEC00000 0x52000000 then some (.vsub (bits w 24 1) (bits w 15 7) (bits w 8 7) (bits w 0 8)) else
  if fits w 0xFEC00000 0x52400000 then some (.vsubI16 (bits w 24 1) (bits w 15 7) (bits w 8 7) (bits w 0 8)) else
  if fits w 0xFEC00000 0x52800000 then some (.vsubI8 (bits w 24 1) (bits w 15 7) (bits w 8 7) (bits w 0 8)) else
  none

/-- Rows of opcode 0x2A. -/
def rowsOf2A (w : Word) : Option Instr :=
  if fits w 0xFEC00000 0x54000000 then some (.vmullo (bits w 24 1) (bits w 15 7) (bits w 8 7) (bits w 0 8)) else
  if fits w 0xFEC00000 0x54400000 then some (.vmulloI16 (bits w 24 1) (bits w 15 7) (bits w 8 7) (bits w 0 8)) else
  if fits w 0xFEC00000 0x54800000 then some (.vmulloI8 (bits w 24 1) (bits w 15 7) (bits w 8 7) (bits w 0 8)) else
  none

/-- Rows of opcode 0x2B. -/
def rowsOf2B (w : Word) : Option Instr :=
  if fits w 0xFEC00000 0x56000000 then some (.vmulhi (bits w 24 1) (bits w 15 7) (bits w 8 7) (bits w 0 8)) else
  if fits w 0xFEC00000 0x56400000 then some (.vmulhiU (bits w 24 1) (bits w 15 7) (bits w 8 7) (bits w 0 8)) else
  none

/-- Rows of opcode 0x2C. -/
def rowsOf2C (w : Word) : Option Instr :=
  if fits w 0xFEC00000 0x58000000 then some (.vmad (bits w 24 1) (bits w 15 7) (bits w 8 7) (bits w 0 8)) else
  if fits w 0xFEC00000 0x58400000 then some (.vmadI16 (bits w 24 1) (bits w 15 7) (bits w 8 7) (bits w 0 8)) else
  if fits w 0xFEC00000 0x58800000 then some (.vmadI8 (bits w 24 1) (bits w 15 7) (bits w 8 7) (bits w 0 8)) else
  none

/-- Rows of opcode 0x2D. -/
def rowsOf2D (w : Word) : Option Instr :=
  if fits w 0xFEC00000 0x5A000000 then some (.vmin (bits w 24 1) (bits w 15 7) (bits w 8 7) (bits w 0 8)) else
  if fits w 0xFEC00000 0x5A400000 then some (.vminI16 (bits w 24 1) (bits w 15 7) (bits w 8 7) (bits w 0 8)) else
  if fits w 0xFEC00000 0x5A800000 then some (.vminI8 (bits w 24 1) (bits w 15 7) (bits w 8 7) (bits w 0 8)) else
  none

/-- Rows of opcode 0x2E. -/
def rowsOf2E (w : Word) : Option Instr :=
  if fits w 0xFEC00000 0x5C000000 then some (.vminU (bits w 24 1) (bits w 15 7) (bits w 8 7) (bits w 0 8)) else
  if fits w 0xFEC00000 0x5C400000 then some (.vminUI16 (bits w 24 1) (bits w 15 7) (bits w 8 7) (bits w 0 8)) else
  if fits w 0xFEC00000 0x5C800000 then some (.vminUI8 (bits w 24 1) (bits w 15 7) (bits w 8 7) (bits w 0 8)) else
  none

/-- Rows of opcode 0x2F. -/
def rowsOf2F (w : Word) : Option Instr :=
  if fits w 0xFEC00000 0x5E000000 then some (.vmax (bits w 24 1) (bits w 15 7) (bits w 8 7) (bits w 0 8)) else
  if fits w 0xFEC00000 0x5E400000 then some (.vmaxI16 (bits w 24 1) (bits w 15 7) (bits w 8 7) (bits w 0 8)) else
  if fits w 0xFEC00000 0x5E800000 then some (.vmaxI8 (bits w 24 1) (bits w 15 7) (bits w 8 7) (bits w 0 8)) else
  none

/-- Rows of opcode 0x30. -/
def rowsOf30 (w : Word) : Option Instr :=
  if fits w 0xFEC00000 0x60000000 then some (.vmaxU (bits w 24 1) (bits w 15 7) (bits w 8 7) (bits w 0 8)) else
  if fits w 0xFEC00000 0x60400000 then some (.vmaxUI16 (bits w 24 1) (bits w 15 7) (bits w 8 7) (bits w 0 8)) else
  if fits w 0xFEC00000 0x60800000 then some (.vmaxUI8 (bits w 24 1) (bits w 15 7) (bits w 8 7) (bits w 0 8)) else
  none

/-- Rows of opcode 0x31. -/
def rowsOf31 (w : Word) : Option Instr :=
  if fits w 0xFEC00000 0x62000000 then some (.vabsd (bits w 24 1) (bits w 15 7) (bits w 8 7) (bits w 0 8)) else
  if fits w 0xFEC00000 0x62400000 then some (.vabsdU (bits w 24 1) (bits w 15 7) (bits w 8 7) (bits w 0 8)) else
  none

/-- Rows of opcode 0x32. -/
def rowsOf32 (w : Word) : Option Instr :=
  if fits w 0xFEC00000 0x64000000 then some (.vaddsat (bits w 24 1) (bits w 15 7) (bits w 8 7) (bits w 0 8)) else
  if fits w 0xFEC00000 0x64400000 then some (.vaddsatI16 (bits w 24 1) (bits w 15 7) (bits w 8 7) (bits w 0 8)) else
  if fits w 0xFEC00000 0x64800000 then some (.vaddsatI8 (bits w 24 1) (bits w 15 7) (bits w 8 7) (bits w 0 8)) else
  if fits w 0xFEC00000 0x64C00000 then some (.vaddsatU8 (bits w 24 1) (bits w 15 7) (bits w 8 7) (bits w 0 8)) else
  none

/-- Rows of opcode 0x33. -/
def rowsOf33 (w : Word) : Option Instr :=
  if fits w 0xFEC00000 0x66000000 then some (.vsubsat (bits w 24 1) (bits w 15 7) (bits w 8 7) (bits w 0 8)) else
  if fits w 0xFEC00000 0x66400000 then some (.vsubsatI16 (bits w 24 1) (bits w 15 7) (bits w 8 7) (bits w 0 8)) else
  if fits w 0xFEC00000 0x66800000 then some (.vsubsatI8 (bits w 24 1) (bits w 15 7) (bits w 8 7) (bits w 0 8)) else
  if fits w 0xFEC00000 0x66C00000 then some (.vsubsatU8 (bits w 24 1) (bits w 15 7) (bits w 8 7) (bits w 0 8)) else
  none

/-- Rows of opcode 0x34. -/
def rowsOf34 (w : Word) : Option Instr :=
  if fits w 0xFEC00000 0x68000000 then some (.vand (bits w 24 1) (bits w 15 7) (bits w 8 7) (bits w 0 8)) else
  if fits w 0xFEC00000 0x68400000 then some (.vor (bits w 24 1) (bits w 15 7) (bits w 8 7) (bits w 0 8)) else
  if fits w 0xFEC00000 0x68800000 then some (.vxor (bits w 24 1) (bits w 15 7) (bits w 8 7) (bits w 0 8)) else
  if fits w 0xFEC00000 0x68C00000 then some (.vandn (bits w 24 1) (bits w 15 7) (bits w 8 7) (bits w 0 8)) else
  none

/-- Rows of opcode 0x35. -/
def rowsOf35 (w : Word) : Option Instr :=
  if fits w 0xFEC00000 0x6A000000 then some (.vshl (bits w 24 1) (bits w 15 7) (bits w 8 7) (bits w 0 8)) else
  if fits w 0xFEC00000 0x6A400000 then some (.vshr (bits w 24 1) (bits w 15 7) (bits w 8 7) (bits w 0 8)) else
  if fits w 0xFEC00000 0x6A800000 then some (.vsar (bits w 24 1) (bits w 15 7) (bits w 8 7) (bits w 0 8)) else
  if fits w 0xFEC00000 0x6AC00000 then some (.vrot (bits w 24 1) (bits w 15 7) (bits w 8 7) (bits w 0 8)) else
  none

/-- Rows of opcode 0x36. -/
def rowsOf36 (w : Word) : Option Instr :=
  if fits w 0xFFC000FF 0x6C0000F0 then some (.vpopc (bits w 15 7) (bits w 8 7)) else
  if fits w 0xFFC000FF 0x6C4000F0 then some (.vclz (bits w 15 7) (bits w 8 7)) else
  if fits w 0xFFC000FF 0x6C8000F0 then some (.vbrev (bits w 15 7) (bits w 8 7)) else
  none

/-- Rows of opcode 0x37. -/
def rowsOf37 (w : Word) : Option Instr :=
  if fits w 0xFEC00000 0x6E000000 then some (.vbfe (bits w 24 1) (bits w 15 7) (bits w 8 7) (bits w 0 8)) else
  if fits w 0xFEC00000 0x6E400000 then some (.vbfeS (bits w 24 1) (bits w 15 7) (bits w 8 7) (bits w 0 8)) else
  if fits w 0xFEC00000 0x6E800000 then some (.vbfi (bits w 24 1) (bits w 15 7) (bits w 8 7) (bits w 0 8)) else
  none

/-- Rows of opcode 0x38. -/
def rowsOf38 (w : Word) : Option Instr :=
  if fits w 0xFEC00000 0x70000000 then some (.vcmp (bits w 24 1) (bits w 19 3) (bits w 15 4) (bits w 8 7) (bits w 0 8)) else
  none

/-- Rows of opcode 0x39. -/
def rowsOf39 (w : Word) : Option Instr :=
  if fits w 0xFEC00000 0x72000000 then some (.vsel (bits w 24 1) (bits w 15 7) (bits w 8 7) (bits w 0 8)) else
  none

/-- Rows of opcode 0x3A. -/
def rowsOf3A (w : Word) : Option Instr :=
  if fits w 0xFEC07F00 0x74000000 then some (.vmov (bits w 24 1) (bits w 15 7) (bits w 0 8)) else
  none

/-- Rows of opcode 0x3B. -/
def rowsOf3B (w : Word) : Option Instr :=
  if fits w 0xFEC00000 0x76000000 then some (.vrdx (bits w 24 1) (bits w 15 7) (bits w 8 7) (bits w 0 8)) else
  none

/-- Rows of opcode 0x3C. -/
def rowsOf3C (w : Word) : Option Instr :=
  if fits w 0xFEC00000 0x78000000 then some (.vwrx (bits w 24 1) (bits w 15 7) (bits w 8 7) (bits w 0 8)) else
  none

/-- Rows of opcode 0x3D. -/
def rowsOf3D (w : Word) : Option Instr :=
  if fits w 0xFFC07F00 0x7B000000 then some (.vdead (bits w 15 7) (bits w 0 8)) else
  none

/-- Rows of opcode 0x40. -/
def rowsOf40 (w : Word) : Option Instr :=
  if fits w 0xFFC00000 0x80000000 then some (.vfadd (bits w 15 7) (bits w 8 7) (bits w 0 8)) else
  if fits w 0xFFC00000 0x80400000 then some (.vfaddF16 (bits w 15 7) (bits w 8 7) (bits w 0 8)) else
  if fits w 0xFFC00000 0x80800000 then some (.vfaddBf16 (bits w 15 7) (bits w 8 7) (bits w 0 8)) else
  none

/-- Rows of opcode 0x41. -/
def rowsOf41 (w : Word) : Option Instr :=
  if fits w 0xFFC00000 0x82000000 then some (.vfsub (bits w 15 7) (bits w 8 7) (bits w 0 8)) else
  if fits w 0xFFC00000 0x82400000 then some (.vfsubF16 (bits w 15 7) (bits w 8 7) (bits w 0 8)) else
  if fits w 0xFFC00000 0x82800000 then some (.vfsubBf16 (bits w 15 7) (bits w 8 7) (bits w 0 8)) else
  none

/-- Rows of opcode 0x42. -/
def rowsOf42 (w : Word) : Option Instr :=
  if fits w 0xFFC00000 0x84000000 then some (.vfmul (bits w 15 7) (bits w 8 7) (bits w 0 8)) else
  if fits w 0xFFC00000 0x84400000 then some (.vfmulF16 (bits w 15 7) (bits w 8 7) (bits w 0 8)) else
  if fits w 0xFFC00000 0x84800000 then some (.vfmulBf16 (bits w 15 7) (bits w 8 7) (bits w 0 8)) else
  none

/-- Rows of opcode 0x43. -/
def rowsOf43 (w : Word) : Option Instr :=
  if fits w 0xFFC00000 0x86000000 then some (.vfma (bits w 15 7) (bits w 8 7) (bits w 0 8)) else
  if fits w 0xFFC00000 0x86400000 then some (.vfmaF16 (bits w 15 7) (bits w 8 7) (bits w 0 8)) else
  if fits w 0xFFC00000 0x86800000 then some (.vfmaBf16 (bits w 15 7) (bits w 8 7) (bits w 0 8)) else
  none

/-- Rows of opcode 0x44. -/
def rowsOf44 (w : Word) : Option Instr :=
  if fits w 0xFFC00000 0x88000000 then some (.vfmin (bits w 15 7) (bits w 8 7) (bits w 0 8)) else
  if fits w 0xFFC00000 0x88400000 then some (.vfminF16 (bits w 15 7) (bits w 8 7) (bits w 0 8)) else
  if fits w 0xFFC00000 0x88800000 then some (.vfminBf16 (bits w 15 7) (bits w 8 7) (bits w 0 8)) else
  none

/-- Rows of opcode 0x45. -/
def rowsOf45 (w : Word) : Option Instr :=
  if fits w 0xFFC00000 0x8A000000 then some (.vfmax (bits w 15 7) (bits w 8 7) (bits w 0 8)) else
  if fits w 0xFFC00000 0x8A400000 then some (.vfmaxF16 (bits w 15 7) (bits w 8 7) (bits w 0 8)) else
  if fits w 0xFFC00000 0x8A800000 then some (.vfmaxBf16 (bits w 15 7) (bits w 8 7) (bits w 0 8)) else
  none

/-- Rows of opcode 0x46. -/
def rowsOf46 (w : Word) : Option Instr :=
  if fits w 0xFFC00000 0x8C000000 then some (.vfsgn (bits w 15 7) (bits w 8 7) (bits w 0 8)) else
  if fits w 0xFFC00000 0x8C400000 then some (.vfsgnN (bits w 15 7) (bits w 8 7) (bits w 0 8)) else
  if fits w 0xFFC00000 0x8C800000 then some (.vfsgnX (bits w 15 7) (bits w 8 7) (bits w 0 8)) else
  none

/-- Rows of opcode 0x47. -/
def rowsOf47 (w : Word) : Option Instr :=
  if fits w 0xFFC00000 0x8E000000 then some (.vfcmp (bits w 19 3) (bits w 15 4) (bits w 8 7) (bits w 0 8)) else
  none

/-- Rows of opcode 0x48. -/
def rowsOf48 (w : Word) : Option Instr :=
  if fits w 0xFFC000FF 0x900000F0 then some (.vfclass (bits w 15 7) (bits w 8 7)) else
  none

/-- Rows of opcode 0x49. -/
def rowsOf49 (w : Word) : Option Instr :=
  if fits w 0xFFC00000 0x92000000 then some (.vfdiv (bits w 15 7) (bits w 8 7) (bits w 0 8)) else
  none

/-- Rows of opcode 0x4A. -/
def rowsOf4A (w : Word) : Option Instr :=
  if fits w 0xFFC000FF 0x940000F0 then some (.vfsqrt (bits w 15 7) (bits w 8 7)) else
  none

/-- Rows of opcode 0x4B. -/
def rowsOf4B (w : Word) : Option Instr :=
  if fits w 0xFFC000FF 0x960000F0 then some (.vfrcp (bits w 15 7) (bits w 8 7)) else
  if fits w 0xFFC000FF 0x964000F0 then some (.vfrsq (bits w 15 7) (bits w 8 7)) else
  if fits w 0xFFC000FF 0x968000F0 then some (.vfexp2 (bits w 15 7) (bits w 8 7)) else
  if fits w 0xFFC000FF 0x96C000F0 then some (.vflog2 (bits w 15 7) (bits w 8 7)) else
  none

/-- Rows of opcode 0x4C. -/
def rowsOf4C (w : Word) : Option Instr :=
  if fits w 0xFFC000FF 0x980000F0 then some (.vfsin (bits w 15 7) (bits w 8 7)) else
  if fits w 0xFFC000FF 0x984000F0 then some (.vfcos (bits w 15 7) (bits w 8 7)) else
  none

/-- Rows of opcode 0x4D. -/
def rowsOf4D (w : Word) : Option Instr :=
  if fits w 0xFFC000FF 0x9A0000F0 then some (.vfrnd (bits w 15 7) (bits w 8 7)) else
  if fits w 0xFFC000FF 0x9A4000F0 then some (.vfrndF16 (bits w 15 7) (bits w 8 7)) else
  if fits w 0xFFC000FF 0x9A8000F0 then some (.vfrndBf16 (bits w 15 7) (bits w 8 7)) else
  none

/-- Rows of opcode 0x4E. -/
def rowsOf4E (w : Word) : Option Instr :=
  if fits w 0xFF000000 0x9D000000 then some (.vcvt (bits w 22 2) (bits w 15 7) (bits w 8 7) (bits w 4 4) (bits w 0 4)) else
  none

/-- Rows of opcode 0x4F. -/
def rowsOf4F (w : Word) : Option Instr :=
  if fits w 0xFF0000F0 0x9F000000 then some (.vpack (bits w 22 2) (bits w 15 7) (bits w 8 7) (bits w 0 4)) else
  none

/-- Rows of opcode 0x50. -/
def rowsOf50 (w : Word) : Option Instr :=
  if fits w 0xFF0000F0 0xA1000000 then some (.vunpk (bits w 22 2) (bits w 15 7) (bits w 8 7) (bits w 0 4)) else
  none

/-- Rows of opcode 0x51. -/
def rowsOf51 (w : Word) : Option Instr :=
  if fits w 0xFFC000FF 0xA20000F0 then some (.vquantE4m3 (bits w 15 7) (bits w 8 7)) else
  if fits w 0xFFC000FF 0xA24000F0 then some (.vquantE5m2 (bits w 15 7) (bits w 8 7)) else
  if fits w 0xFFC000FF 0xA28000F0 then some (.vquantE2m1 (bits w 15 7) (bits w 8 7)) else
  none

/-- Rows of opcode 0x52. -/
def rowsOf52 (w : Word) : Option Instr :=
  if fits w 0xFFC000FF 0xA40000F0 then some (.vdeqE4m3 (bits w 15 7) (bits w 8 7)) else
  if fits w 0xFFC000FF 0xA44000F0 then some (.vdeqE5m2 (bits w 15 7) (bits w 8 7)) else
  if fits w 0xFFC000FF 0xA48000F0 then some (.vdeqE2m1 (bits w 15 7) (bits w 8 7)) else
  none

/-- Rows of opcode 0x54. -/
def rowsOf54 (w : Word) : Option Instr :=
  if fits w 0xFFC00000 0xA8000000 then some (.vperm (bits w 15 7) (bits w 8 7) (bits w 0 8)) else
  none

/-- Rows of opcode 0x55. -/
def rowsOf55 (w : Word) : Option Instr :=
  if fits w 0xFEC00000 0xAA000000 then some (.vbcast (bits w 24 1) (bits w 15 7) (bits w 8 7) (bits w 0 8)) else
  none

/-- Rows of opcode 0x56. -/
def rowsOf56 (w : Word) : Option Instr :=
  if fits w 0xFEC00000 0xAC000000 then some (.vlshiftUp (bits w 24 1) (bits w 15 7) (bits w 8 7) (bits w 0 8)) else
  if fits w 0xFEC00000 0xAC400000 then some (.vlshiftDn (bits w 24 1) (bits w 15 7) (bits w 8 7) (bits w 0 8)) else
  none

/-- Rows of opcode 0x57. -/
def rowsOf57 (w : Word) : Option Instr :=
  if fits w 0xFFC00000 0xAF000000 then some (.vred (bits w 15 7) (bits w 8 7) (bits w 0 8)) else
  if fits w 0xFFF00000 0xAF400000 then some (.vredScalar (bits w 15 5) (bits w 8 7) (bits w 0 8)) else
  none

/-- Rows of opcode 0x58. -/
def rowsOf58 (w : Word) : Option Instr :=
  if fits w 0xFFC000FF 0xB00000F0 then some (.vredmi (bits w 15 7) (bits w 8 7)) else
  if fits w 0xFFF000FF 0xB04000F0 then some (.vredmiScalar (bits w 15 5) (bits w 8 7)) else
  none

/-- Rows of opcode 0x59. -/
def rowsOf59 (w : Word) : Option Instr :=
  if fits w 0xFFC00000 0xB3000000 then some (.vscan (bits w 15 7) (bits w 8 7) (bits w 0 8)) else
  if fits w 0xFFC00000 0xB3400000 then some (.vscanEx (bits w 15 7) (bits w 8 7) (bits w 0 8)) else
  none

/-- Rows of opcode 0x5A. -/
def rowsOf5A (w : Word) : Option Instr :=
  if fits w 0xFFF800FF 0xB40000F0 then some (.vballot (bits w 15 4) (bits w 8 7)) else
  none

/-- Rows of opcode 0x5B. -/
def rowsOf5B (w : Word) : Option Instr :=
  if fits w 0xFEF00000 0xB6000000 then some (.vextr (bits w 24 1) (bits w 15 5) (bits w 8 7) (bits w 0 8)) else
  if fits w 0xFEC06000 0xB6400000 then some (.vins (bits w 24 1) (bits w 15 7) (bits w 8 5) (bits w 0 8)) else
  none

/-- Rows of opcode 0x5C. -/
def rowsOf5C (w : Word) : Option Instr :=
  if fits w 0xFE000000 0xB8000000 then some (.ld (bits w 24 1) (bits w 22 2) (bits w 15 7) (bits w 8 7) (bits w 3 5) (bits w 1 2) (bits w 0 1)) else
  none

/-- Rows of opcode 0x5D. -/
def rowsOf5D (w : Word) : Option Instr :=
  if fits w 0xFE000000 0xBA000000 then some (.st (bits w 24 1) (bits w 22 2) (bits w 15 7) (bits w 8 7) (bits w 3 5) (bits w 1 2) (bits w 0 1)) else
  none

/-- Rows of opcode 0x5E. -/
def rowsOf5E (w : Word) : Option Instr :=
  if fits w 0xFE300000 0xBC000000 then some (.lds (bits w 24 1) (bits w 22 2) (bits w 15 5) (bits w 8 7) (bits w 3 5) (bits w 1 2) (bits w 0 1)) else
  none

/-- Rows of opcode 0x5F. -/
def rowsOf5F (w : Word) : Option Instr :=
  if fits w 0xFE300000 0xBE000000 then some (.sts (bits w 24 1) (bits w 22 2) (bits w 15 5) (bits w 8 7) (bits w 3 5) (bits w 1 2) (bits w 0 1)) else
  none

/-- Rows of opcode 0x60. -/
def rowsOf60 (w : Word) : Option Instr :=
  if fits w 0xFE000000 0xC0000000 then some (.ldp (bits w 24 1) (bits w 22 2) (bits w 15 7) (bits w 8 7) (bits w 3 5) (bits w 1 2) (bits w 0 1)) else
  none

/-- Rows of opcode 0x61. -/
def rowsOf61 (w : Word) : Option Instr :=
  if fits w 0xFE000000 0xC2000000 then some (.stp (bits w 24 1) (bits w 22 2) (bits w 15 7) (bits w 8 7) (bits w 3 5) (bits w 1 2) (bits w 0 1)) else
  none

/-- Rows of opcode 0x62. -/
def rowsOf62 (w : Word) : Option Instr :=
  if fits w 0xFE000000 0xC4000000 then some (.ldcl (bits w 24 1) (bits w 22 2) (bits w 15 7) (bits w 8 7) (bits w 3 5) (bits w 1 2) (bits w 0 1)) else
  none

/-- Rows of opcode 0x63. -/
def rowsOf63 (w : Word) : Option Instr :=
  if fits w 0xFE800007 0xC6000000 then some (.atomAdd (bits w 24 1) (bits w 22 1) (bits w 15 7) (bits w 8 7) (bits w 3 5)) else
  if fits w 0xFE800007 0xC6000001 then some (.atomExch (bits w 24 1) (bits w 22 1) (bits w 15 7) (bits w 8 7) (bits w 3 5)) else
  if fits w 0xFE800007 0xC6000002 then some (.atomAnd (bits w 24 1) (bits w 22 1) (bits w 15 7) (bits w 8 7) (bits w 3 5)) else
  if fits w 0xFE800007 0xC6000003 then some (.atomOr (bits w 24 1) (bits w 22 1) (bits w 15 7) (bits w 8 7) (bits w 3 5)) else
  if fits w 0xFE800007 0xC6000004 then some (.atomXor (bits w 24 1) (bits w 22 1) (bits w 15 7) (bits w 8 7) (bits w 3 5)) else
  if fits w 0xFE800007 0xC6000005 then some (.atomMin (bits w 24 1) (bits w 22 1) (bits w 15 7) (bits w 8 7) (bits w 3 5)) else
  if fits w 0xFE800007 0xC6000006 then some (.atomMax (bits w 24 1) (bits w 22 1) (bits w 15 7) (bits w 8 7) (bits w 3 5)) else
  if fits w 0xFE800007 0xC6000007 then some (.atomMinU (bits w 24 1) (bits w 22 1) (bits w 15 7) (bits w 8 7) (bits w 3 5)) else
  if fits w 0xFE800007 0xC6800000 then some (.atomMaxU (bits w 24 1) (bits w 22 1) (bits w 15 7) (bits w 8 7) (bits w 3 5)) else
  if fits w 0xFEC00007 0xC6800001 then some (.atomFadd (bits w 24 1) (bits w 15 7) (bits w 8 7) (bits w 3 5)) else
  none

/-- Rows of opcode 0x64. -/
def rowsOf64 (w : Word) : Option Instr :=
  if fits w 0xFE000007 0xC8000000 then some (.atomc (bits w 24 1) (bits w 22 2) (bits w 15 7) (bits w 8 7) (bits w 3 5)) else
  none

/-- Rows of opcode 0x65. -/
def rowsOf65 (w : Word) : Option Instr :=
  if fits w 0xFE800007 0xCA000000 then some (.atompAdd (bits w 24 1) (bits w 22 1) (bits w 15 7) (bits w 8 7) (bits w 3 5)) else
  if fits w 0xFE800007 0xCA000001 then some (.atompExch (bits w 24 1) (bits w 22 1) (bits w 15 7) (bits w 8 7) (bits w 3 5)) else
  if fits w 0xFE800007 0xCA000002 then some (.atompAnd (bits w 24 1) (bits w 22 1) (bits w 15 7) (bits w 8 7) (bits w 3 5)) else
  if fits w 0xFE800007 0xCA000003 then some (.atompOr (bits w 24 1) (bits w 22 1) (bits w 15 7) (bits w 8 7) (bits w 3 5)) else
  if fits w 0xFE800007 0xCA000004 then some (.atompXor (bits w 24 1) (bits w 22 1) (bits w 15 7) (bits w 8 7) (bits w 3 5)) else
  if fits w 0xFE800007 0xCA000005 then some (.atompMin (bits w 24 1) (bits w 22 1) (bits w 15 7) (bits w 8 7) (bits w 3 5)) else
  if fits w 0xFE800007 0xCA000006 then some (.atompMax (bits w 24 1) (bits w 22 1) (bits w 15 7) (bits w 8 7) (bits w 3 5)) else
  if fits w 0xFE800007 0xCA000007 then some (.atompMinU (bits w 24 1) (bits w 22 1) (bits w 15 7) (bits w 8 7) (bits w 3 5)) else
  if fits w 0xFE800007 0xCA800000 then some (.atompMaxU (bits w 24 1) (bits w 22 1) (bits w 15 7) (bits w 8 7) (bits w 3 5)) else
  if fits w 0xFEC00007 0xCA800001 then some (.atompFadd (bits w 24 1) (bits w 15 7) (bits w 8 7) (bits w 3 5)) else
  none

/-- Rows of opcode 0x66. -/
def rowsOf66 (w : Word) : Option Instr :=
  if fits w 0xFF31FFFF 0xCC000000 then some (.fence (bits w 22 2) (bits w 17 3)) else
  if fits w 0xFEFF8000 0xCC100000 then some (.prefL1 (bits w 24 1) (bits w 8 7) (bits w 3 5) (bits w 1 2) (bits w 0 1)) else
  if fits w 0xFEFF8000 0xCC500000 then some (.prefL2 (bits w 24 1) (bits w 8 7) (bits w 3 5) (bits w 1 2) (bits w 0 1)) else
  if fits w 0xFEFF8000 0xCC200000 then some (.cctlWb (bits w 24 1) (bits w 8 7) (bits w 3 5) (bits w 1 2) (bits w 0 1)) else
  if fits w 0xFEFF8000 0xCC600000 then some (.cctlDc (bits w 24 1) (bits w 8 7) (bits w 3 5) (bits w 1 2) (bits w 0 1)) else
  if fits w 0xFEFF8000 0xCCA00000 then some (.cctlWbdc (bits w 24 1) (bits w 8 7) (bits w 3 5) (bits w 1 2) (bits w 0 1)) else
  none

/-- Rows of opcode 0x67. -/
def rowsOf67 (w : Word) : Option Instr :=
  if fits w 0xFEE0FF00 0xCE00F000 then some (.pgrow (bits w 24 1) (bits w 16 5) (bits w 0 8)) else
  if fits w 0xFEE0FF00 0xCE20F000 then some (.pshrink (bits w 24 1) (bits w 16 5) (bits w 0 8)) else
  if fits w 0xFFE0FF00 0xCF40F000 then some (.pquery (bits w 16 5) (bits w 0 8)) else
  if fits w 0xFEE00000 0xCE600000 then some (.pshare (bits w 24 1) (bits w 16 5) (bits w 8 8) (bits w 0 8)) else
  if fits w 0xFFE000F0 0xCF800000 then some (.barinit (bits w 16 5) (bits w 8 8) (bits w 3 1) (bits w 0 3)) else
  if fits w 0xFFFF00F0 0xCFA00000 then some (.bararr (bits w 8 8) (bits w 3 1) (bits w 0 3)) else
  if fits w 0xFFE000F0 0xCFC00000 then some (.barwait (bits w 16 5) (bits w 8 8) (bits w 3 1) (bits w 0 3)) else
  if fits w 0xFFE000F0 0xCFE00000 then some (.bartest (bits w 16 5) (bits w 8 8) (bits w 3 1) (bits w 0 3)) else
  none

/-- Rows of opcode 0x68. -/
def rowsOf68 (w : Word) : Option Instr :=
  if fits w 0xFEF07F00 0xD0000000 then some (.cpy (bits w 24 1) (bits w 15 5) (bits w 0 8)) else
  if fits w 0xFEF07F00 0xD0400000 then some (.cpyim (bits w 24 1) (bits w 15 5) (bits w 0 8)) else
  if fits w 0xFEF07F00 0xD0800000 then some (.cpygt (bits w 24 1) (bits w 15 5) (bits w 0 8)) else
  none

/-- Rows of opcode 0x69. -/
def rowsOf69 (w : Word) : Option Instr :=
  if fits w 0xFFF07F00 0xD2000000 then some (.chkw (bits w 15 5) (bits w 0 8)) else
  if fits w 0xFFF06000 0xD2400000 then some (.chkwT (bits w 15 5) (bits w 8 5) (bits w 0 8)) else
  none

/-- Rows of opcode 0x6A. -/
def rowsOf6A (w : Word) : Option Instr :=
  if fits w 0xFEC07FFF 0xD40000F0 then some (.csend (bits w 24 1) (bits w 15 7)) else
  if fits w 0xFEC07FFF 0xD44000F0 then some (.crecv (bits w 24 1) (bits w 15 7)) else
  none

/-- Rows of opcode 0x6C. -/
def rowsOf6C (w : Word) : Option Instr :=
  if fits w 0xFEF07F00 0xD8000000 then some (.ldw (bits w 24 1) (bits w 15 5) (bits w 0 8)) else
  none

/-- Rows of opcode 0x6D. -/
def rowsOf6D (w : Word) : Option Instr :=
  if fits w 0xFEC000FE 0xDA000000 then some (.mma (bits w 24 1) (bits w 18 4) (bits w 15 3) (bits w 8 7) (bits w 0 1)) else
  if fits w 0xFEC000FE 0xDA400000 then some (.mmaz (bits w 24 1) (bits w 18 4) (bits w 15 3) (bits w 8 7) (bits w 0 1)) else
  none

/-- Rows of opcode 0x6E. -/
def rowsOf6E (w : Word) : Option Instr :=
  if fits w 0xFFC040E0 0xDC000000 then some (.accrd (bits w 15 7) (bits w 11 3) (bits w 8 3) (bits w 0 5)) else
  if fits w 0xFFC040FF 0xDC400000 then some (.accwr (bits w 15 7) (bits w 11 3) (bits w 8 3)) else
  none

/-- Rows of opcode 0x6F. -/
def rowsOf6F (w : Word) : Option Instr :=
  if fits w 0xFFFC7FFF 0xDE000000 then some (.accz (bits w 15 3)) else
  if fits w 0xFFC040E0 0xDE400000 then some (.acccvt (bits w 15 7) (bits w 11 3) (bits w 8 3) (bits w 4 1) (bits w 0 4)) else
  none

/-- Rows of opcode 0x70. -/
def rowsOf70 (w : Word) : Option Instr :=
  if fits w 0xFFFC7FFF 0xE0000000 then some (.accalloc (bits w 15 3)) else
  if fits w 0xFFFC7FFF 0xE0400000 then some (.accfree (bits w 15 3)) else
  none

/-- Rows of opcode 0x71. -/
def rowsOf71 (w : Word) : Option Instr :=
  if fits w 0xFEF840FF 0xE2000000 then some (.hvld (bits w 24 1) (bits w 15 4) (bits w 13 1) (bits w 8 5)) else
  if fits w 0xFEF840FF 0xE2400000 then some (.hvst (bits w 24 1) (bits w 15 4) (bits w 13 1) (bits w 8 5)) else
  none

/-- Rows of opcode 0x72. -/
def rowsOf72 (w : Word) : Option Instr :=
  if fits w 0xFFF870F0 0xE4000000 then some (.hvxor (bits w 15 4) (bits w 8 4) (bits w 0 4)) else
  if fits w 0xFFF87000 0xE4400000 then some (.hvmaj3 (bits w 15 4) (bits w 8 4) (bits w 4 4) (bits w 0 4)) else
  if fits w 0xFFF870E0 0xE4800000 then some (.hvrotS (bits w 15 4) (bits w 8 4) (bits w 0 5)) else
  if fits w 0xFFF87000 0xE4C00000 then some (.hvrotImm (bits w 15 4) (bits w 8 4) (bits w 0 8)) else
  none

/-- Rows of opcode 0x73. -/
def rowsOf73 (w : Word) : Option Instr :=
  if fits w 0xFFFE70FF 0xE6000000 then some (.hvbun (bits w 15 2) (bits w 8 4)) else
  if fits w 0xFFFE70FF 0xE6400000 then some (.hvbunSub (bits w 15 2) (bits w 8 4)) else
  if fits w 0xFFF87CF0 0xE6800000 then some (.hvthr (bits w 15 4) (bits w 8 2) (bits w 0 4)) else
  if fits w 0xFFF87CFF 0xE6800010 then some (.hvthrAlt (bits w 15 4) (bits w 8 2)) else
  if fits w 0xFFFE7FFF 0xE6C00000 then some (.hvclrb (bits w 15 2)) else
  none

/-- Rows of opcode 0x74. -/
def rowsOf74 (w : Word) : Option Instr :=
  if fits w 0xFFF070F0 0xE8000000 then some (.hvdist (bits w 15 5) (bits w 8 4) (bits w 0 4)) else
  if fits w 0xFFF070FF 0xE8400000 then some (.hvpopc (bits w 15 5) (bits w 8 4)) else
  none

/-- Rows of opcode 0x75. -/
def rowsOf75 (w : Word) : Option Instr :=
  if fits w 0xFEE070E0 0xEA000000 then some (.hvnear (bits w 24 1) (bits w 20 1) (bits w 15 5) (bits w 8 4) (bits w 0 5)) else
  none

/-- Rows of opcode 0x76. -/
def rowsOf76 (w : Word) : Option Instr :=
  if fits w 0xFFF87F00 0xEC000000 then some (.hvgen (bits w 15 4) (bits w 0 8)) else
  none

/-- Rows of opcode 0x77. -/
def rowsOf77 (w : Word) : Option Instr :=
  if fits w 0xFFC07000 0xEE000000 then some (.hvget (bits w 15 7) (bits w 8 4) (bits w 0 8)) else
  if fits w 0xFFF80000 0xEE400000 then some (.hvset (bits w 15 4) (bits w 8 7) (bits w 0 8)) else
  none

/-- Rows of opcode 0x78. -/
def rowsOf78 (w : Word) : Option Instr :=
  if fits w 0xFEF06000 0xF0000000 then some (.emit (bits w 24 1) (bits w 15 5) (bits w 8 5) (bits w 0 8)) else
  if fits w 0xFEFFFF00 0xF0400000 then some (.eflush (bits w 24 1) (bits w 0 8)) else
  none

/-- Rows of opcode 0x79. -/
def rowsOf79 (w : Word) : Option Instr :=
  if fits w 0xFEF07FFF 0xF2000000 then some (.launch (bits w 24 1) (bits w 15 5)) else
  if fits w 0xFEF07FFF 0xF2400000 then some (.signal (bits w 24 1) (bits w 15 5)) else
  none

/-- Rows of opcode 0x7A. -/
def rowsOf7A (w : Word) : Option Instr :=
  if fits w 0xFFE0FF00 0xF500F000 then some (.sysrd (bits w 16 5) (bits w 0 8)) else
  none

/-- Rows of opcode 0x7B. -/
def rowsOf7B (w : Word) : Option Instr :=
  if fits w 0xFFFFFF00 0xF600F000 then some (.modewMode (bits w 0 8)) else
  if fits w 0xFFE0FFFF 0xF620F0F0 then some (.moderMode (bits w 16 5)) else
  if fits w 0xFFFFFF00 0xF640F000 then some (.modewFstat (bits w 0 8)) else
  if fits w 0xFFE0FFFF 0xF660F0F0 then some (.moderFstat (bits w 16 5)) else
  none

/-- Rows of opcode 0x7C. -/
def rowsOf7C (w : Word) : Option Instr :=
  if fits w 0xFFE00000 0xF8000000 then some (.trapinfo (bits w 16 5) (bits w 8 8) (bits w 0 8)) else
  if fits w 0xFFFFFFFF 0xF820F0F0 then some (.fwd) else
  none

/-- Rows of opcode 0x7F. -/
def rowsOf7F (w : Word) : Option Instr :=
  if fits w 0xFE000000 0xFE000000 then some (.prefixWord (bits w 21 4) (bits w 20 1) (bits w 17 3) (bits w 9 8) (bits w 6 3) (bits w 0 6)) else
  none

/-- The row of the opcode table that a word matches (Table 08-15), before the checks of reserved
values; an opcode without rows is unassigned. -/
def decodeRow (w : Word) : Except DecodeError Instr :=
  let row : Option (Option Instr) :=
    match (bits w 25 7).toNat with
    | 0x00 => some (rowsOf00 w)
    | 0x01 => some (rowsOf01 w)
    | 0x02 => some (rowsOf02 w)
    | 0x03 => some (rowsOf03 w)
    | 0x04 => some (rowsOf04 w)
    | 0x05 => some (rowsOf05 w)
    | 0x06 => some (rowsOf06 w)
    | 0x07 => some (rowsOf07 w)
    | 0x08 => some (rowsOf08 w)
    | 0x09 => some (rowsOf09 w)
    | 0x0A => some (rowsOf0A w)
    | 0x0B => some (rowsOf0B w)
    | 0x0C => some (rowsOf0C w)
    | 0x0D => some (rowsOf0D w)
    | 0x0E => some (rowsOf0E w)
    | 0x0F => some (rowsOf0F w)
    | 0x10 => some (rowsOf10 w)
    | 0x11 => some (rowsOf11 w)
    | 0x12 => some (rowsOf12 w)
    | 0x13 => some (rowsOf13 w)
    | 0x14 => some (rowsOf14 w)
    | 0x15 => some (rowsOf15 w)
    | 0x16 => some (rowsOf16 w)
    | 0x17 => some (rowsOf17 w)
    | 0x18 => some (rowsOf18 w)
    | 0x19 => some (rowsOf19 w)
    | 0x1A => some (rowsOf1A w)
    | 0x20 => some (rowsOf20 w)
    | 0x21 => some (rowsOf21 w)
    | 0x22 => some (rowsOf22 w)
    | 0x23 => some (rowsOf23 w)
    | 0x24 => some (rowsOf24 w)
    | 0x25 => some (rowsOf25 w)
    | 0x28 => some (rowsOf28 w)
    | 0x29 => some (rowsOf29 w)
    | 0x2A => some (rowsOf2A w)
    | 0x2B => some (rowsOf2B w)
    | 0x2C => some (rowsOf2C w)
    | 0x2D => some (rowsOf2D w)
    | 0x2E => some (rowsOf2E w)
    | 0x2F => some (rowsOf2F w)
    | 0x30 => some (rowsOf30 w)
    | 0x31 => some (rowsOf31 w)
    | 0x32 => some (rowsOf32 w)
    | 0x33 => some (rowsOf33 w)
    | 0x34 => some (rowsOf34 w)
    | 0x35 => some (rowsOf35 w)
    | 0x36 => some (rowsOf36 w)
    | 0x37 => some (rowsOf37 w)
    | 0x38 => some (rowsOf38 w)
    | 0x39 => some (rowsOf39 w)
    | 0x3A => some (rowsOf3A w)
    | 0x3B => some (rowsOf3B w)
    | 0x3C => some (rowsOf3C w)
    | 0x3D => some (rowsOf3D w)
    | 0x40 => some (rowsOf40 w)
    | 0x41 => some (rowsOf41 w)
    | 0x42 => some (rowsOf42 w)
    | 0x43 => some (rowsOf43 w)
    | 0x44 => some (rowsOf44 w)
    | 0x45 => some (rowsOf45 w)
    | 0x46 => some (rowsOf46 w)
    | 0x47 => some (rowsOf47 w)
    | 0x48 => some (rowsOf48 w)
    | 0x49 => some (rowsOf49 w)
    | 0x4A => some (rowsOf4A w)
    | 0x4B => some (rowsOf4B w)
    | 0x4C => some (rowsOf4C w)
    | 0x4D => some (rowsOf4D w)
    | 0x4E => some (rowsOf4E w)
    | 0x4F => some (rowsOf4F w)
    | 0x50 => some (rowsOf50 w)
    | 0x51 => some (rowsOf51 w)
    | 0x52 => some (rowsOf52 w)
    | 0x54 => some (rowsOf54 w)
    | 0x55 => some (rowsOf55 w)
    | 0x56 => some (rowsOf56 w)
    | 0x57 => some (rowsOf57 w)
    | 0x58 => some (rowsOf58 w)
    | 0x59 => some (rowsOf59 w)
    | 0x5A => some (rowsOf5A w)
    | 0x5B => some (rowsOf5B w)
    | 0x5C => some (rowsOf5C w)
    | 0x5D => some (rowsOf5D w)
    | 0x5E => some (rowsOf5E w)
    | 0x5F => some (rowsOf5F w)
    | 0x60 => some (rowsOf60 w)
    | 0x61 => some (rowsOf61 w)
    | 0x62 => some (rowsOf62 w)
    | 0x63 => some (rowsOf63 w)
    | 0x64 => some (rowsOf64 w)
    | 0x65 => some (rowsOf65 w)
    | 0x66 => some (rowsOf66 w)
    | 0x67 => some (rowsOf67 w)
    | 0x68 => some (rowsOf68 w)
    | 0x69 => some (rowsOf69 w)
    | 0x6A => some (rowsOf6A w)
    | 0x6C => some (rowsOf6C w)
    | 0x6D => some (rowsOf6D w)
    | 0x6E => some (rowsOf6E w)
    | 0x6F => some (rowsOf6F w)
    | 0x70 => some (rowsOf70 w)
    | 0x71 => some (rowsOf71 w)
    | 0x72 => some (rowsOf72 w)
    | 0x73 => some (rowsOf73 w)
    | 0x74 => some (rowsOf74 w)
    | 0x75 => some (rowsOf75 w)
    | 0x76 => some (rowsOf76 w)
    | 0x77 => some (rowsOf77 w)
    | 0x78 => some (rowsOf78 w)
    | 0x79 => some (rowsOf79 w)
    | 0x7A => some (rowsOf7A w)
    | 0x7B => some (rowsOf7B w)
    | 0x7C => some (rowsOf7C w)
    | 0x7F => some (rowsOf7F w)
    | _ => none
  match row with
  | none => .error .unassignedOpcode
  | some none => .error .fixedField
  | some (some i) => .ok i

/-- A word, or why it is no instruction. -/
def decodeWord (w : Word) : Except DecodeError Instr :=
  match decodeRow w with
  | .error e => .error e
  | .ok i =>
    match wfError i with
    | none => .ok i
    | some e => .error e

/-- A word from four bytes, the least significant first. -/
def wordOfBytes (b0 b1 b2 b3 : Byte) : Word := b3 ++ b2 ++ b1 ++ b0

/-- The bytes of a word, the least significant first. -/
def bytesOfWord (w : Word) : List Byte := [bits w 0 8, bits w 8 8, bits w 16 8, bits w 24 8]

/-- The first instruction of a byte sequence and the bytes after it. -/
def decodeBytes (bs : List Byte) : Except DecodeError (Instr × List Byte) :=
  match bs with
  | b0 :: b1 :: b2 :: b3 :: rest =>
    match decodeWord (wordOfBytes b0 b1 b2 b3) with
    | .ok i => .ok (i, rest)
    | .error e => .error e
  | _ => .error .tooShort

/-- The instruction read from the bits of an opcode-table row: the first 32-bit word of `w`, laid out
as memory holds it and given to the decoder. -/
def decodeTableWord (nbits w : Nat) : Option Instr :=
  if nbits = 32 then
    match decodeBytes (bytesOfWord (BitVec.ofNat 32 w)) with
    | .ok (i, _) => some i
    | .error _ => none
  else none

/-- The word of an instruction, from its row's fixed bits and fields, high to low; a step with no
encoding has none. -/
def encode (ins : Instr) : Option Word :=
  match ins with
  | .bra o => some (0x0#7 ++ 0x0#4 ++ o)
  | .brc n o => some (0x1#7 ++ n ++ o)
  | .brmAny n o => some (0x2#7 ++ 0x0#1 ++ n ++ o)
  | .brmNone n o => some (0x2#7 ++ 0x1#1 ++ n ++ o)
  | .jmpi n => some (0x3#7 ++ n ++ 0x0#21)
  | .call o => some (0x4#7 ++ 0x0#4 ++ o)
  | .calli n => some (0x5#7 ++ n ++ 0x0#21)
  | .ret => some (0x6#7 ++ 0x0#25)
  | .loop n o => some (0x7#7 ++ n ++ o)
  | .split t c o => some (0x8#7 ++ t ++ c ++ o)
  | .join t => some (0x9#7 ++ t ++ 0x0#21)
  | .joinMerge _ => none
  | .exit => some (0xA#7 ++ 0x0#25)
  | .yield => some (0xB#7 ++ 0x0#25)
  | .nop => some (0xC#7 ++ 0x0#25)
  | .trap c => some (0xD#7 ++ 0x0#17 ++ c)
  | .bkpt => some (0xE#7 ++ 0x0#25)
  | .eret => some (0xF#7 ++ 0x0#25)
  | .sadd i d a b => some (0x10#7 ++ i ++ 0x0#3 ++ d ++ a ++ b)
  | .ssub i d a b => some (0x10#7 ++ i ++ 0x1#3 ++ d ++ a ++ b)
  | .smul i d a b => some (0x11#7 ++ i ++ 0x0#3 ++ d ++ a ++ b)
  | .smulh i d a b => some (0x11#7 ++ i ++ 0x1#3 ++ d ++ a ++ b)
  | .smulhU i d a b => some (0x11#7 ++ i ++ 0x2#3 ++ d ++ a ++ b)
  | .sdiv i d a b => some (0x12#7 ++ i ++ 0x0#3 ++ d ++ a ++ b)
  | .sdivU i d a b => some (0x12#7 ++ i ++ 0x1#3 ++ d ++ a ++ b)
  | .srem i d a b => some (0x12#7 ++ i ++ 0x2#3 ++ d ++ a ++ b)
  | .sremU i d a b => some (0x12#7 ++ i ++ 0x3#3 ++ d ++ a ++ b)
  | .sand i d a b => some (0x13#7 ++ i ++ 0x0#3 ++ d ++ a ++ b)
  | .sor i d a b => some (0x13#7 ++ i ++ 0x1#3 ++ d ++ a ++ b)
  | .sxor i d a b => some (0x13#7 ++ i ++ 0x2#3 ++ d ++ a ++ b)
  | .sandn i d a b => some (0x13#7 ++ i ++ 0x3#3 ++ d ++ a ++ b)
  | .sshl i d a b => some (0x14#7 ++ i ++ 0x0#3 ++ d ++ a ++ b)
  | .sshr i d a b => some (0x14#7 ++ i ++ 0x1#3 ++ d ++ a ++ b)
  | .ssar i d a b => some (0x14#7 ++ i ++ 0x2#3 ++ d ++ a ++ b)
  | .srot i d a b => some (0x14#7 ++ i ++ 0x3#3 ++ d ++ a ++ b)
  | .smin i d a b => some (0x15#7 ++ i ++ 0x0#3 ++ d ++ a ++ b)
  | .sminU i d a b => some (0x15#7 ++ i ++ 0x1#3 ++ d ++ a ++ b)
  | .smax i d a b => some (0x15#7 ++ i ++ 0x2#3 ++ d ++ a ++ b)
  | .smaxU i d a b => some (0x15#7 ++ i ++ 0x3#3 ++ d ++ a ++ b)
  | .scmpEq i d a b => some (0x16#7 ++ i ++ 0x0#3 ++ d ++ a ++ b)
  | .scmpNe i d a b => some (0x16#7 ++ i ++ 0x1#3 ++ d ++ a ++ b)
  | .scmpLt i d a b => some (0x16#7 ++ i ++ 0x2#3 ++ d ++ a ++ b)
  | .scmpLe i d a b => some (0x16#7 ++ i ++ 0x3#3 ++ d ++ a ++ b)
  | .scmpLtU i d a b => some (0x16#7 ++ i ++ 0x4#3 ++ d ++ a ++ b)
  | .scmpLeU i d a b => some (0x16#7 ++ i ++ 0x5#3 ++ d ++ a ++ b)
  | .ssel i d a b => some (0x17#7 ++ i ++ 0x0#3 ++ d ++ a ++ b)
  | .smov i d b => some (0x18#7 ++ i ++ 0x0#3 ++ d ++ 0xF0#8 ++ b)
  | .sli d a b => some (0x18#7 ++ 0x9#4 ++ d ++ a ++ b)
  | .spopc d a => some (0x19#7 ++ 0x0#4 ++ d ++ a ++ 0xF0#8)
  | .sclz d a => some (0x19#7 ++ 0x1#4 ++ d ++ a ++ 0xF0#8)
  | .sbfe i d a b => some (0x1A#7 ++ i ++ 0x0#3 ++ d ++ a ++ b)
  | .sbfeS i d a b => some (0x1A#7 ++ i ++ 0x1#3 ++ d ++ a ++ b)
  | .mand d a b => some (0x20#7 ++ 0x0#5 ++ d ++ a ++ b)
  | .mor d a b => some (0x20#7 ++ 0x2#5 ++ d ++ a ++ b)
  | .mxor d a b => some (0x20#7 ++ 0x4#5 ++ d ++ a ++ b)
  | .mandn d a b => some (0x20#7 ++ 0x6#5 ++ d ++ a ++ b)
  | .mnot d a => some (0x21#7 ++ 0x0#5 ++ d ++ 0xE#4 ++ a ++ 0xF0#8)
  | .mmov d a => some (0x21#7 ++ 0x2#5 ++ d ++ 0xE#4 ++ a ++ 0xF0#8)
  | .mfroms d a => some (0x22#7 ++ 0x0#5 ++ d ++ a ++ 0xF0#8)
  | .mtos d a => some (0x22#7 ++ 0x1#4 ++ d ++ 0xE#4 ++ a ++ 0xF0#8)
  | .mpopc d a => some (0x23#7 ++ 0x0#4 ++ d ++ 0xE#4 ++ a ++ 0xF0#8)
  | .mffs d a => some (0x23#7 ++ 0x1#4 ++ d ++ 0xE#4 ++ a ++ 0xF0#8)
  | .mlane i d b => some (0x24#7 ++ i ++ 0x0#4 ++ d ++ 0xF0#8 ++ b)
  | .mtest d a b => some (0x25#7 ++ 0x0#4 ++ d ++ 0xE#4 ++ a ++ b)
  | .vadd i d a b => some (0x28#7 ++ i ++ 0x0#2 ++ d ++ a ++ b)
  | .vaddI16 i d a b => some (0x28#7 ++ i ++ 0x1#2 ++ d ++ a ++ b)
  | .vaddI8 i d a b => some (0x28#7 ++ i ++ 0x2#2 ++ d ++ a ++ b)
  | .vsub i d a b => some (0x29#7 ++ i ++ 0x0#2 ++ d ++ a ++ b)
  | .vsubI16 i d a b => some (0x29#7 ++ i ++ 0x1#2 ++ d ++ a ++ b)
  | .vsubI8 i d a b => some (0x29#7 ++ i ++ 0x2#2 ++ d ++ a ++ b)
  | .vmullo i d a b => some (0x2A#7 ++ i ++ 0x0#2 ++ d ++ a ++ b)
  | .vmulloI16 i d a b => some (0x2A#7 ++ i ++ 0x1#2 ++ d ++ a ++ b)
  | .vmulloI8 i d a b => some (0x2A#7 ++ i ++ 0x2#2 ++ d ++ a ++ b)
  | .vmulhi i d a b => some (0x2B#7 ++ i ++ 0x0#2 ++ d ++ a ++ b)
  | .vmulhiU i d a b => some (0x2B#7 ++ i ++ 0x1#2 ++ d ++ a ++ b)
  | .vmad i d a b => some (0x2C#7 ++ i ++ 0x0#2 ++ d ++ a ++ b)
  | .vmadI16 i d a b => some (0x2C#7 ++ i ++ 0x1#2 ++ d ++ a ++ b)
  | .vmadI8 i d a b => some (0x2C#7 ++ i ++ 0x2#2 ++ d ++ a ++ b)
  | .vmin i d a b => some (0x2D#7 ++ i ++ 0x0#2 ++ d ++ a ++ b)
  | .vminI16 i d a b => some (0x2D#7 ++ i ++ 0x1#2 ++ d ++ a ++ b)
  | .vminI8 i d a b => some (0x2D#7 ++ i ++ 0x2#2 ++ d ++ a ++ b)
  | .vminU i d a b => some (0x2E#7 ++ i ++ 0x0#2 ++ d ++ a ++ b)
  | .vminUI16 i d a b => some (0x2E#7 ++ i ++ 0x1#2 ++ d ++ a ++ b)
  | .vminUI8 i d a b => some (0x2E#7 ++ i ++ 0x2#2 ++ d ++ a ++ b)
  | .vmax i d a b => some (0x2F#7 ++ i ++ 0x0#2 ++ d ++ a ++ b)
  | .vmaxI16 i d a b => some (0x2F#7 ++ i ++ 0x1#2 ++ d ++ a ++ b)
  | .vmaxI8 i d a b => some (0x2F#7 ++ i ++ 0x2#2 ++ d ++ a ++ b)
  | .vmaxU i d a b => some (0x30#7 ++ i ++ 0x0#2 ++ d ++ a ++ b)
  | .vmaxUI16 i d a b => some (0x30#7 ++ i ++ 0x1#2 ++ d ++ a ++ b)
  | .vmaxUI8 i d a b => some (0x30#7 ++ i ++ 0x2#2 ++ d ++ a ++ b)
  | .vabsd i d a b => some (0x31#7 ++ i ++ 0x0#2 ++ d ++ a ++ b)
  | .vabsdU i d a b => some (0x31#7 ++ i ++ 0x1#2 ++ d ++ a ++ b)
  | .vaddsat i d a b => some (0x32#7 ++ i ++ 0x0#2 ++ d ++ a ++ b)
  | .vaddsatI16 i d a b => some (0x32#7 ++ i ++ 0x1#2 ++ d ++ a ++ b)
  | .vaddsatI8 i d a b => some (0x32#7 ++ i ++ 0x2#2 ++ d ++ a ++ b)
  | .vaddsatU8 i d a b => some (0x32#7 ++ i ++ 0x3#2 ++ d ++ a ++ b)
  | .vsubsat i d a b => some (0x33#7 ++ i ++ 0x0#2 ++ d ++ a ++ b)
  | .vsubsatI16 i d a b => some (0x33#7 ++ i ++ 0x1#2 ++ d ++ a ++ b)
  | .vsubsatI8 i d a b => some (0x33#7 ++ i ++ 0x2#2 ++ d ++ a ++ b)
  | .vsubsatU8 i d a b => some (0x33#7 ++ i ++ 0x3#2 ++ d ++ a ++ b)
  | .vand i d a b => some (0x34#7 ++ i ++ 0x0#2 ++ d ++ a ++ b)
  | .vor i d a b => some (0x34#7 ++ i ++ 0x1#2 ++ d ++ a ++ b)
  | .vxor i d a b => some (0x34#7 ++ i ++ 0x2#2 ++ d ++ a ++ b)
  | .vandn i d a b => some (0x34#7 ++ i ++ 0x3#2 ++ d ++ a ++ b)
  | .vshl i d a b => some (0x35#7 ++ i ++ 0x0#2 ++ d ++ a ++ b)
  | .vshr i d a b => some (0x35#7 ++ i ++ 0x1#2 ++ d ++ a ++ b)
  | .vsar i d a b => some (0x35#7 ++ i ++ 0x2#2 ++ d ++ a ++ b)
  | .vrot i d a b => some (0x35#7 ++ i ++ 0x3#2 ++ d ++ a ++ b)
  | .vpopc d a => some (0x36#7 ++ 0x0#3 ++ d ++ a ++ 0xF0#8)
  | .vclz d a => some (0x36#7 ++ 0x1#3 ++ d ++ a ++ 0xF0#8)
  | .vbrev d a => some (0x36#7 ++ 0x2#3 ++ d ++ a ++ 0xF0#8)
  | .vbfe i d a b => some (0x37#7 ++ i ++ 0x0#2 ++ d ++ a ++ b)
  | .vbfeS i d a b => some (0x37#7 ++ i ++ 0x1#2 ++ d ++ a ++ b)
  | .vbfi i d a b => some (0x37#7 ++ i ++ 0x2#2 ++ d ++ a ++ b)
  | .vcmp i c m a b => some (0x38#7 ++ i ++ 0x0#2 ++ c ++ m ++ a ++ b)
  | .vsel i d a b => some (0x39#7 ++ i ++ 0x0#2 ++ d ++ a ++ b)
  | .vmov i d b => some (0x3A#7 ++ i ++ 0x0#2 ++ d ++ 0x0#7 ++ b)
  | .vrdx i d a b => some (0x3B#7 ++ i ++ 0x0#2 ++ d ++ a ++ b)
  | .vwrx i s a b => some (0x3C#7 ++ i ++ 0x0#2 ++ s ++ a ++ b)
  | .vdead d n => some (0x3D#7 ++ 0x4#3 ++ d ++ 0x0#7 ++ n)
  | .vfadd d a b => some (0x40#7 ++ 0x0#3 ++ d ++ a ++ b)
  | .vfaddF16 d a b => some (0x40#7 ++ 0x1#3 ++ d ++ a ++ b)
  | .vfaddBf16 d a b => some (0x40#7 ++ 0x2#3 ++ d ++ a ++ b)
  | .vfsub d a b => some (0x41#7 ++ 0x0#3 ++ d ++ a ++ b)
  | .vfsubF16 d a b => some (0x41#7 ++ 0x1#3 ++ d ++ a ++ b)
  | .vfsubBf16 d a b => some (0x41#7 ++ 0x2#3 ++ d ++ a ++ b)
  | .vfmul d a b => some (0x42#7 ++ 0x0#3 ++ d ++ a ++ b)
  | .vfmulF16 d a b => some (0x42#7 ++ 0x1#3 ++ d ++ a ++ b)
  | .vfmulBf16 d a b => some (0x42#7 ++ 0x2#3 ++ d ++ a ++ b)
  | .vfma d a b => some (0x43#7 ++ 0x0#3 ++ d ++ a ++ b)
  | .vfmaF16 d a b => some (0x43#7 ++ 0x1#3 ++ d ++ a ++ b)
  | .vfmaBf16 d a b => some (0x43#7 ++ 0x2#3 ++ d ++ a ++ b)
  | .vfmin d a b => some (0x44#7 ++ 0x0#3 ++ d ++ a ++ b)
  | .vfminF16 d a b => some (0x44#7 ++ 0x1#3 ++ d ++ a ++ b)
  | .vfminBf16 d a b => some (0x44#7 ++ 0x2#3 ++ d ++ a ++ b)
  | .vfmax d a b => some (0x45#7 ++ 0x0#3 ++ d ++ a ++ b)
  | .vfmaxF16 d a b => some (0x45#7 ++ 0x1#3 ++ d ++ a ++ b)
  | .vfmaxBf16 d a b => some (0x45#7 ++ 0x2#3 ++ d ++ a ++ b)
  | .vfsgn d a b => some (0x46#7 ++ 0x0#3 ++ d ++ a ++ b)
  | .vfsgnN d a b => some (0x46#7 ++ 0x1#3 ++ d ++ a ++ b)
  | .vfsgnX d a b => some (0x46#7 ++ 0x2#3 ++ d ++ a ++ b)
  | .vfcmp c m a b => some (0x47#7 ++ 0x0#3 ++ c ++ m ++ a ++ b)
  | .vfclass d a => some (0x48#7 ++ 0x0#3 ++ d ++ a ++ 0xF0#8)
  | .vfdiv d a b => some (0x49#7 ++ 0x0#3 ++ d ++ a ++ b)
  | .vfsqrt d a => some (0x4A#7 ++ 0x0#3 ++ d ++ a ++ 0xF0#8)
  | .vfrcp d a => some (0x4B#7 ++ 0x0#3 ++ d ++ a ++ 0xF0#8)
  | .vfrsq d a => some (0x4B#7 ++ 0x1#3 ++ d ++ a ++ 0xF0#8)
  | .vfexp2 d a => some (0x4B#7 ++ 0x2#3 ++ d ++ a ++ 0xF0#8)
  | .vflog2 d a => some (0x4B#7 ++ 0x3#3 ++ d ++ a ++ 0xF0#8)
  | .vfsin d a => some (0x4C#7 ++ 0x0#3 ++ d ++ a ++ 0xF0#8)
  | .vfcos d a => some (0x4C#7 ++ 0x1#3 ++ d ++ a ++ 0xF0#8)
  | .vfrnd d a => some (0x4D#7 ++ 0x0#3 ++ d ++ a ++ 0xF0#8)
  | .vfrndF16 d a => some (0x4D#7 ++ 0x1#3 ++ d ++ a ++ 0xF0#8)
  | .vfrndBf16 d a => some (0x4D#7 ++ 0x2#3 ++ d ++ a ++ 0xF0#8)
  | .vcvt g d a t s => some (0x4E#7 ++ 0x1#1 ++ g ++ d ++ a ++ t ++ s)
  | .vpack g d a f => some (0x4F#7 ++ 0x1#1 ++ g ++ d ++ a ++ 0x0#4 ++ f)
  | .vunpk g d a f => some (0x50#7 ++ 0x1#1 ++ g ++ d ++ a ++ 0x0#4 ++ f)
  | .vquantE4m3 d a => some (0x51#7 ++ 0x0#3 ++ d ++ a ++ 0xF0#8)
  | .vquantE5m2 d a => some (0x51#7 ++ 0x1#3 ++ d ++ a ++ 0xF0#8)
  | .vquantE2m1 d a => some (0x51#7 ++ 0x2#3 ++ d ++ a ++ 0xF0#8)
  | .vdeqE4m3 d a => some (0x52#7 ++ 0x0#3 ++ d ++ a ++ 0xF0#8)
  | .vdeqE5m2 d a => some (0x52#7 ++ 0x1#3 ++ d ++ a ++ 0xF0#8)
  | .vdeqE2m1 d a => some (0x52#7 ++ 0x2#3 ++ d ++ a ++ 0xF0#8)
  | .vperm d a b => some (0x54#7 ++ 0x0#3 ++ d ++ a ++ b)
  | .vbcast i d a b => some (0x55#7 ++ i ++ 0x0#2 ++ d ++ a ++ b)
  | .vlshiftUp i d a b => some (0x56#7 ++ i ++ 0x0#2 ++ d ++ a ++ b)
  | .vlshiftDn i d a b => some (0x56#7 ++ i ++ 0x1#2 ++ d ++ a ++ b)
  | .vred d a o => some (0x57#7 ++ 0x4#3 ++ d ++ a ++ o)
  | .vredScalar d a o => some (0x57#7 ++ 0x14#5 ++ d ++ a ++ o)
  | .vredmi d a => some (0x58#7 ++ 0x0#3 ++ d ++ a ++ 0xF0#8)
  | .vredmiScalar d a => some (0x58#7 ++ 0x4#5 ++ d ++ a ++ 0xF0#8)
  | .vscan d a o => some (0x59#7 ++ 0x4#3 ++ d ++ a ++ o)
  | .vscanEx d a o => some (0x59#7 ++ 0x5#3 ++ d ++ a ++ o)
  | .vballot m a => some (0x5A#7 ++ 0x0#6 ++ m ++ a ++ 0xF0#8)
  | .vextr i d a b => some (0x5B#7 ++ i ++ 0x0#4 ++ d ++ a ++ b)
  | .vins i d a b => some (0x5B#7 ++ i ++ 0x1#2 ++ d ++ 0x0#2 ++ a ++ b)
  | .prefixWord m z r f k a => some (0x7F#7 ++ m ++ z ++ r ++ f ++ k ++ a)
  | .ld f z d o b k n => some (0x5C#7 ++ f ++ z ++ d ++ o ++ b ++ k ++ n)
  | .st f z d o b k n => some (0x5D#7 ++ f ++ z ++ d ++ o ++ b ++ k ++ n)
  | .lds f z d o b k n => some (0x5E#7 ++ f ++ z ++ 0x0#2 ++ d ++ o ++ b ++ k ++ n)
  | .sts f z d o b k n => some (0x5F#7 ++ f ++ z ++ 0x0#2 ++ d ++ o ++ b ++ k ++ n)
  | .ldp f z d o b k n => some (0x60#7 ++ f ++ z ++ d ++ o ++ b ++ k ++ n)
  | .stp f z d o b k n => some (0x61#7 ++ f ++ z ++ d ++ o ++ b ++ k ++ n)
  | .ldcl f z d o b k n => some (0x62#7 ++ f ++ z ++ d ++ o ++ b ++ k ++ n)
  | .atomAdd f w d o b => some (0x63#7 ++ f ++ 0x0#1 ++ w ++ d ++ o ++ b ++ 0x0#3)
  | .atomExch f w d o b => some (0x63#7 ++ f ++ 0x0#1 ++ w ++ d ++ o ++ b ++ 0x1#3)
  | .atomAnd f w d o b => some (0x63#7 ++ f ++ 0x0#1 ++ w ++ d ++ o ++ b ++ 0x2#3)
  | .atomOr f w d o b => some (0x63#7 ++ f ++ 0x0#1 ++ w ++ d ++ o ++ b ++ 0x3#3)
  | .atomXor f w d o b => some (0x63#7 ++ f ++ 0x0#1 ++ w ++ d ++ o ++ b ++ 0x4#3)
  | .atomMin f w d o b => some (0x63#7 ++ f ++ 0x0#1 ++ w ++ d ++ o ++ b ++ 0x5#3)
  | .atomMax f w d o b => some (0x63#7 ++ f ++ 0x0#1 ++ w ++ d ++ o ++ b ++ 0x6#3)
  | .atomMinU f w d o b => some (0x63#7 ++ f ++ 0x0#1 ++ w ++ d ++ o ++ b ++ 0x7#3)
  | .atomMaxU f w d o b => some (0x63#7 ++ f ++ 0x1#1 ++ w ++ d ++ o ++ b ++ 0x0#3)
  | .atomFadd f d o b => some (0x63#7 ++ f ++ 0x2#2 ++ d ++ o ++ b ++ 0x1#3)
  | .atomc f z d o b => some (0x64#7 ++ f ++ z ++ d ++ o ++ b ++ 0x0#3)
  | .atompAdd f w d o b => some (0x65#7 ++ f ++ 0x0#1 ++ w ++ d ++ o ++ b ++ 0x0#3)
  | .atompExch f w d o b => some (0x65#7 ++ f ++ 0x0#1 ++ w ++ d ++ o ++ b ++ 0x1#3)
  | .atompAnd f w d o b => some (0x65#7 ++ f ++ 0x0#1 ++ w ++ d ++ o ++ b ++ 0x2#3)
  | .atompOr f w d o b => some (0x65#7 ++ f ++ 0x0#1 ++ w ++ d ++ o ++ b ++ 0x3#3)
  | .atompXor f w d o b => some (0x65#7 ++ f ++ 0x0#1 ++ w ++ d ++ o ++ b ++ 0x4#3)
  | .atompMin f w d o b => some (0x65#7 ++ f ++ 0x0#1 ++ w ++ d ++ o ++ b ++ 0x5#3)
  | .atompMax f w d o b => some (0x65#7 ++ f ++ 0x0#1 ++ w ++ d ++ o ++ b ++ 0x6#3)
  | .atompMinU f w d o b => some (0x65#7 ++ f ++ 0x0#1 ++ w ++ d ++ o ++ b ++ 0x7#3)
  | .atompMaxU f w d o b => some (0x65#7 ++ f ++ 0x1#1 ++ w ++ d ++ o ++ b ++ 0x0#3)
  | .atompFadd f d o b => some (0x65#7 ++ f ++ 0x2#2 ++ d ++ o ++ b ++ 0x1#3)
  | .fence o s => some (0x66#7 ++ 0x0#1 ++ o ++ 0x0#2 ++ s ++ 0x0#17)
  | .prefL1 f o b k n => some (0x66#7 ++ f ++ 0x20#9 ++ o ++ b ++ k ++ n)
  | .prefL2 f o b k n => some (0x66#7 ++ f ++ 0xA0#9 ++ o ++ b ++ k ++ n)
  | .cctlWb f o b k n => some (0x66#7 ++ f ++ 0x40#9 ++ o ++ b ++ k ++ n)
  | .cctlDc f o b k n => some (0x66#7 ++ f ++ 0xC0#9 ++ o ++ b ++ k ++ n)
  | .cctlWbdc f o b k n => some (0x66#7 ++ f ++ 0x140#9 ++ o ++ b ++ k ++ n)
  | .memoryAccessComplete _ => none
  | .fabricRejection _ => none
  | .pgrow i d b => some (0x67#7 ++ i ++ 0x0#3 ++ d ++ 0xF0#8 ++ b)
  | .pshrink i d b => some (0x67#7 ++ i ++ 0x1#3 ++ d ++ 0xF0#8 ++ b)
  | .pquery d x => some (0x67#7 ++ 0xA#4 ++ d ++ 0xF0#8 ++ x)
  | .pshare i d a b => some (0x67#7 ++ i ++ 0x3#3 ++ d ++ a ++ b)
  | .barinit d a p c => some (0x67#7 ++ 0xC#4 ++ d ++ a ++ 0x0#4 ++ p ++ c)
  | .bararr a p c => some (0x67#7 ++ 0x1A0#9 ++ a ++ 0x0#4 ++ p ++ c)
  | .barwait d a p c => some (0x67#7 ++ 0xE#4 ++ d ++ a ++ 0x0#4 ++ p ++ c)
  | .bartest d a p c => some (0x67#7 ++ 0xF#4 ++ d ++ a ++ 0x0#4 ++ p ++ c)
  | .barrierPass _ => none
  | .cpy f d b => some (0x68#7 ++ f ++ 0x0#4 ++ d ++ 0x0#7 ++ b)
  | .cpyim f d b => some (0x68#7 ++ f ++ 0x4#4 ++ d ++ 0x0#7 ++ b)
  | .cpygt f d b => some (0x68#7 ++ f ++ 0x8#4 ++ d ++ 0x0#7 ++ b)
  | .bxeChunkComplete _ _ => none
  | .copyComplete _ => none
  | .chkw d b => some (0x69#7 ++ 0x0#5 ++ d ++ 0x0#7 ++ b)
  | .chkwT d a b => some (0x69#7 ++ 0x4#5 ++ d ++ 0x0#2 ++ a ++ b)
  | .chkwPass _ => none
  | .csend f d => some (0x6A#7 ++ f ++ 0x0#2 ++ d ++ 0xF0#15)
  | .crecv f d => some (0x6A#7 ++ f ++ 0x1#2 ++ d ++ 0xF0#15)
  | .csendComplete _ => none
  | .crecvComplete _ _ => none
  | .ldw f s c => some (0x6C#7 ++ f ++ 0x0#4 ++ s ++ 0x0#7 ++ c)
  | .ldwLatch _ _ => none
  | .mma f f2 t a x => some (0x6D#7 ++ f ++ 0x0#2 ++ f2 ++ t ++ a ++ 0x0#7 ++ x)
  | .mmaz f f2 t a x => some (0x6D#7 ++ f ++ 0x1#2 ++ f2 ++ t ++ a ++ 0x0#7 ++ x)
  | .mmaStep _ => none
  | .accrd d g t c => some (0x6E#7 ++ 0x0#3 ++ d ++ 0x0#1 ++ g ++ t ++ 0x0#3 ++ c)
  | .accwr d g t => some (0x6E#7 ++ 0x1#3 ++ d ++ 0x0#1 ++ g ++ t ++ 0x0#8)
  | .accz t => some (0x6F#7 ++ 0x0#7 ++ t ++ 0x0#15)
  | .acccvt d g t s f => some (0x6F#7 ++ 0x1#3 ++ d ++ 0x0#1 ++ g ++ t ++ 0x0#3 ++ s ++ f)
  | .accalloc t => some (0x70#7 ++ 0x0#7 ++ t ++ 0x0#15)
  | .accfree t => some (0x70#7 ++ 0x10#7 ++ t ++ 0x0#15)
  | .hvld f h p s => some (0x71#7 ++ f ++ 0x0#5 ++ h ++ 0x0#1 ++ p ++ s ++ 0x0#8)
  | .hvst f h p s => some (0x71#7 ++ f ++ 0x8#5 ++ h ++ 0x0#1 ++ p ++ s ++ 0x0#8)
  | .hvxor d a b => some (0x72#7 ++ 0x0#6 ++ d ++ 0x0#3 ++ a ++ 0x0#4 ++ b)
  | .hvmaj3 d a c b => some (0x72#7 ++ 0x8#6 ++ d ++ 0x0#3 ++ a ++ c ++ b)
  | .hvrotS d a n => some (0x72#7 ++ 0x10#6 ++ d ++ 0x0#3 ++ a ++ 0x0#3 ++ n)
  | .hvrotImm d a n => some (0x72#7 ++ 0x18#6 ++ d ++ 0x0#3 ++ a ++ n)
  | .hvbun d a => some (0x73#7 ++ 0x0#8 ++ d ++ 0x0#3 ++ a ++ 0x0#8)
  | .hvbunSub d a => some (0x73#7 ++ 0x20#8 ++ d ++ 0x0#3 ++ a ++ 0x0#8)
  | .hvthr d a t => some (0x73#7 ++ 0x10#6 ++ d ++ 0x0#5 ++ a ++ 0x0#4 ++ t)
  | .hvthrAlt d a => some (0x73#7 ++ 0x10#6 ++ d ++ 0x0#5 ++ a ++ 0x10#8)
  | .hvclrb d => some (0x73#7 ++ 0x60#8 ++ d ++ 0x0#15)
  | .hvdist d a b => some (0x74#7 ++ 0x0#5 ++ d ++ 0x0#3 ++ a ++ 0x0#4 ++ b)
  | .hvpopc d a => some (0x74#7 ++ 0x4#5 ++ d ++ 0x0#3 ++ a ++ 0x0#8)
  | .hvnear f p d a b => some (0x75#7 ++ f ++ 0x0#3 ++ p ++ d ++ 0x0#3 ++ a ++ 0x0#3 ++ b)
  | .hvgen d c => some (0x76#7 ++ 0x0#6 ++ d ++ 0x0#7 ++ c)
  | .hvget d a i => some (0x77#7 ++ 0x0#3 ++ d ++ 0x0#3 ++ a ++ i)
  | .hvset d a i => some (0x77#7 ++ 0x8#6 ++ d ++ a ++ i)
  | .hvuWordComplete _ => none
  | .hvldComplete _ => none
  | .hvnearComplete _ => none
  | .emit f p c j => some (0x78#7 ++ f ++ 0x0#4 ++ p ++ 0x0#2 ++ c ++ j)
  | .eflush f j => some (0x78#7 ++ f ++ 0x4000#16 ++ j)
  | .launch f r => some (0x79#7 ++ f ++ 0x0#4 ++ r ++ 0x0#15)
  | .signal f r => some (0x79#7 ++ f ++ 0x4#4 ++ r ++ 0x0#15)
  | .sysrd d x => some (0x7A#7 ++ 0x8#4 ++ d ++ 0xF0#8 ++ x)
  | .modewMode b => some (0x7B#7 ++ 0xF0#17 ++ b)
  | .moderMode d => some (0x7B#7 ++ 0x1#4 ++ d ++ 0xF0F0#16)
  | .modewFstat b => some (0x7B#7 ++ 0x40F0#17 ++ b)
  | .moderFstat d => some (0x7B#7 ++ 0x3#4 ++ d ++ 0xF0F0#16)
  | .trapinfo d a b => some (0x7C#7 ++ 0x0#4 ++ d ++ a ++ b)
  | .fwd => some (0x7C#7 ++ 0x20F0F0#25)
  | .clauseStart _ => none
  | .operandFill _ _ => none
  | .poolGrant _ => none
  | .poolStallLimit _ => none
  | .poolDeadlock _ => none
  | .granulePassToL1 _ _ => none
  | .pshareMoveComplete _ => none
  | .l1TimedWriteback _ _ => none
  | .combiningBufferTimeout _ _ _ => none
  | .replicaPlacement _ _ => none
  | .replicaDrop _ _ => none
  | .uncorrectableError _ => none
  | .correctedError _ => none
  | .unitRetirement _ => none
  | .queueRecordTake _ => none
  | .daymarkCopyComplete _ => none
  | .deviceLaunchAccept _ => none
  | .teamAdmit _ => none
  | .teamResume _ => none
  | .teamRetire _ => none
  | .launchComplete _ => none
  | .emitAccept _ => none
  | .eflushAccept _ => none
  | .timeSlice _ => none
  | .preemptForRoom _ => none
  | .placementAging _ => none
  | .keeperSave _ => none
  | .preemptHardStop _ => none
  | .partyActivate _ _ => none
  | .starvation _ _ => none
  | .energyTick => none
  | .powerSample _ _ => none
  | .clockStepUp => none
  | .capIsolatedDanger => none
  | .resumeToken _ _ => none
  | .resumeAll _ => none
  | .invcmdRange _ _ => none
  | .invcmdAsid _ _ => none
  | .invcmdIgnored _ _ => none
  | .invalidationComplete _ => none
  | .faultQueueEnable _ _ => none
  | .faultQueueDisable _ _ => none
  | .fqconsWrite _ _ => none
  | .codeLoad _ _ _ => none
  | .codeLoadVerify _ _ => none
  | .codeUnload _ _ _ => none
  | .codeUnloadForce _ _ _ => none
  | .codeCmdIgnored _ _ _ => none
  | .codePageVerify _ _ _ => none
  | .codeObjectEmpty _ _ => none
  | .ttctlWrite _ _ => none
  | .ttrootWrite _ _ => none
  | .tfPartWrite _ _ => none
  | .daymarkKeyWrite _ _ _ => none
  | .queueEnable _ _ => none
  | .queueDisable _ _ => none
  | .partitionChange _ => none
  | .partitionChangeComplete => none
  | .collectiveSlotRelease _ _ => none
  | .attestationRequest _ => none
  | .attestationComplete => none
  | .serviceRegisterWrite _ _ => none
  | .rdmaWrite _ _ _ _ => none
  | .rdmaWriteWithImmediate _ _ _ _ _ => none
  | .rdmaRead _ _ _ _ => none
  | .send _ _ => none
  | .invalidRequest _ => none
  | .roceRetransmission _ _ => none
  | .peerAccess _ _ => none
  | .flitData _ _ => none
  | .flitAcknowledgement _ _ => none
  | .flitReplayRequest _ _ _ => none
  | .flitIdle _ _ => none
  | .replayRequestRepeat _ => none
  | .powerUpReset _ => none
  | .mgmtStatus => none
  | .mgmtLog _ => none
  | .mgmtImageBlock _ _ => none
  | .mgmtImageCommit => none
  | .mgmtOtherDatagram _ => none
  | .illegalInstruction _ => none
  | .linkTraining _ _ => none

end Sys2Proof

end
end

