-- ==== Sys2Proof/Config.lean ====
section
/-!
DEFINITION. What the HK-7200 fixes (Table 00-1, R30, R47) and the free values: values that the spec
leaves open or that belong to the world outside the package. A free value is an opaque constant;
nothing can be proved about which value it is.
-/

namespace Sys2Proof.Config

/-- Cores of the package, numbered 0 to 511 (R47). -/
def cores : Nat := 512

/-- Bytes of local HBM: 384 GiB (Table 01-8). -/
def hbmBytes : Nat := 0x60_0000_0000

/-- The service window's base (Table 01-8). -/
def svcBase : Nat := 0x0100_0000_0000

/-- The end of the service window (Table 01-8). -/
def svcEnd : Nat := 0x0200_0000_0000

/-- The base of the fabric apertures (Table 01-8). -/
def aperBase : Nat := 0x8_0000_0000_0000

/-- Bytes of one pool granule (R43). -/
def granule : Nat := 4096

/-- The die, sector and cluster of a core (R47). -/
def dieOf (core : Nat) : Nat := core / 256
def sectorOf (core : Nat) : Nat := core / 32
def clusterOf (core : Nat) : Nat := core / 4

/-- Bytes that a peer device returns, one for each read of a byte through an aperture (R33): the peer
is outside the package. The argument is a running count. -/
opaque peerByte : Nat → Byte

/-- Whether a peer's answer to a read comes with poison (R85, R33); the argument is a running count (log 154). -/
opaque peerPoison : Nat → Bool

/-- Whether a peer refuses the n-th access sent to it (R33, R399): its import table is its own. -/
opaque peerRefuses : Nat → Bool

/-- The payload of the data flit that carries the n-th message to a peer: the spec gives it no layout (R401). -/
opaque flitByte : Nat → Nat → Byte

/-- The set of an L2 slice that a line of device memory falls into (R79): the spec gives no index. -/
opaque l2Set : Nat → Nat

/-- A choice that Kutil makes among named outcomes; the argument is a running count. -/
opaque choice : Nat → Nat

/-- Where the device found the two primes of its identity key (R412). -/
opaque identitySeed : Nat → Nat

/-- The certificate of the device identity key (Table 21-6). -/
opaque certificate : Nat → Byte
opaque certificateLength : Nat

/-- The SHA-256 of the boot ROM (Table 21-5). -/
opaque bootRomHash : Nat → Byte

/-- The firmware image in flash at manufacture, and the modulus and the signature that an image comes with (R405): the
spec gives no layout of an image. -/
opaque factoryImage : List Byte
opaque imageModulus : List Byte → List Byte
opaque imageSignature : List Byte → List Byte

/-- The SHA-256 of the public key that verifies images, fused into the die (R405). -/
opaque fusedHash : List Byte

/-- Whether the n-th write of an image into flash is interrupted (R406): a loss of power comes from outside. -/
opaque writeInterrupted : Nat → Bool

/-- The UDP port of the management responder (R406). -/
def mgmtPort : Nat := 49320

/-- What the power-up steps find (Table 21-1): the state of the silicon. -/
opaque powerUpReport : PowerUpReport

/-- The self-test log (Table 21-2). -/
opaque selfTestLog : Nat → Byte

end Sys2Proof.Config
end

