-- ==== Sys2Proof/Machine/Bits.lean ====
section
/-!
DEFINITION. Bit fields, sign extension, byte order (R7: little-endian), and lists read by index or key.
-/

namespace Sys2Proof.Machine

/-- Bits `lo + w - 1` down to `lo` of a number. -/
def field (n lo w : Nat) : Nat := (n >>> lo) % 2 ^ w

/-- Bit `i` of a number. -/
def bitAt (n i : Nat) : Bool := n.testBit i

/-- `n` bytes of a number, lowest byte first. -/
def leBytes : Nat → Nat → List Byte
  | 0, _ => []
  | n + 1, v => BitVec.ofNat 8 v :: leBytes n (v / 256)

/-- The number that bytes hold, lowest byte first. -/
def ofLe : List Byte → Nat
  | [] => 0
  | b :: bs => b.toNat + 256 * ofLe bs

/-- The number that bytes hold, highest byte first. -/
def ofBe (bs : List Byte) : Nat := ofLe bs.reverse

/-- `n` bytes of a number, highest byte first. -/
def beBytes (n v : Nat) : List Byte := (leBytes n v).reverse

/-- The signed value of the low `w` bits of a number. -/
def sextNat (w n : Nat) : Int :=
  if (n % 2 ^ w).testBit (w - 1) then ((n % 2 ^ w : Nat) : Int) - 2 ^ w else ((n % 2 ^ w : Nat) : Int)

/-- A number narrowed to a lane word or a scalar. -/
def w32 (n : Int) : Word := BitVec.ofInt 32 n
def w64 (n : Int) : DWord := BitVec.ofInt 64 n

/-- `zext` of a truth value. -/
def ofBool32 (b : Bool) : Word := if b then 1 else 0
def ofBool64 (b : Bool) : DWord := if b then 1 else 0

/-- The value under a key in a list that holds one pair for each key, and `d` where there is none. -/
def look {α : Type} (l : List (Nat × α)) (k : Nat) (d : α) : α :=
  match l with
  | [] => d
  | (j, v) :: t => if j = k then v else look t k d

/-- The list with `v` under key `k`, keys rising. -/
def put {α : Type} (l : List (Nat × α)) (k : Nat) (v : α) : List (Nat × α) :=
  match l with
  | [] => [(k, v)]
  | (j, u) :: t => if k < j then (k, v) :: (j, u) :: t else if j = k then (k, v) :: t else (j, u) :: put t k v

/-- The numbers below `n` from `lo`. -/
def rangeFrom : Nat → Nat → List Nat
  | _, 0 => []
  | lo, n + 1 => lo :: rangeFrom (lo + 1) n

/-- The numbers below `n`. -/
def upTo (n : Nat) : List Nat := rangeFrom 0 n

/-- The first number below `n` with a property. -/
def firstBelow (n : Nat) (p : Nat → Bool) : Option Nat := (upTo n).find? p

/-- The bits set in a mask, lowest first, below `n`. -/
def bitsOf (n : Nat) (m : DWord) : List Nat := (upTo n).filter fun i => m.getLsbD i

/-- A mask from the numbers of its set bits. -/
def maskOf (l : List Nat) : DWord := l.foldl (fun a i => a ||| BitVec.ofNat 64 (2 ^ i)) 0

/-- The number of ones of a number's low `w` bits. -/
def popcount : Nat → Nat → Nat
  | 0, _ => 0
  | w + 1, n => n % 2 + popcount w (n / 2)

/-- The zeros above the highest one among the low `w` bits: `w` for zero. -/
def leadingZeros : Nat → Nat → Nat
  | 0, _ => 0
  | w + 1, n => if n.testBit w then 0 else leadingZeros w n + 1

/-- Ones in bits `w - 1` to 0. -/
def onesBelow (w : Nat) : DWord := BitVec.ofNat 64 (2 ^ w - 1)

/-- Cut a list into pieces of `n`; `fuel` bounds the number of pieces. -/
def chunksOf {α : Type} (n : Nat) : Nat → List α → List (List α)
  | 0, _ => []
  | fuel + 1, l => if l.isEmpty then [] else l.take n :: chunksOf n fuel (l.drop n)

/-- The list with one element changed. -/
def modifyAt {α : Type} (l : List α) (i : Nat) (f : α → α) : List α :=
  match l, i with
  | [], _ => []
  | a :: t, 0 => f a :: t
  | a :: t, i + 1 => a :: modifyAt t i f

/-- The least of a list under a key, the first of equals. -/
def leastBy {α : Type} (f : α → Nat) : List α → Option α
  | [] => none
  | a :: t =>
    match leastBy f t with
    | none => some a
    | some b => if f a ≤ f b then some a else some b

/-- The greatest of a list under a key, the first of equals. -/
def mostBy {α : Type} (f : α → Nat) : List α → Option α
  | [] => none
  | a :: t =>
    match mostBy f t with
    | none => some a
    | some b => if f b ≤ f a then some a else some b

/-- Numbers below `n` inserted in rising order under a key; a sort by insertion. -/
def insertBy {α : Type} (le : α → α → Bool) (a : α) : List α → List α
  | [] => [a]
  | b :: t => if le a b then a :: b :: t else b :: insertBy le a t

def sortBy {α : Type} (le : α → α → Bool) (l : List α) : List α := l.foldr (insertBy le) []

/-- A list without repeats, in order of first standing. -/
def dedup (l : List Nat) : List Nat := l.foldl (fun acc a => if acc.contains a then acc else acc ++ [a]) []

end Sys2Proof.Machine
end

