-- ==== Sys2Proof/Machine/Crypto.lean ====
section
/-!
DEFINITION. The functions that the spec names by their standards: SHA-256 (FIPS 180-4; R136, R153, R342), the
check of RSASSA-PKCS1-v1_5 signatures with SHA-256 under 3,072-bit moduli (RFC 8017; R156), SipHash-2-4 with
128-bit output (R341), CRC-32C (R401).
-/

namespace Sys2Proof.Machine

/-! ## SHA-256 -/

/-- The largest number below `x + 2^b` whose `k`-th power is at most `n`, found bit by bit from `x`. -/
def rootFrom (k n : Nat) : Nat → Nat → Nat
  | 0, x => x
  | b + 1, x => rootFrom k n b (if (x + 2 ^ b) ^ k ≤ n then x + 2 ^ b else x)

/-- The first 32 bits of the fraction of the `k`-th root of a number below 512. -/
def rootFraction (k p : Nat) : Word := BitVec.ofNat 32 (rootFrom k (p * 2 ^ (32 * k)) 37 0)

/-- The first 64 primes, from which the standard draws its constants. -/
def shaPrimes : List Nat :=
  [2, 3, 5, 7, 11, 13, 17, 19, 23, 29, 31, 37, 41, 43, 47, 53] ++
  [59, 61, 67, 71, 73, 79, 83, 89, 97, 101, 103, 107, 109, 113, 127, 131] ++
  [137, 139, 149, 151, 157, 163, 167, 173, 179, 181, 191, 193, 197, 199, 211, 223] ++
  [227, 229, 233, 239, 241, 251, 257, 263, 269, 271, 277, 281, 283, 293, 307, 311]

/-- The round constants: the cube roots. -/
def sha256K : List Word := shaPrimes.map (rootFraction 3)

/-- The eight working words. -/
structure Sha where
  a : Word
  b : Word
  c : Word
  d : Word
  e : Word
  f : Word
  g : Word
  h : Word
  deriving DecidableEq, Repr

/-- The first working words: the square roots of the first eight primes. -/
def Sha.init : Sha :=
  let r (p : Nat) : Word := rootFraction 2 p
  ⟨r 2, r 3, r 5, r 7, r 11, r 13, r 17, r 19⟩

def Sha.add (x y : Sha) : Sha := ⟨x.a + y.a, x.b + y.b, x.c + y.c, x.d + y.d, x.e + y.e, x.f + y.f, x.g + y.g, x.h + y.h⟩

def Sha.bytes (x : Sha) : List Byte := [x.a, x.b, x.c, x.d, x.e, x.f, x.g, x.h].flatMap fun w => beBytes 4 w.toNat

/-- The next word of the schedule; `w` holds the last sixteen, oldest first. -/
def shaNext (w : List Word) : Word :=
  let x := w.getD 1 0
  let y := w.getD 14 0
  let s0 := x.rotateRight 7 ^^^ x.rotateRight 18 ^^^ (x >>> 3)
  let s1 := y.rotateRight 17 ^^^ y.rotateRight 19 ^^^ (y >>> 10)
  w.getD 0 0 + s0 + w.getD 9 0 + s1

/-- The exclusive or of three rotations of a word. -/
def shaMix (x : Word) (i j k : Nat) : Word := x.rotateRight i ^^^ x.rotateRight j ^^^ x.rotateRight k

/-- Each bit of `y` where `x` has a one, of `z` where it has a zero; and the bit that two of three words have. -/
def shaPick (x y z : Word) : Word := z ^^^ (x &&& (y ^^^ z))
def shaVote (x y z : Word) : Word := (x &&& y) ||| (z &&& (x ||| y))

/-- One round with the sum of its constant and its schedule word. -/
def Sha.round (x : Sha) (kw : Word) : Sha :=
  let up := kw + x.h + shaPick x.e x.f x.g + shaMix x.e 6 11 25
  { a := up + shaVote x.a x.b x.c + shaMix x.a 2 13 22, b := x.a, c := x.b, d := x.c
    e := up + x.d, f := x.e, g := x.f, h := x.g }

/-- The rounds of one block: `w` is a window of sixteen schedule words. -/
def shaRounds : List Word → List Word → Sha → Sha
  | [], _, x => x
  | k :: ks, w, x => shaRounds ks (w.tail ++ [shaNext w]) (x.round (k + w.headD 0))

/-- One block of 64 bytes. -/
def shaBlock (x : Sha) (bs : List Byte) : Sha :=
  x.add (shaRounds sha256K ((chunksOf 4 16 bs).map fun b => BitVec.ofNat 32 (ofBe b)) x)

/-- The message with its padding. -/
def shaPad (bs : List Byte) : List Byte :=
  let z := (119 - bs.length % 64) % 64
  bs ++ [0x80] ++ List.replicate z 0 ++ beBytes 8 (8 * bs.length)

def sha256 (bs : List Byte) : List Byte :=
  let m := shaPad bs
  ((chunksOf 64 (m.length / 64) m).foldl shaBlock Sha.init).bytes

/-! ## RSASSA-PKCS1-v1_5 -/

/-- `x` squared `n` times modulo `m`. -/
def squareTimes (m : Nat) : Nat → Nat → Nat
  | 0, x => x
  | n + 1, x => squareTimes m n (x * x % m)

/-- The 19 bytes that name SHA-256 before a digest. -/
def sha256Info : Nat := 0x3031300d060960864801650304020105000420

/-- The number of the encoded message for a SHA-256 digest in 384 bytes. -/
def pkcs1Encoded (digest : List Byte) : Nat :=
  ofBe ([0x00, 0x01] ++ List.replicate 330 0xFF ++ [0x00] ++ beBytes 19 sha256Info ++ digest)

/-- Whether a signature verifies under a modulus with exponent 65,537 = 2^16 + 1. -/
def rsaVerify (modulus signature digest : List Byte) : Bool :=
  let n := ofBe modulus
  let s := ofBe signature
  decide (s < n) && squareTimes n 16 s * s % n == pkcs1Encoded digest

/-- b^e mod m, by the low `n` bits of e. -/
def powMod (m b : Nat) : Nat → Nat → Nat
  | 0, _ => 1 % m
  | n + 1, e =>
    let r := powMod m b n (e / 2)
    if e % 2 = 1 then r * r % m * b % m else r * r % m

/-- RSASSA-PKCS1-v1_5 with SHA-256: the signature of a digest under a modulus of 3,072 bits and a private exponent. -/
def rsaSign (modulus : List Byte) (exponent : Nat) (digest : List Byte) : List Byte :=
  beBytes 384 (powMod (ofBe modulus) (pkcs1Encoded digest) (exponent.log2 + 1) exponent)

/-! ## The device identity key (R412) -/

/-- A number from 2 on that no smaller number from 2 on divides. -/
def isPrime (n : Nat) : Bool := decide (2 ≤ n) && (firstBelow n fun i => decide (2 ≤ i) && n % i == 0).isNone

/-- A prime of an RSA-3072 key with public exponent 65,537: two of them give a modulus of 3,072 bits, and the exponent
has an inverse. -/
def keyPrime (p : Nat) : Bool := decide (p < 2 ^ 1536) && decide (2 ^ 3071 ≤ p * p) && p % 65537 != 1 && isPrime p

/-- The first key prime from a seed on, round the numbers of 1,536 bits, that is not another. -/
def keyPrimeFrom (seed other : Nat) : Nat :=
  let at' (i : Nat) : Nat := (seed + i) % 2 ^ 1536
  ((firstBelow (2 ^ 1536) fun i => keyPrime (at' i) && at' i != other).map at').getD 0

/-- The identity key's primes: any two that an RSA-3072 key may have (log 9). -/
@[irreducible] def identityPrimes : Nat × Nat :=
  let p := keyPrimeFrom (Config.identitySeed 0) 0
  (p, keyPrimeFrom (Config.identitySeed 1) p)

/-- The public half: the modulus. -/
def identityModulus : Nat := identityPrimes.1 * identityPrimes.2

/-- The private half: the inverse of 65,537 under which every signature verifies. It never leaves the device. -/
@[irreducible] def identityExponent : Nat :=
  let l := Nat.lcm (identityPrimes.1 - 1) (identityPrimes.2 - 1)
  (firstBelow l fun d => 65537 * d % l == 1).getD 0

/-! ## SipHash-2-4, 128-bit output -/

structure Sip where
  v0 : DWord
  v1 : DWord
  v2 : DWord
  v3 : DWord
  deriving DecidableEq, Repr

def Sip.round (x : Sip) : Sip :=
  let a := x.v0 + x.v1
  let b := x.v1.rotateLeft 13 ^^^ a
  let a := a.rotateLeft 32
  let c := x.v2 + x.v3
  let d := x.v3.rotateLeft 16 ^^^ c
  let a := a + d
  let d := d.rotateLeft 21 ^^^ a
  let c := c + b
  let b := b.rotateLeft 17 ^^^ c
  ⟨a, b, c.rotateLeft 32, d⟩

def Sip.word (x : Sip) (m : DWord) : Sip :=
  let y := { x with v3 := x.v3 ^^^ m }.round.round
  { y with v0 := y.v0 ^^^ m }

def Sip.out (x : Sip) : DWord := x.v0 ^^^ x.v1 ^^^ x.v2 ^^^ x.v3

/-- The last word of a message: its remaining bytes, and its length in the top byte. -/
def sipTail (bs : List Byte) (len : Nat) : DWord := BitVec.ofNat 64 (ofLe bs + len % 256 * 2 ^ 56)

/-- The output as a 128-bit little-endian number (R341). -/
def sipHash128 (k0 k1 : DWord) (bs : List Byte) : Nat :=
  let x : Sip := ⟨k0 ^^^ 0x736f6d6570736575, k1 ^^^ 0x646f72616e646f6d ^^^ 0xEE, k0 ^^^ 0x6c7967656e657261, k1 ^^^ 0x7465646279746573⟩
  let n := bs.length / 8
  let x := (chunksOf 8 n (bs.take (8 * n))).foldl (fun x b => x.word (BitVec.ofNat 64 (ofLe b))) x
  let x := x.word (sipTail (bs.drop (8 * n)) bs.length)
  let x := { x with v2 := x.v2 ^^^ 0xEE }.round.round.round.round
  let lo := x.out
  let x := { x with v1 := x.v1 ^^^ 0xDD }.round.round.round.round
  lo.toNat + x.out.toNat * 2 ^ 64

/-! ## CRC-32C -/

/-- One bit of the reflected polynomial 0x82F63B78. -/
def crcBit (c : Word) : Word := if c.getLsbD 0 then (c >>> 1) ^^^ 0x82F63B78 else c >>> 1

def crcByte (c : Word) (b : Byte) : Word :=
  let c := c ^^^ b.setWidth 32
  crcBit (crcBit (crcBit (crcBit (crcBit (crcBit (crcBit (crcBit c)))))))

def crc32c (bs : List Byte) : Word := ~~~(bs.foldl crcByte 0xFFFFFFFF)

end Sys2Proof.Machine
end

