-- ==== Sys2Proof/Machine/Mem.lean ====
section
/-!
DEFINITION. Bytes by address in one canonical form: addresses strictly rising, no entry equal to zero, which
is what an unlisted address reads as. Local HBM is zero after power-up (R403, Table 21-1 step 5); a granule
is zero when it enters a window (R51).
-/

namespace Sys2Proof.Machine

/-- The byte at an address. -/
def Memory.get (m : List Host.Cell) (a : Nat) : Byte := look m a 0

/-- The memory with one byte written. Writing zero removes the entry. -/
def Memory.set (m : List Host.Cell) (a : Nat) (b : Byte) : List Host.Cell :=
  match m with
  | [] => if b = 0 then [] else [(a, b)]
  | (c, x) :: t =>
    if a < c then (if b = 0 then (c, x) :: t else (a, b) :: (c, x) :: t)
    else if c = a then (if b = 0 then t else (a, b) :: t)
    else (c, x) :: Memory.set t a b

/-- Every address of the list is above `lo`, strictly rising, and no byte is zero. -/
def Memory.above (lo : Nat) (m : List Host.Cell) : Bool :=
  match m with
  | [] => true
  | (a, b) :: t => decide (lo ≤ a) && decide (b ≠ 0) && Memory.above (a + 1) t

/-- The canonical form. -/
def Memory.wf (m : List Host.Cell) : Bool := Memory.above 0 m

/-- `n` bytes from an address. -/
def Memory.read (m : List Host.Cell) (a n : Nat) : List Byte := (rangeFrom a n).map (Memory.get m)

/-- Bytes written from an address up. -/
def Memory.write (m : List Host.Cell) (a : Nat) (bs : List Byte) : List Host.Cell :=
  match bs with
  | [] => m
  | b :: t => Memory.write (Memory.set m a b) (a + 1) t

/-- Bytes written under a byte mask: an address with `none` keeps its byte. -/
def Memory.writeMasked (m : List Host.Cell) (a : Nat) (bs : List (Option Byte)) : List Host.Cell :=
  match bs with
  | [] => m
  | none :: t => Memory.writeMasked m (a + 1) t
  | some b :: t => Memory.writeMasked (Memory.set m a b) (a + 1) t

/-- A number of `n` bytes, little-endian. -/
def Memory.readLe (m : List Host.Cell) (a n : Nat) : Nat := ofLe (Memory.read m a n)

end Sys2Proof.Machine
end

