-- ==== Sys2Proof/Machine/State.lean ====
section
/-!
DEFINITION. The state of Kutil as plain data: the groups with their registers and control areas, the
teams and launches that the Keepers hold, pools and their maps, caches, translations, home memory,
engines' operations in flight, the service registers, fabric links and queue pairs, and the queue of
what happens next. Each field cites the rule that names it.
-/

namespace Sys2Proof.Machine

/-- The machine stops with a fault: never. Every trap, fault and refusal of Kutil has an effect that
the spec describes, so it is a next state; the type has no value. -/
inductive Fault
  deriving DecidableEq, Repr

/-- Why a step has no meaning here. -/
inductive Refusal where
  /-- Raised by Dispatch for an instruction that has no meaning yet. Safe: nothing is proved of a run
  through it. -/
  | notModelled (mnemonic : String)
  deriving DecidableEq, Repr

/-! ## Fault records and parks -/

/-- A record of a fault queue (Table 05-2). -/
structure FaultRecord where
  va     : DWord
  pc     : DWord
  entry  : DWord
  token  : Word
  launch : Word
  detail : Word
  ctx    : BitVec 16
  core   : BitVec 16
  count  : BitVec 16
  cause  : Byte
  acc    : Byte
  level  : Byte
  widx   : Byte
  group  : Byte
  park   : Bool
  sec    : Bool
  deriving DecidableEq, Repr

/-- An access for translation (Table 01-5): what it needs, its ACC bits, and whether it is an 8-byte load or
store that the service window takes (R34). -/
structure Access where
  r    : Bool
  w    : Bool
  x    : Bool
  any  : Bool
  bits : Byte
  svc  : Bool
  deriving DecidableEq, Repr

/-- A park (R138 to R140): the token, or 0 for a waiter without one, the walker's sector, the tenant function and core
whose walk ended there, the context for which it was made, if any, and its access, the fault record of the waiter, and
its place in the order in which waiters parked. -/
structure Park where
  token  : Word
  sector : Nat
  tf     : Nat
  core   : Nat
  who    : Option Nat := none
  access : Access
  record : FaultRecord
  order  : Nat
  deriving DecidableEq, Repr

/-- Registers by number: vector, scalar, hypervector and bundle registers (R211). -/
structure RegSet where
  v : List Nat := []
  s : List Nat := []
  h : List Nat := []
  b : List Nat := []
  deriving DecidableEq, Repr

/-! ## Groups -/

/-- The fields of a prefix word (Table 08-5, Form P). -/
structure Prefix where
  sel    : BitVec 4
  zero   : BitVec 1
  rnd    : BitVec 3
  fourth : BitVec 8
  kind   : BitVec 3
  amount : BitVec 6
  deriving DecidableEq, Repr

/-- A clause that a party has begun (R209): the address of its header, the header, its words, the index
of the next word to issue, the prefix that qualifies that word, and the MODE in force (R200). -/
structure Clause where
  addr  : DWord
  hdr   : Word
  words : List Word
  idx   : Nat
  pre   : Option Prefix
  mode  : Word
  deriving DecidableEq, Repr

/-- Why a word holds (R113, R148, R210, R211, R282, R308, and Table 04-4's wait for peers). -/
inductive Hold where
  /-- FENCE, while flagless operations of the group are outstanding -/
  | flagless
  /-- an issue that would raise a flag above 63 -/
  | flag (n : Nat)
  /-- a register that an operation in flight has still to write or to read -/
  | scoreboard
  /-- steps that the array has accepted on an accumulator tile -/
  | steps (tile : Nat)
  /-- a pool word while the Tender moves a run of the team -/
  | moving
  /-- a store to a service register behind a held invalidation command -/
  | service
  /-- a release at .SYS while stores through an aperture are not acknowledged -/
  | peers
  deriving DecidableEq, Repr

/-- What a party waits for (R138, R159, R179, R209, R276, R282, R283, R352, R361). -/
inductive Wait where
  | none
  /-- at a header whose WAIT names a flag that is not zero -/
  | header (h : Word)
  /-- at a header whose code page is not yet verified -/
  | code (page : Nat)
  /-- the continuing side at a JOIN -/
  | join (token : Nat)
  /-- a fragment with J = 1 -/
  | joined
  /-- a stalled PGROW of `n` granules: arrival order and time in µs -/
  | pgrow (n arrival since : Nat)
  /-- BARWAIT on a barrier word, in the pool or at a virtual address; `met` once a write that passes it has
  performed; where the address now lies in local HBM -/
  | barwait (pool : Bool) (addr : DWord) (target : BitVec 16) (met : Bool) (pa : Option Nat)
  /-- CHKW on a bitmap word of the window -/
  | chkw (offset : Nat) (mask : DWord)
  /-- PSHARE while the Tender moves the run -/
  | pshare (reg : Nat) (offset n : Nat)
  /-- parked on a missing page -/
  | parked (p : Park)
  /-- held behind the handler of another party -/
  | handler
  /-- a word that holds -/
  | hold (h : Hold)
  /-- retired -/
  | exited
  deriving DecidableEq, Repr

/-- The waits at which a party of a team that is being pre-empted stops at once (R365). -/
def Wait.stops : Wait → Bool
  | .header _ | .join _ | .pgrow .. | .barwait .. | .chkw .. | .parked _ => true
  | _ => false

/-- The execution state of one party (R177): the address of its next clause header, the clause it is in,
what it waits for, and its place in the quadrant (R352 to R355): in the active set, the cycle of its
last issue or entry, the stamp of its entry, since when it is ready, and the cycle and side of its last word, true for
the scalar pipe;
`wasReady` that it was ready in the pending set when the quadrant last looked (R354); `stopped` for pre-emption
(R365). -/
structure Party where
  pc      : DWord
  clause  : Option Clause
  wait    : Wait
  active  : Bool
  issued  : Nat
  entered : Nat
  ready   : Nat
  wasReady : Bool := false
  last    : Option (Nat × Bool)
  stopped : Bool
  deriving DecidableEq, Repr

/-- A fragment entry (Table 02-9); WOFF is the party's pc. -/
structure Frag where
  v     : Bool
  mask  : DWord
  token : BitVec 4
  j     : Bool
  party : Party
  deriving DecidableEq, Repr

/-- A vector register (R59): zero (format 4), raw lanes, or held only by the frame in memory, to be filled
by the Tender (R63). -/
inductive VReg where
  | zero
  | raw (lanes : List Word)
  | inFrame
  deriving DecidableEq, Repr

/-- A store in a group's store queue (R97): the operation it belongs to, where it goes (the pool window, or
physical memory under a page's CL, WP and eviction priority), and its bytes, lane by lane. -/
structure QueuedStore where
  op     : Nat
  pool   : Bool
  cl     : BitVec 2
  wp     : BitVec 2
  prio   : Nat
  writes : List (Nat × List Byte)
  deriving DecidableEq, Repr

/-- A pending deferred trap (R305, R346, R368): the operation, cause and detail, and the flag whose wait raises
it, or none for the next FENCE. -/
structure Deferred where
  op     : Nat
  cause  : Byte
  detail : Word
  flag   : Option Nat
  deriving DecidableEq, Repr

/-- The trap record (Table 16-2), the handler bit, the handler party, and the clause that the trap
interrupted, whose words a return point may name (R239). -/
structure TrapState where
  hb     : Bool
  owner  : Option Nat
  words  : List DWord
  clause : Option Clause
  deriving DecidableEq, Repr

/-- What operations have changed of a control area that lies only in the frame in memory: how often each flag has
fallen, the scalar registers written, and the FSTAT bits set (R56, R120). -/
structure CtlLate where
  fell  : List Nat := []
  regs  : List Nat := []
  fstat : Word := 0
  deriving DecidableEq, Repr

/-- A group: its identity, geometry (R155, R165), the window granules where its frame region and its
hypervector region begin (R45), control area (Table 02-8), registers (R55, R313), store
queue (R97), deferred traps (R305), whether its parties end at their next clause boundary (R29,
R160, R414), and trap state (R361). `landed` holds, by flag, with 12 for no flag, when the last operation that wrote
tenant memory completed, until the wait that acts on it (R113). `ctlOut` is true when the control area lies only in
the frame in memory (R66), and `late` what has changed of it since. -/
structure Group where
  ctx      : Nat
  idx      : Nat
  role     : Nat
  width    : Nat
  budget   : Nat
  frame    : DWord
  frameAt  : Nat
  hvAt     : Nat
  handler  : Word
  main     : Party
  mode     : Word
  fstat    : Word
  flags    : List Nat
  tokens   : Word
  joinWait : Word
  frags    : List Frag
  m        : List DWord
  s        : List DWord
  sPoison  : List Nat
  v        : List VReg
  vPoison  : List Nat
  hdim     : Nat
  bwidth   : Nat
  h        : List Nat
  b        : List (List Int)
  hbPoison : List Nat
  sq       : List QueuedStore
  deferred : List Deferred
  landed   : List (Nat × Nat)
  ending   : Bool
  trap     : TrapState
  ctlOut   : Bool
  late     : CtlLate
  deriving DecidableEq, Repr

/-! ## Operations in flight -/

/-- A hypervector register word that the HVU has accepted (R319 to R321). -/
inductive HvWord where
  | xor (d a b : Nat)
  | maj3 (d a b c : Nat)
  | rot (d a : Nat) (amount : DWord)
  | bun (d a : Nat) (sub : Bool)
  | thr (d a : Nat) (tie : Option Nat)
  | clrb (d : Nat)
  | dist (d a b : Nat)
  | popc (d a : Nat)
  | gen (d : Nat) (seed : DWord)
  | get (d a : Nat) (index : List Nat) (act : DWord)
  | set (d : Nat) (index : List Nat) (act : DWord) (lanes : List Word)
  deriving DecidableEq, Repr

/-- What an operation in flight does when it completes (R91, R113, R210). Register operands are held as read at issue
(R114); `bad` that the key was poisoned (R315). A store knows the first address that it reaches through an aperture,
and whether it performs `near`, in the L1 or a combining buffer (Table 04-3); once its flag has fallen it stays as
`posted` until the peer has acknowledged it (R29, Table 04-4). `peerAtomic` is an atomic through an aperture that
returns nothing; either is `refused`, with its ACC bits, once it cannot be sent (R398, R402). CSEND holds its data page
by page, with none for a page that was missing at issue (R119, R139). -/
inductive OpKind where
  | load
  | store (peer : Option DWord) (near : Bool)
  | posted (peer : DWord)
  | peerAtomic (peer : DWord)
  | refused (peer : DWord) (acc : Byte)
  | atomic
  | cacheHint
  | copy (copy : Nat)
  | csend (slot : Nat) (op : Nat) (buf : DWord) (bytes : Nat) (data : List (Option (List Byte))) (desc : Nat)
  | crecv (slot : Nat) (op : Nat) (buf : DWord) (bytes : Nat) (desc : Nat)
  | ldw (ctrl src : DWord)
  | mma (zero : Bool) (fmt tile : Nat) (ba : Bool) (acts : List (List Word))
  | hv (word : HvWord)
  | hvld (pool : Bool) (reg : Nat) (addr : DWord)
  | hvst (pool : Bool) (addr : DWord) (data : List Byte)
  | hvnear (pool : Bool) (reg : Nat) (key : Nat) (bad : Bool) (base : DWord) (count : Nat)
  | emit (succ offset count : Nat)
  | eflush (succ : Nat)
  | launch (record : DWord)
  | signal (record : DWord)
  | start (record : DWord)
  deriving DecidableEq, Repr

/-- An operation in flight: its number in issue order, its group, its party's flag or none, what it does,
its park (R139), the core, width and hypervector length of its group at issue (R237, R304), the registers that it
has still to write and to read (R211), and what class 7 weighed at its issue (R347). `start` is what is left of a SIGNAL
whose decrement has brought PREDS to 0 and
whose flag has completed (R336). -/
structure Op where
  id     : Nat
  ctx    : Nat
  grp    : Nat
  flag   : Option Nat
  kind   : OpKind
  parked : Option Park
  core   : Nat
  lanes  : Nat
  dim    : Nat
  dst    : RegSet
  src    : RegSet
  weight : Nat := 0
  deriving DecidableEq, Repr

/-- A slice of a copy that has arrived (R289, R368): descriptor offset, slice index, group, word (0 CPY, 1
CPYIM, 2 CPYGT), the group's flag or none, and what class 7 weighed when its word issued (R347). -/
structure Slice where
  offset : Nat
  index  : Nat
  grp    : Nat
  kind   : Nat
  flag   : Option Nat
  weight : Nat := 0
  deriving DecidableEq, Repr

/-- A copy (R289, R290): the slices recorded so far, whether the BXE has started it, the reading by which it
copies (the descriptor's bytes, and CPYGT's indices after them), and the chunks still to perform. A copy node
has no team: `node` names its launch (R295). `prior` holds the line buffers' bytes that it may take (R293);
`impure` an access that was not performed (R346). -/
structure Copy where
  id      : Nat
  ctx     : Nat
  node    : Option Nat
  offset  : Nat
  kind    : Nat
  desc    : List Byte
  parts   : List Slice
  started : Bool
  chunks  : List Nat
  prior   : List Host.Cell
  impure  : Bool
  parked  : Option Park
  deriving DecidableEq, Repr

/-! ## Teams and launches -/

/-- The kinds of region of a pool window (Table 02-2), with the KIND codes of Table 02-4. -/
inductive Region where
  | frame | accumulator | hypervector | staging | shared
  deriving DecidableEq, Repr

/-- Where a window granule's bytes are (R44, R62, R66): in a physical granule of the core's pool, or in
its backing in tenant memory. -/
inductive Granule where
  | inPool (phys : Nat)
  | inBacking
  deriving DecidableEq, Repr

/-- An accumulator tile (R300): its allocated bit, step count and elements that are not zero, element
[m][n] under index 128m + n. -/
structure AccTile where
  alloc : Bool
  count : BitVec 16
  elems : List (Nat × Word)
  deriving DecidableEq, Repr

/-- A granule that PSHRINK took out of the window and that has not yet passed to the L1 (R54): its physical granule,
the window granule that it backed, when it left, and what it holds, by window offset. -/
structure Leaving where
  phys   : Nat
  wg     : Nat
  left   : Nat
  cells  : List Host.Cell
  poison : List Nat
  deriving DecidableEq, Repr

/-- The states of a context (Table 16-4, STATE). -/
inductive CtxState where
  | free | resident | stopping | savedRetained | savedNone | migrating
  deriving DecidableEq, Repr

/-- A team (R165, R166) as the Keeper holds it (Table 16-5): context number, launch, core, indices, team slot, window,
accumulators, energy, and the times that scheduling uses: `admitted` is %clock when it took or left its core. `pool`
holds the bytes of the staging and shared regions by window offset; `granules` the whole window by window granule;
`shared` the marked cluster-shared granules (R68); `leaving` the granules that PSHRINK has taken out and that have not
yet passed to the L1 (R54); `pendingSlices` the cancelled copy slices (R368); `lines` the BXE's line buffers by
descriptor offset (R293); `unfilled` the granules that a resume has still to read back from their backing, `late` the
offsets in such granules that operations have written meanwhile (R120), and `refill` the park on which the reading
waits (R66, R151). -/
structure Team where
  ctx       : Nat
  launch    : Nat
  core      : Nat
  state     : CtxState
  linear    : Nat
  tx        : Nat
  ty        : Nat
  tz        : Nat
  slot      : Nat
  nGroups   : Nat
  granules  : List Granule
  retained  : Bool
  accAt     : Nat
  stagingAt : Nat
  sharedAt  : Nat
  shared    : List Nat
  leaving   : List Leaving
  pool      : List Host.Cell
  poison    : List Nat
  acc       : List AccTile
  energy    : DWord
  slotTicks : Nat
  admitted  : Nat
  since     : Nat
  joined    : Nat
  aged      : Nat
  saveStamp : Nat
  request   : Option Nat
  hard      : Bool
  pendingSlices : List Slice
  lines     : List (Nat × List Host.Cell)
  unfilled  : List Nat
  late      : List Nat
  refill    : Option Park
  deriving DecidableEq, Repr

/-- The pure side of a launch (R341 to R346): its key, whether it is still clean, the frames that it watches, the tile
pages that were not resident and have still to take their watch, and the resident pages of the result tile, each with
its frame. -/
structure Pure where
  key     : Nat
  clean   : Bool
  frames  : List Nat
  missing : List Nat
  result  : List (Nat × Nat)
  deriving DecidableEq, Repr

/-- An open stream node's queue (R329, R330): the descriptor's fields, the Keeper's counters, and the batches as
(first record, count, µs of joining the pending list) in `queued` and, once their teams have started, (team's context,
records up to, whether the team has exited) in `running`. `ended` once PREDS is 0; `stale` while the descriptor's
counters in memory are still to be written. -/
structure Stream where
  inq     : DWord
  base    : DWord
  recSize : Nat
  log2n   : Nat
  thresh  : Nat
  head    : Nat
  issued  : Nat
  freed   : Nat
  batch   : Nat
  queued  : List (Nat × Nat × Nat)
  running : List (Nat × Nat × Bool)
  ended   : Bool
  stale   : Bool
  deriving DecidableEq, Repr

/-- A launch (R168, R173, R174): its record's bytes as accepted, tenant function, queue, %launch, and how far it has
come: `taken` when it comes from the queue, at QHEAD = `qhead` before the increment. `next` is the linear index of the
next team to start (R167); `slots` the team slots in use (R170); `energy` the sum over exited contexts (R359).
`refusedNodes` are the records of the successors that R331 refused. `refused` is its reason (R173); `reuse` a hit of
the Daymark (R343); `copy` the copy of a copy node or of a hit. `done` is the STATUS that its completion word took;
then `succ` loses each successor as it is processed (R326), `starting` is one whose record is still to be read;
`parked` the park on which the Keeper's accesses for the launch wait. -/
structure Launch where
  id       : Nat
  tf       : BitVec 8
  queue    : BitVec 12
  taken    : Bool
  qhead    : DWord
  num      : Word
  record   : DWord
  bytes    : List Byte
  consts   : List DWord
  succ     : List DWord
  next     : Nat
  slots    : List Nat
  joined   : Nat
  aged     : Nat
  cls      : Nat
  base     : Nat
  energy   : Nat
  killed   : Option Byte
  copy     : Option Nat
  reuse    : Bool
  refused  : Option Byte
  done     : Option Byte
  starting : Option DWord
  parked   : Option Park
  pure     : Option Pure
  stream   : Option Stream
  refusedNodes : List DWord
  deriving DecidableEq, Repr

/-- A Daymark entry (R87, R89, R343, R344). -/
structure DaymarkEntry where
  part   : Nat
  set    : Nat
  tag    : Nat
  tf     : BitVec 8
  result : List Byte
  spans  : List (Nat × Nat)
  frames : List Nat
  stamp  : Nat
  deriving DecidableEq, Repr

/-! ## Engines, caches, translations -/

/-- The weight tile that an MXA holds (R299): its owning launch, format, K, N, BLK, element codes by row,
and scale codes by block of 32 rows. An absent tile has valid = 0. -/
structure WeightTile where
  core   : Nat
  tf     : BitVec 8
  launch : Word
  fmt    : Nat
  k      : Nat
  n      : Nat
  blk    : Bool
  elems  : List (List Nat)
  scales : List (List Nat)
  deriving DecidableEq, Repr

/-- Who writes (R147, R344, R402): a tenant function; its launch, if it writes for one; and the context whose group or
engine it is, none for a copy node and the Keeper. -/
structure Writer where
  tf     : Nat
  launch : Option Nat
  ctx    : Option Nat
  deriving DecidableEq, Repr

/-- One 32-byte sector of a core's L1 (R70, R75): physical address divided by 32, bytes, dirty bytes, poison, and
whether its tenant function's lines are victim-replicated (R81). `fresh` is true while no write to the line has
performed at its home since the L1 was supplied (R82); `writers` whose stores made its dirty bytes, each with the
bytes it wrote (R344); `filled` when the sector was filled, `part` whether an acquire has since discarded the bytes that
are not dirty (R95, R107, R113); `since` %clock when it became dirty (R77); `prio` the priority at which its home slice
allocates the line (R79). -/
structure L1Sector where
  core   : Nat
  sector : Nat
  bytes  : List Byte
  dirty  : Word
  poison : Bool
  vr     : Bool
  fresh  : Bool
  writers : List (Writer × Word)
  filled  : Nat
  part    : Bool
  since   : Nat
  prio    : Nat
  deriving DecidableEq, Repr

/-- A line of an L2 slice (R70, R77, R79): its sectors that are valid and dirty, and its eviction priority. Its bytes
are those of home memory; lines stand in the order of their last use, the least recent first. -/
structure L2Line where
  line  : Nat
  valid : BitVec 8
  dirty : BitVec 8
  prio  : Nat
  deriving DecidableEq, Repr

/-- A victim replica (R81): the area, die × 8 + sector, whose slice at position `pos` holds it, its line, the sectors
that it holds with their bytes and poison (R85), and its eviction priority (R79). -/
structure Replica where
  area  : Nat
  pos   : Nat
  line  : Nat
  parts : List (Nat × List Byte × Bool)
  prio  : Nat
  deriving DecidableEq, Repr

/-- A combining buffer (R78): quadrant, group, 256-byte line, written bytes, %clock at its first store, and the
priority at which its home slice allocates the line, if it does (R77). -/
structure CombBuf where
  core  : Nat
  quad  : Nat
  ctx   : Nat
  grp   : Nat
  line  : Nat
  bytes : List Host.Cell
  since : Nat
  alloc : Option Nat
  deriving DecidableEq, Repr

/-- A held translation (R38): the core that holds it, ASID, page base and size, physical base, the leaf's
permissions, dirty bit, CL, WP and EV. -/
structure HeldTrans where
  core : Nat
  asid : BitVec 12
  base : Nat
  size : Nat
  pa   : Nat
  r    : Bool
  w    : Bool
  x    : Bool
  d    : Bool
  cl   : BitVec 2
  wp   : BitVec 2
  ev   : BitVec 2
  deriving DecidableEq, Repr

/-- An outstanding fault token (R140): the walker's sector, table entry and sequence, and its key. -/
structure Token where
  sector : Nat
  entry  : Nat
  seq    : BitVec 22
  asid   : BitVec 12
  page   : Nat
  deriving DecidableEq, Repr

/-! ## Tenant functions -/

/-- A memory window (Table 01-13). -/
structure MemWindow where
  base  : BitVec 31
  limit : BitVec 31
  ro    : Bool
  en    : Bool
  deriving DecidableEq, Repr

/-- A role-table entry (Table 05-7); `hdim` is D. -/
structure Role where
  entry   : Nat
  handler : Word
  width   : Nat
  vregs   : Nat
  hdim    : Nat
  hregs   : Nat
  bregs   : Nat
  bwidth  : Nat
  deriving DecidableEq, Repr

/-- What a code slot holds of its object after LOAD (R152 to R159): the header's fields, the page hash
table, safe points, roles, constant-table image, the verified pages and the code hash that the
Daymark keeps (R342). -/
structure CodeObject where
  mmrev    : Nat
  codeOff  : Nat
  codeSize : Nat
  hashes   : List (List Byte)
  safe     : List (Nat × Word)
  roles    : List Role
  consts   : List Byte
  verified : List Nat
  hash     : Option (List Byte)
  deriving DecidableEq, Repr

/-- STATE of a code slot (Table 05-8). -/
inductive SlotState where
  | empty | loading | ready | poisoned | unloading | failed
  deriving DecidableEq, Repr

/-- A code slot (Table 05-8), and the park on which LOAD's reads wait (R158). -/
structure CodeSlot where
  base   : DWord
  refs   : Nat
  err    : Byte
  state  : SlotState
  force  : Bool
  object : Option CodeObject
  parked : Option Park
  deriving DecidableEq, Repr

/-- An invalidation command in progress (R146 to R148). -/
structure Invalidation where
  seq : BitVec 13
  deriving DecidableEq, Repr

/-- A fault record that its writer holds for a full queue (R142). `ends` is true when its cause ends a
team. -/
structure HeldRecord where
  record : FaultRecord
  launch : Option Nat
  ends   : Bool
  deriving DecidableEq, Repr

/-- A tenant function's translation block (Tables 01-11 to 01-13, 05-1, 05-8) and tenant function block (Table 20-4),
with the records held for its fault queue, the commands outstanding, and those held, each with the context, group and
operation of the store that gives it, if one does (R148). -/
structure TfBlock where
  asid    : BitVec 12
  vr      : Bool
  dp      : Bool
  en      : Bool
  root    : BitVec 40
  windows : List MemWindow
  fqBase  : BitVec 46
  fqLog2n : BitVec 4
  fqErr   : Bool
  fqEv    : Bool
  fqEn    : Bool
  fqProd  : Word
  fqCons  : Word
  resAddr : BitVec 49
  invCw   : BitVec 49
  keyHash : List DWord
  slots   : List (Nat × CodeSlot)
  ceil    : BitVec 3
  part    : BitVec 2
  evEn    : Bool
  evQp    : BitVec 13
  dmKey0  : DWord
  dmKey1  : DWord
  quota   : BitVec 17
  eDef    : BitVec 48
  eLim    : BitVec 48
  held    : List HeldRecord
  invs    : List Invalidation
  invHeld : List (DWord × Option (Nat × Nat × Nat))
  deriving DecidableEq, Repr

/-! ## Keeper, host and fabric tables -/

/-- A queue table entry (Table 20-3), with the count of device starts on its behalf (R328), the records
served in the current round (R348), whether QHEAD is still to be set from the tail word (R393), and the
park on which its reads wait (R139). -/
structure LaunchQueue where
  qbase   : DWord
  qtail   : DWord
  weight  : Byte
  tf      : BitVec 8
  log2n   : BitVec 4
  cls     : BitVec 3
  err     : Bool
  en      : Bool
  qhead   : DWord
  starts  : BitVec 20
  served  : Nat
  opening : Bool
  parked  : Option Park
  deriving DecidableEq, Repr

/-- A queue pair entry (Table 20-2), and the messages sent and not yet acknowledged (R390). -/
structure QueuePair where
  dqpn  : BitVec 24
  pmtu  : BitVec 4
  lq    : BitVec 12
  tf    : BitVec 8
  port  : BitVec 1
  state : BitVec 2
  en    : Bool
  rpsn  : BitVec 24
  spsn  : BitVec 24
  gid   : BitVec 128
  rkey  : Word
  sent  : List (BitVec 24 × Word)
  deriving DecidableEq, Repr

/-- An import entry (Table 20-6). -/
structure Import where
  base  : BitVec 31
  limit : BitVec 31
  ro    : Bool
  en    : Bool
  src   : BitVec 20
  deriving DecidableEq, Repr

/-- A collective slot entry (Table 20-6). -/
structure SlotEntry where
  slot : BitVec 24
  tf   : BitVec 8
  en   : Bool
  deriving DecidableEq, Repr

/-- A fabric aperture entry (Table 01-9). -/
structure Aperture where
  dev : BitVec 20
  ro  : Bool
  v   : Bool
  deriving DecidableEq, Repr

/-- A pool map entry (Table 02-4): a granule in the owned or retained state, or retired; `dirty` that retained
contents are not yet written to memory, `parked` the park on which that write waits (R51). A granule without an entry
is in the L1 state. -/
structure PoolEntry where
  ctx     : Nat
  wg      : Nat
  region  : Region
  shared  : Bool
  retired : Bool
  dirty   : Bool
  parked  : Option Park
  deriving DecidableEq, Repr

/-- A data flit that the sender keeps (R402), with the requesters whose accesses it carries. -/
structure TxFlit where
  seq   : BitVec 12
  bytes : List Byte
  own   : List Writer
  deriving DecidableEq, Repr

/-- A Varla link (R401, R402): whether it is trained, the next sequence numbers, the replay buffer, payloads that wait
for room in it, the flits held behind a gap, and the missing numbers with the µs of the last request for each. -/
structure Link where
  up      : Bool
  txSeq   : BitVec 12
  rxSeq   : BitVec 12
  replay  : List TxFlit
  waiting : List (List Byte × List Writer)
  held    : List (BitVec 12 × List Byte)
  missing : List (BitVec 12 × Nat)
  deriving DecidableEq, Repr

/-- What Kutil sends to the outside: answers and events on queue pairs (R390 to R394), accesses and answers
on the fabric (R33, R399), contributions to a reduction (R297), flits (R401, R402), and answers of the
management responder (Table 21-2). -/
inductive OutMsg where
  | ack (qp : Nat)
  | nakInvalid (qp : Nat)
  | nakAccess (qp : Nat)
  | nakSequence (qp : Nat)
  | rnrNak (qp : Nat)
  | readData (qp : Nat) (data : List Byte) (poison : Bool)
  | event (qp : Nat) (psn : BitVec 24) (imm : Word)
  | peerWrite (dev : BitVec 20) (offset : Nat) (data : List Byte) (poison : Bool)
  | peerAtomic (dev : BitVec 20) (offset : Nat) (data : List Byte)
  | peerData (dev : BitVec 20) (data : List Byte) (poison : Bool)
  | peerDone (dev : BitVec 20)
  | peerReject (dev : BitVec 20)
  | contribute (slot op : Nat) (data : List Byte)
  | flit (port : Nat) (bytes : List Byte)
  | deliver (port : Nat) (payload : List Byte)
  | responder (addr : BitVec 128) (port : Nat) (code : Byte) (bytes : List Byte)
  deriving DecidableEq, Repr

/-- What a quadrant of a core keeps of its cycles (R353, R355): the last one in which it issued a word to the scalar pipe,
the last in which it issued another word, and the last in which a party entered its active set. -/
structure Quadrant where
  scalar  : Option Nat
  other   : Option Nat
  entered : Option Nat
  deriving DecidableEq, Repr

/-- What happens next: a step of some agent, or the issue of a party's next word. -/
inductive Agenda where
  | event (i : Instr)
  | issue (p : PartyRef)
  deriving DecidableEq, Repr

/-- The package's own condition (R403 to R412): power-up, health registers, capping, errors, retirement,
flash (none: the image present at manufacture; `respAddr` the responder's address in it, `torn` an image whose write was
interrupted), the buffered image blocks, attestation. `fog` is the
failing step of Table 21-1 in the fog-signal state, `due` granules whose retirement waits for the L1's floor (R49),
`spares` the clusters that spares serve since reset,
`errors` the corrected errors with their times, `sampleAt` the µs from which the power manager's next sample is due. -/
structure Health where
  ready     : Bool
  fog       : Option Nat
  clk       : Byte
  danger    : Bool
  retiredCores  : List Nat
  retiredSlices : List Nat
  due       : List HwUnit
  spares    : List Nat
  cethr     : BitVec 16
  pcap      : BitVec 16
  abusy     : Bool
  attAddr   : BitVec 43
  errors    : List (HwUnit × Nat)
  overCap   : Nat
  headroom  : Nat
  sampleAt  : Nat
  flash     : Option (List Byte)
  torn      : Bool
  respAddr  : BitVec 128
  image     : List Host.Cell
  deriving DecidableEq, Repr

/-- The Keepers' controls (Tables 15-1, 16-4) and partitioning and fabric controls (Table 20-5). `behind` holds stores to
the service window that wait behind a held command of the same group, each with its group and operation, register and
value (R148). -/
structure Controls where
  age     : BitVec 16
  prewait : BitVec 16
  quantum : BitVec 16
  static  : Word
  weights : List Word
  timeout : BitVec 16
  p       : BitVec 2
  pNext   : Option (BitVec 2)
  pErr    : Bool
  ven     : Bool
  devid   : BitVec 20
  behind  : List ((Nat × Nat × Nat) × Nat × DWord) := []
  deriving DecidableEq, Repr

/-- The memory side: home memory (one copy of each byte for the L2 slices and HBM) and the lines that the slices hold,
poison by 32-byte sector (R85), MIXCHK records by 16-byte unit as (offset, size) (R111), L1 sectors oldest first,
combining buffers oldest first, replicas accepted by their homes (R82), held translations (R38), tokens and the
sequence last issued by each walker table entry (R140), the walkers that have still to retry (R140), the park records
that walkers write after the cycle in which they issued the token, by tenant function, with the waiters that have
parked in that cycle as COUNT (Table 05-2), Daymark entries. -/
structure MemSide where
  mem      : List Host.Cell
  l2       : List L2Line
  poison   : List Nat
  strong   : List (Nat × Nat × Nat)
  l1       : List L1Sector
  combine  : List CombBuf
  replicas : List Replica
  tlb      : List HeldTrans
  tokens   : List Token
  tokenSeq : List (Nat × Nat × BitVec 22)
  retry    : List Nat
  owed     : List (Nat × FaultRecord)
  daymark  : List DaymarkEntry
  deriving DecidableEq, Repr

/-- The state of the machine. `taken` holds, by collective slot, this device's contributions that the fabric has taken
to the reduction in progress (R297), and `released` the slots whose release has still to abort what was outstanding on
them, with the operation count and %clock of the release (R400). `quads` holds the quadrants by 4 × core + number. `clock` is %clock
(R337), `us` the ticks of 1 µs so far and `tickAt` %clock at
the last (R358). The last five fields are the model's own: `cur` the party whose word a step issues, `agenda` what
happens next, `paces` the cycles that coming steps take (a free value), `stamp` a running count that orders events,
`free` the count of free values drawn. -/
structure State where
  side    : MemSide
  groups  : List Group
  ops     : List Op
  copies  : List Copy
  teams   : List Team
  launches : List Launch
  tiles   : List WeightTile
  poolMap : List ((Nat × Nat) × PoolEntry)
  tfs     : List (Nat × TfBlock)
  queues  : List (Nat × LaunchQueue)
  qps     : List (Nat × QueuePair)
  imports : List (Nat × Import)
  slotTab : List (Nat × SlotEntry)
  aperts  : List (Nat × Aperture)
  links   : List (Nat × Link)
  taken   : List (Nat × List Byte)
  released : List (Nat × Nat × DWord)
  ctl     : Controls
  health  : Health
  quads   : List (Nat × Quadrant)
  lastCtx : Nat
  clock   : DWord
  us      : Nat
  tickAt  : DWord
  out     : List OutMsg
  cur     : PartyRef
  agenda  : List Agenda
  paces   : List Nat
  stamp   : Nat
  free    : Nat
  deriving DecidableEq, Repr

/-! ## Reset -/

/-- A party that has not begun: it waits at its entry header (R172). -/
def Party.start (pc : DWord) : Party :=
  { pc := pc, clause := none, wait := .none, active := false, issued := 0, entered := 0, ready := 0,
    wasReady := false, last := none, stopped := false }

/-- A fragment entry that is not in use (Table 02-9). -/
def Frag.empty : Frag :=
  { v := false, mask := 0, token := 0, j := false, party := Party.start 0 }

/-- A trap record after reset (Table 16-2). -/
def TrapState.reset : TrapState := { hb := false, owner := none, words := List.replicate 8 0, clause := none }

/-- A group at team start (R172), before its identity and geometry are filled in: every vector register in
format 4 (R62), hypervector and bundle registers zero (R314). -/
def Group.reset : Group :=
  { ctx := 0, idx := 0, role := 0, width := 16, budget := 8, frame := 0, frameAt := 0, hvAt := 0, handler := 0xFFFFFFFF,
    main := Party.start 0, mode := 0, fstat := 0, flags := List.replicate 12 0, tokens := 0, joinWait := 0,
    frags := List.replicate 8 Frag.empty, m := List.replicate 16 0, s := List.replicate 32 0, sPoison := [],
    v := List.replicate 128 .zero, vPoison := [], hdim := 4096, bwidth := 8, h := [], b := [], hbPoison := [], sq := [], deferred := [],
    landed := [], ending := false,
    trap := TrapState.reset, ctlOut := false, late := {} }

/-- An accumulator tile at team start (R300). -/
def AccTile.reset : AccTile := { alloc := false, count := 0, elems := [] }

/-- A team that holds nothing; CTXSTAT of a free context reads zero (Table 16-4). -/
def Team.reset : Team :=
  { ctx := 0, launch := 0, core := 0, state := .free, linear := 0, tx := 0, ty := 0, tz := 0, slot := 0,
    nGroups := 0, granules := [], retained := false, accAt := 0, stagingAt := 0, sharedAt := 0, shared := [], leaving := [],
    pool := [], poison := [], acc := [], energy := 0, slotTicks := 0, admitted := 0, since := 0, joined := 0,
    aged := 0, saveStamp := 0, request := none, hard := false, pendingSlices := [], lines := [],
    unfilled := [], late := [], refill := none }

/-- A launch that holds nothing. -/
def Launch.reset : Launch :=
  { id := 0, tf := 0, queue := 0, taken := false, qhead := 0, num := 0, record := 0, bytes := [], consts := [],
    succ := [], next := 0, slots := [], joined := 0, aged := 0, cls := 0, base := 0, energy := 0, killed := none,
    copy := none, reuse := false, refused := none, done := none, starting := none, parked := none, pure := none, stream := none, refusedNodes := [] }

/-- A memory window after reset (Table 01-13). -/
def MemWindow.reset : MemWindow := { base := 0, limit := 0, ro := false, en := false }

/-- A code slot after reset (Table 05-8). -/
def CodeSlot.reset : CodeSlot :=
  { base := 0, refs := 0, err := 0, state := .empty, force := false, object := none, parked := none }

/-- A tenant function after reset (Tables 01-11 to 01-13, 05-1, 05-8, 20-4). -/
def TfBlock.reset : TfBlock :=
  { asid := 0, vr := true, dp := false, en := false, root := 0, windows := List.replicate 16 MemWindow.reset,
    fqBase := 0, fqLog2n := 4, fqErr := false, fqEv := false, fqEn := false, fqProd := 0, fqCons := 0,
    resAddr := 0, invCw := 0, keyHash := List.replicate 4 0, slots := [], ceil := 0, part := 0, evEn := false,
    evQp := 0, dmKey0 := 0, dmKey1 := 0, quota := 0, eDef := 0, eLim := 0, held := [], invs := [], invHeld := [] }

/-- A queue table entry after reset (Table 20-3). -/
def LaunchQueue.reset : LaunchQueue :=
  { qbase := 0, qtail := 0, weight := 1, tf := 0, log2n := 0, cls := 0, err := false, en := false, qhead := 0,
    starts := 0, served := 0, opening := false, parked := none }

/-- A queue pair entry after reset (Table 20-2). -/
def QueuePair.reset : QueuePair :=
  { dqpn := 0, pmtu := 0, lq := 0, tf := 0, port := 0, state := 0, en := false, rpsn := 0, spsn := 0, gid := 0,
    rkey := 0, sent := [] }

/-- An import entry, a slot entry and an aperture entry after reset (Tables 20-6, 01-9). -/
def Import.reset : Import := { base := 0, limit := 0, ro := false, en := false, src := 0 }
def SlotEntry.reset : SlotEntry := { slot := 0, tf := 0, en := false }
def Aperture.reset : Aperture := { dev := 0, ro := false, v := false }

/-- A link before training (R402). -/
def Link.reset : Link := { up := false, txSeq := 0, rxSeq := 0, replay := [], waiting := [], held := [], missing := [] }

/-- The controls after reset (Tables 15-1, 16-4, 20-5). -/
def Controls.reset : Controls :=
  { age := 0x03E8, prewait := 0x0064, quantum := 0x07D0, static := 0x024A0000, weights := List.replicate 9 0,
    timeout := 0x0064, p := 0, pNext := none, pErr := false, ven := false, devid := 0, behind := [] }

/-- The package after reset, before power-up (Table 21-3). -/
def Health.reset : Health :=
  { ready := false, fog := none, clk := 0x1B, danger := false, retiredCores := [], retiredSlices := [], due := [],
    spares := [], cethr := 0x0100, pcap := 0x0960, abusy := false, attAddr := 0, errors := [], overCap := 0,
    headroom := 0, sampleAt := 0, flash := none, torn := false, respAddr := 0, image := [] }

/-- Memory and caches after reset: no byte listed (R403 writes zero to all local HBM), nothing cached. -/
def MemSide.reset : MemSide :=
  { mem := [], l2 := [], poison := [], strong := [], l1 := [], combine := [], replicas := [], tlb := [], tokens := [],
    tokenSeq := [], retry := [], owed := [], daymark := [] }

/-- A quadrant in which nothing has issued. -/
def Quadrant.reset : Quadrant := { scalar := none, other := none, entered := none }

/-- The machine right after reset: READY = 0, no team, every register at its reset value; `%clock` starts
at 0 (R337, R403). -/
def State.reset : State :=
  { side := MemSide.reset, groups := [], ops := [], copies := [], teams := [], launches := [], tiles := [],
    poolMap := [], tfs := [], queues := [], qps := [], imports := [], slotTab := [], aperts := [], links := [], taken := [],
    released := [],
    ctl := Controls.reset, health := Health.reset, quads := [], lastCtx := 0, clock := 0, us := 0, tickAt := 0, out := [],
    cur := { ctx := 0, grp := 0, frag := none }, agenda := [], paces := [], stamp := 0, free := 0 }

end Sys2Proof.Machine
end

