-- ==== Sys2Proof/Machine/Uses.lean ====
section
/-!
DEFINITION. The opcode map (Table 08-2) and the registers that a word names (R211, R63), read off its encoding.
-/

namespace Sys2Proof.Machine

/-! ## Opcodes -/

def opOf (w : Word) : Nat := (w.extractLsb' 25 7).toNat

/-- The class that the opcode map gives an opcode (Table 08-2); none for "any" and for an unassigned opcode. -/
def opClass (op : Nat) : Option Nat :=
  if [0x3E, 0x3F, 0x53, 0x6B].contains op then none
  else if 0x28 ≤ op ∧ op ≤ 0x5B then some 1
  else if 0x5C ≤ op ∧ op ≤ 0x67 then some 2
  else if 0x68 ≤ op ∧ op ≤ 0x6A then some 4
  else if 0x6C ≤ op ∧ op ≤ 0x70 then some 3
  else if 0x71 ≤ op ∧ op ≤ 0x77 then some 5
  else if op = 0x78 ∨ op = 0x79 then some 6
  else none

/-- The words of the scalar pipe (R353). -/
def scalarOp (op : Nat) : Bool := decide (op ≤ 0x25) || (decide (0x7A ≤ op) && decide (op ≤ 0x7C))

/-! ## Registers by what a word does with them -/

/-- Vector sources, destinations that keep lanes, destinations written whole; scalar sources and destinations;
hypervector and bundle sources and destinations. -/
structure Uses where
  v  : List Nat := []
  vd : List Nat := []
  vw : List Nat := []
  s  : List Nat := []
  sd : List Nat := []
  h  : List Nat := []
  hd : List Nat := []
  b  : List Nat := []
  bd : List Nat := []
  deriving DecidableEq, Repr

def Uses.add (x y : Uses) : Uses :=
  { v := x.v ++ y.v, vd := x.vd ++ y.vd, vw := x.vw ++ y.vw, s := x.s ++ y.s, sd := x.sd ++ y.sd, h := x.h ++ y.h
    hd := x.hd ++ y.hd, b := x.b ++ y.b, bd := x.bd ++ y.bd }

/-- What a word reads, and what it writes. -/
def Uses.reads (u : Uses) : RegSet := { v := u.v, s := u.s, h := u.h, b := u.b }
def Uses.writes (u : Uses) : RegSet := { v := u.vd ++ u.vw, s := u.sd, h := u.hd, b := u.bd }

def RegSet.union (x y : RegSet) : RegSet := { v := x.v ++ y.v, s := x.s ++ y.s, h := x.h ++ y.h, b := x.b ++ y.b }

/-- Two sets share a register. -/
def RegSet.meets (x y : RegSet) : Bool :=
  x.v.any y.v.contains || x.s.any y.s.contains || x.h.any y.h.contains || x.b.any y.b.contains

/-- The width in bits of an element of a format code (Table 08-13). -/
def codeWidth (f : Nat) : Nat :=
  if f = 0 ∨ f = 7 then 32 else if f = 1 ∨ f = 2 then 16 else if f = 3 ∨ f = 4 ∨ f = 6 ∨ f = 8 then 8 else 4

/-- A selector's register. -/
def selUses (n : Nat) (vec : Bool) : Uses :=
  if n < 0x80 then (if vec then { v := [n] } else {}) else if 0xC0 ≤ n ∧ n < 0xE0 then { s := [n - 0xC0] } else {}

def usesC (op c : Nat) : Uses :=
  if op = 1 ∨ op = 3 then { s := [c] }
  else if op = 4 then { sd := [31] }
  else if op = 5 then { s := [c], sd := [31] }
  else if op = 6 then { s := [31] }
  else if op = 7 then { s := [c], sd := [c] }
  else {}

/-- Form S words: a and b are selectors, d a scalar unless it names a mask or is not a destination. -/
def usesS (op fn i d a b : Nat) : Uses :=
  let dst : Uses :=
    if op = 0x20 ∨ op = 0x21 ∨ op = 0x24 ∨ (op = 0x22 ∧ fn = 0) ∨ (op = 0x67 ∧ fn = 5) ∨ (op = 0x7B ∧ (fn = 0 ∨ fn = 2)) then {}
    else if op = 0x67 ∧ (fn = 4 ∨ fn = 6) then { s := [d] }
    else if op = 0x17 then { s := [d], sd := [d] }
    else { sd := [d] }
  dst.add ((selUses a false).add (if i = 1 then {} else selUses b false))

/-- Form A words; `w16` in a width-16 group, where VQUANT works on pairs (R262). VCVT into narrower elements and VPACK
keep elements of vd (R260, R261). -/
def usesA (w16 : Bool) (op fn i d a b : Nat) (f : Uses) : Uses :=
  let srcB : Uses := if i = 1 then {} else selUses b true
  if op = 0x3D then { vw := rangeFrom d (b + 1) }
  else if op = 0x38 ∨ op = 0x47 ∨ op = 0x5A then Uses.add { v := [a] } srcB
  else if op = 0x57 ∧ fn = 1 then { v := [a], sd := [d % 32] }
  else if op = 0x58 then (if fn = 1 then { v := [a], sd := [d % 32, d % 32 + 1] } else { v := [a], vd := [d, d + 1] })
  else if op = 0x5B ∧ fn = 0 then Uses.add { v := [a], sd := [d % 32] } srcB
  else if op = 0x5B then Uses.add { v := [d], vd := [d], s := [a % 32] } srcB
  else if op = 0x3A then Uses.add { vd := [d] } srcB
  else if op = 0x2C ∨ op = 0x43 ∨ op = 0x39 ∨ (op = 0x37 ∧ fn = 2) then Uses.add { v := [a], vd := [d] } (srcB.add f)
  else if op = 0x3C then Uses.add { v := [d, a] } srcB
  else if op = 0x4F ∨ (op = 0x4E ∧ codeWidth (b / 16) < codeWidth (b % 16)) then { v := [d, a], vd := [d] }
  else if op = 0x51 ∧ w16 then { v := [a, a + 1], vd := [d, d + 1] }
  else Uses.add { v := [a], vd := [d] } srcB

/-- Form M words; `wide` for size 3 of 16 bytes. -/
def usesM (op fn d o b : Nat) (wide : Bool) : Uses :=
  let run := rangeFrom d (if fn = 3 then (if wide then 4 else 2) else 1)
  if op = 0x5E then { s := [b], sd := [d % 32] }
  else if op = 0x5F then { s := [b, d % 32] }
  else if op = 0x66 then (if field d 5 2 = 0 then {} else { v := [o], s := [b] })
  else if op = 0x5D ∨ op = 0x61 then { v := o :: run, s := [b] }
  else if op = 0x63 ∨ op = 0x65 then { v := o :: rangeFrom d (fn % 2 + 1), vd := rangeFrom d (fn % 2 + 1), s := [b] }
  else if op = 0x64 then { v := o :: rangeFrom d (2 * 2 ^ fn), vd := rangeFrom (d + 2 * 2 ^ fn) (2 ^ fn), s := [b] }
  else { v := [o], vd := run, s := [b] }

/-- Hypervector words (0x71 to 0x77). -/
def usesH (op fn d a b : Nat) : Uses :=
  let h (n : Nat) : List Nat := [n % 16]
  match op with
  | 0x71 => if fn = 0 then { s := [a % 32], hd := h d } else { s := [a % 32], h := h d }
  | 0x72 =>
    { hd := h d
      h := h a ++ (if fn = 0 then h b else if fn = 1 then h b ++ h (b / 16) else [])
      s := if fn = 2 then [b % 32] else [] }
  | 0x73 =>
    if fn = 2 then { hd := h d, b := [a % 4], h := if b < 16 then h b else [] }
    else if fn = 3 then { bd := [d % 4] }
    else { b := [d % 4], bd := [d % 4], h := h a }
  | 0x74 => { sd := [d % 32], h := h a ++ (if fn = 0 then h b else []) }
  | 0x75 => { s := [b % 32, b % 32 + 1], sd := [d % 32, d % 32 + 1], h := h a }
  | 0x76 => Uses.add { hd := h d } (selUses b false)
  | _ => if fn = 0 then Uses.add { vd := [d], h := h a } (selUses b true) else Uses.add { v := [a], h := h d, hd := h d } (selUses b true)

/-- Engine and task words of Form X. -/
def usesX (op fn d a b : Nat) : Uses :=
  let s (n : Nat) : List Nat := [n % 32]
  if op = 0x68 ∨ op = 0x6C then Uses.add { s := s d } (selUses b false)
  else if op = 0x69 then Uses.add { s := s d, sd := if fn = 1 then s a else [] } (selUses b false)
  else if op = 0x6A ∨ op = 0x79 then { s := s d }
  else if op = 0x6D then { v := rangeFrom a (16 + b % 2) }
  else if op = 0x6E then (if fn = 0 then { vd := rangeFrom d 16, sd := s b } else { v := rangeFrom d 16 })
  else if op = 0x6F ∧ fn = 1 then { vd := rangeFrom d (codeWidth (b % 16) / 2) }
  else if 0x71 ≤ op ∧ op ≤ 0x77 then usesH op fn d a b
  else if op = 0x78 ∧ fn = 0 then { s := s d ++ s a }
  else {}

/-- What a word names, under its prefix, in a group of width 16 or wider. -/
def usesOf (w16 : Bool) (w : Word) (pre : Option Prefix) : Uses :=
  let n := w.toNat
  let op := opOf w
  let i := field n 24 1
  let fourth : Uses := match pre with
    | some p => selUses p.fourth.toNat true
    | none => { v := [field n 15 7] }
  let wide := match pre with
    | some p => p.fourth.getLsbD 2
    | none => false
  if op < 0x10 then usesC op (field n 21 4)
  else if op ≤ 0x25 ∨ op = 0x67 ∨ (0x7A ≤ op ∧ op ≤ 0x7C) then usesS op (field n 21 3) i (field n 16 5) (field n 8 8) (field n 0 8)
  else if op ≤ 0x5B then usesA w16 op (field n 22 2) i (field n 15 7) (field n 8 7) (field n 0 8) fourth
  else if op ≤ 0x66 then usesM op (field n 22 2) (field n 15 7) (field n 8 7) (field n 3 5) wide
  else usesX op (field n 22 2) (field n 15 7) (field n 8 7) (field n 0 8)

/-- The registers beside those that they name that VRDX reads and VWRX writes: any below the budget. -/
def Group.indirect (g : Group) (w : Word) : List Nat :=
  if opOf w = 0x3B ∨ opOf w = 0x3C then upTo g.budget else []

/-- What a word of a group names. VRDX reads, and VWRX reads in part and writes, every register of the budget (R254). -/
def Group.uses (g : Group) (w : Word) (pre : Option Prefix) : Uses :=
  (usesOf (g.width == 16) w pre).add { v := g.indirect w, vd := if opOf w = 0x3C then g.indirect w else [] }

/-- The registers that the operation of a word has still to write, and those that it has still to read: an array and the
hypervector unit read them while they run (R308, R316), the others at issue (R114). -/
def opRegs (w : Word) (u : Uses) : RegSet × RegSet :=
  let op := opOf w
  (u.writes, if op = 0x6D ∨ (0x72 ≤ op ∧ op ≤ 0x77 ∧ op ≠ 0x75) then u.reads else {})

/-! ## The current word of a clause (R209) -/

/-- The word at the index. -/
def Clause.curWord (c : Clause) : Word := c.words.getD (c.idx - 1) 0

/-- The current word of a party, or zero between clauses. -/
def Party.word (p : Party) : Word :=
  match p.clause with
  | some c => c.curWord
  | none => 0

def Party.pre (p : Party) : Option Prefix :=
  match p.clause with
  | some c => c.pre
  | none => none

/-- The words that may follow a prefix: those of opcodes 0x28 to 0x65 (R218). -/
def prefixable (c : Clause) : Bool :=
  decide (c.idx < (c.hdr.extractLsb' 28 4).toNat) && decide (0x28 ≤ opOf (c.words.getD c.idx 0)) && decide (opOf (c.words.getD c.idx 0) ≤ 0x65)

/-- A prefix word's fields (Table 08-5, Form P). -/
def Prefix.ofWord (w : Word) : Prefix :=
  { sel := w.extractLsb' 21 4, zero := w.extractLsb' 20 1, rnd := w.extractLsb' 17 3, fourth := w.extractLsb' 9 8,
    kind := w.extractLsb' 6 3, amount := w.extractLsb' 0 6 }

/-- The clause at the word that issues next: a prefix issues with the word after it (R209, R218). -/
def Clause.ahead (c : Clause) : Clause :=
  if opOf c.curWord = 0x7F ∧ prefixable c then { c with idx := c.idx + 1, pre := some (Prefix.ofWord c.curWord) } else c

end Sys2Proof.Machine
end

