-- ==== Sys2Proof/Machine/Lookup.lean ====
section
/-!
DEFINITION. Reading and changing one group, party, team, launch, tenant function or operation of the state.
A read of one that does not exist gives the reset value; a change of one that does not exist changes nothing.
-/

namespace Sys2Proof.Machine

/-! ## Groups and parties -/

def State.groupAt (s : State) (ctx grp : Nat) : Group :=
  (s.groups.find? fun g => g.ctx == ctx && g.idx == grp).getD { Group.reset with ctx := ctx, idx := grp }

def State.hasGroup (s : State) (ctx grp : Nat) : Bool := s.groups.any fun g => g.ctx == ctx && g.idx == grp

def State.mapGroup (s : State) (ctx grp : Nat) (f : Group → Group) : State :=
  { s with groups := s.groups.map fun g => if g.ctx = ctx ∧ g.idx = grp then f g else g }

/-- The group of the party whose word issues. -/
def State.curGroup (s : State) : Group := s.groupAt s.cur.ctx s.cur.grp

def State.mapCur (s : State) (f : Group → Group) : State := s.mapGroup s.cur.ctx s.cur.grp f

/-- The fragment entry with a number. -/
def Group.fragAt (g : Group) (e : Nat) : Frag := g.frags.getD e Frag.empty

/-- A party of a group: the main side, or a fragment's (R177). -/
def Group.party (g : Group) (who : Option Nat) : Party :=
  match who with
  | none => g.main
  | some e => (g.fragAt e).party

def Group.mapParty (g : Group) (who : Option Nat) (f : Party → Party) : Group :=
  match who with
  | none => { g with main := f g.main }
  | some e => { g with frags := modifyAt g.frags e fun r => { r with party := f r.party } }

/-- A party's own mask: m0 for the main side, MASK of its entry for a fragment (R177, R233). -/
def Group.mask (g : Group) (who : Option Nat) : DWord :=
  match who with
  | none => g.m.getD 0 0
  | some e => (g.fragAt e).mask

def Group.setMask (g : Group) (who : Option Nat) (v : DWord) : Group :=
  match who with
  | none => { g with m := g.m.set 0 v }
  | some e => { g with frags := modifyAt g.frags e fun r => { r with mask := v } }

/-- A party that has not retired. The main side is retired when its wait says so (R179). -/
def Group.live (g : Group) (who : Option Nat) : Bool :=
  match who with
  | none => decide (g.main.wait ≠ .exited)
  | some e => (g.fragAt e).v

/-- The live parties of a group, main side first. -/
def Group.parties (g : Group) : List (Option Nat) :=
  (none :: (upTo 8).map some).filter g.live

def State.curParty (s : State) : Party := s.curGroup.party s.cur.frag

def State.mapPartyOf (s : State) (p : PartyRef) (f : Party → Party) : State :=
  s.mapGroup p.ctx p.grp fun g => g.mapParty p.frag f

def State.mapCurParty (s : State) (f : Party → Party) : State := s.mapPartyOf s.cur f

def State.partyOf (s : State) (p : PartyRef) : Party := (s.groupAt p.ctx p.grp).party p.frag

/-- What another party's word does: `f` with that party as the issuing one. -/
def State.withCur (s : State) (p : PartyRef) (f : State → State) : State := { f { s with cur := p } with cur := s.cur }

/-- Every live party of every group, in the order of the groups. -/
def State.allParties (s : State) : List PartyRef :=
  s.groups.flatMap fun g => g.parties.map fun w => { ctx := g.ctx, grp := g.idx, frag := w }

/-! ## Teams and launches -/

def State.teamAt (s : State) (ctx : Nat) : Team :=
  (s.teams.find? fun t => t.ctx == ctx).getD { Team.reset with ctx := ctx }

def State.mapTeam (s : State) (ctx : Nat) (f : Team → Team) : State :=
  { s with teams := s.teams.map fun t => if t.ctx = ctx then f t else t }

def State.launchAt (s : State) (id : Nat) : Launch :=
  (s.launches.find? fun l => l.id == id).getD { Launch.reset with id := id }

def State.mapLaunch (s : State) (id : Nat) (f : Launch → Launch) : State :=
  { s with launches := s.launches.map fun l => if l.id = id then f l else l }

/-- The launch that a context belongs to. -/
def State.launchOf (s : State) (ctx : Nat) : Launch := s.launchAt (s.teamAt ctx).launch

/-- The core a context is on (R47). -/
def State.coreOf (s : State) (ctx : Nat) : Nat := (s.teamAt ctx).core

/-- The tenant function a context belongs to. -/
def State.tfOf (s : State) (ctx : Nat) : Nat := (s.launchOf ctx).tf.toNat

def State.tf (s : State) (t : Nat) : TfBlock := look s.tfs t TfBlock.reset

def State.mapTf (s : State) (t : Nat) (f : TfBlock → TfBlock) : State :=
  { s with tfs := put s.tfs t (f (s.tf t)) }

def State.queueAt (s : State) (q : Nat) : LaunchQueue := look s.queues q LaunchQueue.reset

def State.mapQueue (s : State) (q : Nat) (f : LaunchQueue → LaunchQueue) : State :=
  { s with queues := put s.queues q (f (s.queueAt q)) }

def State.qpAt (s : State) (n : Nat) : QueuePair := look s.qps n QueuePair.reset

def State.mapQp (s : State) (n : Nat) (f : QueuePair → QueuePair) : State :=
  { s with qps := put s.qps n (f (s.qpAt n)) }

def State.linkAt (s : State) (port : Nat) : Link := look s.links port Link.reset

def State.mapLink (s : State) (port : Nat) (f : Link → Link) : State :=
  { s with links := put s.links port (f (s.linkAt port)) }

/-- A code slot of a tenant function. -/
def TfBlock.slot (b : TfBlock) (n : Nat) : CodeSlot := look b.slots n CodeSlot.reset

def TfBlock.mapSlot (b : TfBlock) (n : Nat) (f : CodeSlot → CodeSlot) : TfBlock :=
  { b with slots := put b.slots n (f (b.slot n)) }

/-- Contexts that hold a core now: resident or stopping, or resuming there after a migration (Table 16-4). -/
def Team.resident (t : Team) : Bool := t.state == .resident || t.state == .stopping || t.state == .migrating

def State.residentOn (s : State) (core : Nat) : List Team :=
  s.teams.filter fun t => t.core == core && t.resident

/-! ## Fields of a launch record (Table 06-1) -/

def Launch.num8 (l : Launch) (off n : Nat) : Nat := ofLe ((l.bytes.drop off).take n)

def Launch.kind (l : Launch) : Nat := l.num8 0 1
def Launch.codeSlot (l : Launch) : Nat := l.num8 1 1 % 128
def Launch.lflags (l : Launch) : Nat := l.num8 2 2
def Launch.cosched (l : Launch) : Bool := bitAt l.lflags 0
def Launch.isPure (l : Launch) : Bool := bitAt l.lflags 1
def Launch.pv (l : Launch) : Bool := bitAt l.lflags 2
def Launch.mixchk (l : Launch) : Bool := bitAt l.lflags 3
def Launch.evt (l : Launch) : Bool := bitAt l.lflags 4
def Launch.graph (l : Launch) : Bool := bitAt l.lflags 5
def Launch.prio (l : Launch) : Nat := l.num8 4 1
def Launch.nRoles (l : Launch) : Nat := l.num8 5 1
def Launch.nAcc (l : Launch) : Nat := l.num8 6 1
def Launch.nArgs (l : Launch) : Nat := l.num8 7 1
def Launch.gridX (l : Launch) : Nat := l.num8 8 4
def Launch.gridY (l : Launch) : Nat := l.num8 0xC 2
def Launch.gridZ (l : Launch) : Nat := l.num8 0xE 2
def Launch.roleEntry (l : Launch) (r : Nat) : Nat := l.num8 (0x10 + 4 * r) 4
def Launch.stage (l : Launch) : Nat := l.num8 0x20 2
def Launch.shInit (l : Launch) : Nat := l.num8 0x22 2
def Launch.shMax (l : Launch) : Nat := l.num8 0x24 2
def Launch.constLen (l : Launch) : Nat := l.num8 0x26 2
def Launch.stall (l : Launch) : Nat := l.num8 0x28 4
def Launch.tSlots (l : Launch) : Nat := l.num8 0x2C 4
def Launch.constVa (l : Launch) : Nat := l.num8 0x30 8
def Launch.frameVa (l : Launch) : Nat := l.num8 0x38 8
def Launch.saveVa (l : Launch) : Nat := l.num8 0x40 8
def Launch.seed (l : Launch) : DWord := BitVec.ofNat 64 (l.num8 0x48 8)
def Launch.energyField (l : Launch) : Nat := l.num8 0x50 6
def Launch.compl (l : Launch) : Nat := l.num8 0x58 8
def Launch.preds (l : Launch) : Nat := l.num8 0x60 2
/-- Successors and an input queue belong to a node of a beacon graph alone (R324, R329). -/
def Launch.nSucc (l : Launch) : Nat := if l.graph then l.num8 0x62 2 else 0
def Launch.succVa (l : Launch) : Nat := l.num8 0x68 8
def Launch.inq (l : Launch) : Nat := if l.graph then l.num8 0x70 8 else 0
def Launch.tile (l : Launch) (i : Nat) : List Byte := (l.bytes.drop (0xC0 + 32 * i)).take 32

/-- The byte ranges of a tile descriptor (Table 06-3): (start, length) of each row. -/
def tileRows (d : List Byte) : List (DWord × Nat) :=
  let base := ofLe (d.take 8)
  let rb := ofLe ((d.drop 8).take 4)
  let rows := ofLe ((d.drop 12).take 4)
  let stride := ofLe ((d.drop 16).take 8)
  if rb = 0 then [] else (upTo rows).map fun r => (BitVec.ofNat 64 (base + r * stride), rb)

/-- Whether a byte lies in a tile. -/
def inTile (d : List Byte) (a : DWord) : Bool := (tileRows d).any fun (b, n) => decide ((a - b).toNat < n)

/-- The address of a page number va[56:12]. -/
def pageVa (page : Nat) : DWord := (BitVec.ofNat 57 (4096 * page)).signExtend 64

def Launch.teamCount (l : Launch) : Nat := l.gridX * l.gridY * l.gridZ

/-- Role r: table index, group count and budget field (Table 06-2). -/
def Launch.ridx (l : Launch) (r : Nat) : Nat := field (l.roleEntry r) 0 6
def Launch.roleGroups (l : Launch) (r : Nat) : Nat := field (l.roleEntry r) 8 8
def Launch.vbudget (l : Launch) (r : Nat) : Nat := field (l.roleEntry r) 16 8
def Launch.groupCount (l : Launch) : Nat := ((upTo l.nRoles).map l.roleGroups).sum

/-- Another launch of the tenant function that holds the same %launch runs: a later one starts only when it has
completed (R328). -/
def State.delayed (s : State) (l : Launch) : Bool :=
  s.launches.any fun k => decide (k.id < l.id) && k.tf == l.tf && k.num == l.num && k.done.isNone && k.refused.isNone

/-! ## Operations in flight -/

def State.opAt (s : State) (id : Nat) : Option Op := s.ops.find? fun o => o.id == id

def State.removeOp (s : State) (id : Nat) : State := { s with ops := s.ops.filter fun o => o.id != id }

def State.mapOp (s : State) (id : Nat) (f : Op → Op) : State :=
  { s with ops := s.ops.map fun o => if o.id = id then f o else o }

/-- The weight of an energy class (Table 15-1). -/
def State.weight (s : State) (cls : Nat) : Nat := (s.ctl.weights.getD cls 0).toNat

/-- A quadrant of a core. -/
def State.quadAt (s : State) (core quad : Nat) : Quadrant := look s.quads (4 * core + quad) Quadrant.reset

def State.mapQuad (s : State) (core quad : Nat) (f : Quadrant → Quadrant) : State :=
  { s with quads := put s.quads (4 * core + quad) (f (s.quadAt core quad)) }

/-- A new operation of a group at the end of the list; its number is the running count. -/
def State.addOp (s : State) (ctx grp : Nat) (flag : Option Nat) (k : OpKind) (regs : RegSet × RegSet) : State :=
  let g := s.groupAt ctx grp
  { s with
    ops := s.ops ++ [{ id := s.stamp, ctx := ctx, grp := grp, flag := flag, kind := k, parked := none, core := s.coreOf ctx
                       lanes := g.width, dim := g.hdim, dst := regs.1, src := regs.2, weight := s.weight 7 }]
    stamp := s.stamp + 1 }

def State.emit (s : State) (m : OutMsg) : State := { s with out := s.out ++ [m] }

/-- A fresh free number, and the state with the count advanced. -/
def State.draw (s : State) : Nat × State := (s.free, { s with free := s.free + 1 })

def State.mapSide (s : State) (f : MemSide → MemSide) : State := { s with side := f s.side }

/-- Whether the Keeper has asked a team to stop (R365). -/
def State.stopping (s : State) (ctx : Nat) : Bool := (s.teamAt ctx).state == .stopping

/-- The context's team as a writer (R344, R402). -/
def State.writer (s : State) (ctx : Nat) : Writer :=
  { tf := s.tfOf ctx, launch := some (s.teamAt ctx).launch, ctx := some ctx }

/-- The Keeper and the fabric's host as writers for a tenant function (R147). -/
def tfWriter (t : Nat) : Writer := { tf := t, launch := none, ctx := none }

/-! ## The pool map (R47 to R49) -/

def State.poolEntry (s : State) (core phys : Nat) : Option PoolEntry :=
  (s.poolMap.find? fun e => e.1 == (core, phys)).map (·.2)

/-- The granules that a core's L1 holds, lowest first. -/
def State.l1Granules (s : State) (core : Nat) : List Nat :=
  (upTo 256).filter fun p => (s.poolEntry core p).isNone

/-! ## Partitions (R31, R32) -/

/-- The number of hard partitions (Table 20-5). -/
def State.parts (s : State) : Nat := 2 ^ s.ctl.p.toNat

/-- The bytes of local HBM of one partition (R31). -/
def State.partBytes (s : State) : Nat := Config.hbmBytes / s.parts

/-- A physical address of local HBM inside a partition's range (R31). -/
def State.inPart (s : State) (part pa : Nat) : Bool :=
  decide (pa < Config.hbmBytes) && decide (pa / s.partBytes = part)

/-- The partition that a core belongs to (R32). -/
def State.partOfCore (s : State) (core : Nat) : Nat :=
  if s.parts = 1 then 0 else if s.parts = 2 then Config.dieOf core else 2 * Config.dieOf core + Config.sectorOf core % 8 / 4

/-- The lowest sector of a partition on its lead Keeper's die, as die × 8 + sector (R32, R140). -/
def State.leadSector (s : State) (part : Nat) : Nat :=
  if s.parts = 1 then 0 else if s.parts = 2 then 8 * part else 4 * part

end Sys2Proof.Machine
end

