-- ==== Sys2Proof/Machine/Varla.lean ====
section
/-!
DEFINITION. The sending side of a Varla link (R401, R402): flits, the replay buffer, and messages to peers.
-/

namespace Sys2Proof.Machine

/-- The KIND codes of a flit (R401). -/
def flitIdle : Nat := 0
def flitData : Nat := 1
def flitAck : Nat := 2
def flitReplay : Nat := 3

/-- A flit of 64 bytes: SEQ and KIND, 58 bytes of payload, and the CRC-32C of the 60 bytes before it. -/
def makeFlit (kind : Nat) (seq : Nat) (payload : List Byte) : List Byte :=
  let body := leBytes 2 (seq % 4096 + kind * 4096) ++ payload.take 58 ++ List.replicate (58 - payload.length) 0
  body ++ leBytes 4 (crc32c body).toNat

/-- An acknowledgement or a replay request names a sequence number in bytes 2 and 3. -/
def controlFlit (kind : Nat) (seq : BitVec 12) : List Byte := makeFlit kind 0 (leBytes 2 seq.toNat)

/-- A payload leaves as the next data flit, and is kept for replay (R402). -/
def State.sendNow (s : State) (port : Nat) (payload : List Byte) (own : List Writer) : State :=
  let l := s.linkAt port
  let bytes := makeFlit flitData l.txSeq.toNat payload
  (s.mapLink port fun l =>
    { l with txSeq := l.txSeq + 1, replay := l.replay ++ [{ seq := l.txSeq, bytes := bytes, own := own }] }).emit
    (.flit port bytes)

/-- Whether a link takes a further data flit: it is trained, carries traffic, and holds fewer than 512 (R402). -/
def State.linkReady (s : State) (port : Nat) : Bool :=
  s.ctl.ven && (s.linkAt port).up && decide ((s.linkAt port).replay.length < 512)

/-- Payloads that wait for the replay buffer leave, in order, while there is room; `n` bounds them. -/
def State.pumpLink (s : State) (port : Nat) : Nat → State
  | 0 => s
  | n + 1 =>
    match (s.linkAt port).waiting with
    | [] => s
    | (payload, own) :: rest =>
      if s.linkReady port then
        State.pumpLink ((s.mapLink port fun l => { l with waiting := rest }).sendNow port payload own) port n
      else s

/-- The first address that a store or an atomic which returns nothing reaches through an aperture, until the peer has
acknowledged it (R29). -/
def Op.peer (o : Op) : Option DWord :=
  match o.kind with
  | .store p _ => p
  | .posted va | .peerAtomic va | .refused va _ => some va
  | _ => none

/-- The ACC bits of a record for such an access (Table 05-2). -/
def Op.peerAcc (o : Op) : Byte :=
  match o.kind with
  | .peerAtomic _ => 0x0B
  | .refused _ acc => acc
  | _ => 0x02

/-- Accesses of these writers cannot be sent: their peers will never acknowledge them. -/
def State.refusePeers (s : State) (own : List Writer) : State :=
  { s with
    ops := s.ops.map fun o =>
      match o.peer with
      | some va => if own.any fun w => w.ctx == some o.ctx then { o with kind := .refused va o.peerAcc } else o
      | none => o }

/-- A message to a peer leaves while VEN = 1 (R398). Which port and which payload carry it is not given. -/
def State.toPeer (s : State) (m : OutMsg) (own : List Writer) : State :=
  if s.ctl.ven then
    let (n, s) := (s.emit m).draw
    let port := Config.choice n % 24
    let s := s.mapLink port fun l => { l with waiting := l.waiting ++ [((upTo 58).map (Config.flitByte n), own)] }
    s.pumpLink port (s.linkAt port).waiting.length
  else s.refusePeers own

end Sys2Proof.Machine
end

