-- ==== Sys2Proof/Machine/Home.lean ====
section
/-!
DEFINITION. Home memory and what stands before it: the RESUME word (R144), Daymark watches (R89, R90), poison
(R85), the L1 (R75 to R77), combining buffers (R78), store queues (R97) and the cache actions of releases and
acquires (R107).
-/

namespace Sys2Proof.Machine

/-! ## Waking what waits on a token (R144) -/

/-- The 32-bit value of a token (R140). -/
def Token.value (t : Token) : Word := BitVec.ofNat 32 (t.sector * 2 ^ 28 + t.entry * 2 ^ 22 + t.seq.toNat)

/-- A party that waits no longer is ready from now on. -/
def State.readyParty (s : State) (p : Party) : Party := { p with wait := .none, ready := s.clock.toNat }

/-- Every waiter with a park: it retries where `f` answers none, and waits on otherwise. -/
def State.mapParks (s : State) (f : Park → Option Park) : State :=
  let wake (pt : Party) : Party :=
    match pt.wait with
    | .parked k => match f k with
      | some k => { pt with wait := .parked k }
      | none => s.readyParty pt
    | _ => pt
  let unpark (o : Option Park) : Option Park := o.bind f
  { s with
    groups := s.groups.map fun g => { g with main := wake g.main, frags := g.frags.map fun f => { f with party := wake f.party } }
    ops := s.ops.map fun o => { o with parked := unpark o.parked }
    copies := s.copies.map fun c => { c with parked := unpark c.parked }
    teams := s.teams.map fun t => { t with refill := unpark t.refill }
    launches := s.launches.map fun l => { l with parked := unpark l.parked }
    tfs := s.tfs.map fun (t, b) =>
      (t, { b with slots := b.slots.map fun (n, c) => (n, { c with parked := unpark c.parked }) })
    queues := s.queues.map fun (n, x) => (n, { x with parked := unpark x.parked })
    poolMap := s.poolMap.map fun (k, e) => (k, { e with parked := unpark e.parked }) }

/-- Every waiter whose park `q` chooses retries. -/
def State.wakeParks (s : State) (q : Park → Bool) : State := s.mapParks fun k => if q k then none else some k

/-- A write of `v` to the RESUME word of tenant function `t` (R144): the tokens that it frees, and their waiters. The
value 0xFFFFFFFF wakes those without a token (token 0) too. Walkers whose entries are free retry for the waiters that
have none (R140). -/
def State.resume (s : State) (t : Nat) (v : Word) : State :=
  let asid := (s.tf t).asid
  let freed := s.side.tokens.filter fun k => k.asid == asid && (v == 0xFFFFFFFF || k.value == v)
  let s := s.mapSide fun m =>
    { m with tokens := m.tokens.filter fun k => !freed.contains k, retry := dedup (m.retry ++ freed.map (·.sector)) }
  s.wakeParks fun k => (freed.any fun f => f.value == k.token) || (v == 0xFFFFFFFF && (s.tf k.tf).asid == asid)

/-- A masked write is delivered to every tenant function whose RESUME word it touches. The spec speaks of the value
written; of a write that touches only some bytes of the word, the low 32 bits as they stand after it are delivered
(DESIGN CHOICE, log 126). -/
def State.deliver (s : State) (pa : Nat) (bs : List (Option Byte)) : State :=
  s.tfs.foldl (fun s t =>
    let a := 8 * t.2.resAddr.toNat
    if (bs.zip (rangeFrom pa bs.length)).any fun (b, x) => b.isSome && decide (a ≤ x) && decide (x < a + 8) then
      s.resume t.1 (BitVec.ofNat 32 (Memory.readLe s.side.mem a 4))
    else s) s

/-! ## Home slices (R73, R74) -/

/-- The line, sector and frame of a physical address (R70, R89). -/
def lineOf (pa : Nat) : Nat := pa / 256
def sectorNo (pa : Nat) : Nat := pa / 32
def frameNo (pa : Nat) : Nat := pa / 4096

/-- The exclusive or of the chunks of `w` bits of a number; `n` bounds them. -/
def foldChunks (w : Nat) : Nat → Nat → Nat
  | 0, _ => 0
  | n + 1, g => g % 2 ^ w ^^^ foldChunks w n (g / 2 ^ w)

/-- The home stack of an address of local HBM (R73). -/
def State.homeStack (s : State) (pa : Nat) : Nat :=
  let k := 3 - s.ctl.p.toNat
  let i := pa / s.partBytes
  let o := pa % s.partBytes
  2 ^ k * i + ((field o 12 k ^^^ field o 20 k) ^^^ field o 28 k)

/-- The global number of a line's home slice (R74). -/
def State.homeSlice (s : State) (line : Nat) : Nat :=
  let pa := 256 * line
  let die := s.homeStack pa / 4
  let d :=
    if s.parts = 4 then 192 * (pa / s.partBytes % 2) + 64 * (line % 3) + foldChunks 6 8 line
    else 128 * (line % 3) + foldChunks 7 7 line
  384 * die + d

/-- The slice that holds the lines of a slice number: its partner's once it is retired (R74). -/
def State.hostSlice (s : State) (slice : Nat) : Nat :=
  if s.health.retiredSlices.contains slice then slice ^^^ 1 else slice

/-! ## The lines that the slices hold (R70, R77, R79) -/

/-- The sectors of a line that a byte run touches, as a mask. -/
def sectorMask (line pa n : Nat) : BitVec 8 :=
  (upTo 8).foldl (fun m i =>
    if 256 * line + 32 * i < pa + n ∧ pa < 256 * line + 32 * i + 32 then m ||| BitVec.ofNat 8 (2 ^ i) else m) 0

/-- The lines that a byte run touches. -/
def linesOf (pa n : Nat) : List Nat := (upTo ((pa % 256 + n + 255) / 256)).map fun i => lineOf pa + i

/-- The sectors that a byte run touches. -/
def sectorsOf (pa n : Nat) : List Nat := (upTo ((pa % 32 + n + 31) / 32)).map fun i => sectorNo pa + i

def State.l2Holds (s : State) (line : Nat) : Bool := s.side.l2.any fun x => x.line == line

/-- A slice evicts a line, or drops it for CCTL: its replicas are invalidated first (R83), and the MIXCHK records of its
units are lost (R111). Its dirty sectors go to HBM. -/
def State.l2Drop (s : State) (line : Nat) : State :=
  s.mapSide fun m =>
    { m with
      l2 := m.l2.filter fun x => x.line != line
      replicas := m.replicas.filter fun r => r.line != line
      strong := m.strong.filter fun r => r.1 / 16 != line }

/-- The slice of a replica (R81). -/
def Replica.slice (r : Replica) : Nat := 48 * r.area + r.pos

/-- A replica slice drops a replica, without telling the home (R83). -/
def State.dropReplica (s : State) (area line : Nat) : State :=
  s.mapSide fun m => { m with replicas := m.replicas.filter fun r => !(r.area == area && r.line == line) }

/-- The ways that a slice has for lines and replicas: 15, or 14 when it hosts its partner's lines (R86, R88). -/
def State.l2Ways (s : State) (slice : Nat) : Nat := if s.health.retiredSlices.contains (slice ^^^ 1) then 14 else 15

/-- With more than `keep` lines and replicas in the set of a line in a slice, the least recently used one of the lowest
priority leaves (R79); the oldest replica before a line of its priority. -/
def State.l2Trim (s : State) (slice line keep : Nat) : State :=
  if s.side.l2.length + s.side.replicas.length ≤ keep then s
  else
    let set := Config.l2Set line % 64
    let xs := s.side.l2.filter fun x => Config.l2Set x.line % 64 == set && s.hostSlice (s.homeSlice x.line) == slice
    let rs := s.side.replicas.filter fun r => Config.l2Set r.line % 64 == set && s.hostSlice r.slice == slice
    if xs.length + rs.length ≤ keep then s
    else match leastBy (·.prio) xs, leastBy (·.prio) rs with
      | some x, some r => if r.prio ≤ x.prio then s.dropReplica r.area r.line else s.l2Drop x.line
      | some x, none => s.l2Drop x.line
      | none, some r => s.dropReplica r.area r.line
      | none, none => s

/-- A way of a slice for a line that it does not hold. -/
def State.l2Room (s : State) (slice line : Nat) : State := s.l2Trim slice line (s.l2Ways slice - 1)

/-- A slice keeps no more than its ways hold, as when its partner is retired and it gives up way 14 (R88). -/
def State.l2Shrink (s : State) (slice : Nat) : State :=
  let lines := (s.side.l2.map (·.line) ++ s.side.replicas.map (·.line))
  lines.foldl (fun s k => s.l2Trim slice k (s.l2Ways slice)) s

/-- One line is used: a held one becomes the most recent and takes the higher priority; another is allocated where
`alloc` gives a priority. -/
def State.l2Touch (s : State) (pa n : Nat) (write : Bool) (alloc : Option Nat) (line : Nat) : State :=
  let mask := sectorMask line pa n
  let used (x : L2Line) : L2Line :=
    { x with
      valid := x.valid ||| mask, dirty := if write then x.dirty ||| mask else x.dirty
      prio := max x.prio (alloc.getD 0) }
  match s.side.l2.find? fun x => x.line == line with
  | some x => s.mapSide fun m => { m with l2 := (m.l2.filter fun y => y.line != line) ++ [used x] }
  | none =>
    match alloc with
    | some p =>
      (s.l2Room (s.hostSlice (s.homeSlice line)) line).mapSide fun m =>
        { m with l2 := m.l2 ++ [used { line := line, valid := 0, dirty := 0, prio := p }] }
    | none => s

/-- An access to local HBM at its home slices. -/
def State.l2Use (s : State) (pa n : Nat) (write : Bool) (alloc : Option Nat) : State :=
  if pa < Config.hbmBytes then (linesOf pa n).foldl (fun s k => s.l2Touch pa n write alloc k) s else s

/-- Table 03-3: the priority at which an access through a page allocates at the home slice; none under CL = 0b11. -/
def allocOf (cl : BitVec 2) (prio : Nat) : Option Nat := if cl = 3 then none else if cl = 2 then some 0 else some prio

/-- Maximal runs of present bytes with their offsets. -/
def runsOf : Nat → List (Option Byte) → List (Nat × List Byte)
  | _, [] => []
  | i, none :: t => runsOf (i + 1) t
  | i, some b :: t =>
    match runsOf (i + 1) t with
    | (j, bs) :: r => if j = i + 1 then (i, b :: bs) :: r else (i, [b]) :: (j, bs) :: r
    | [] => [(i, [b])]

/-- A masked write at its home slices: only the sectors that it writes are dirty (R70). -/
def State.l2Write (s : State) (pa : Nat) (bs : List (Option Byte)) (alloc : Option Nat) : State :=
  (runsOf 0 bs).foldl (fun s (i, data) => s.l2Use (pa + i) data.length true alloc) s

/-! ## Reads and writes at the home slices -/

/-- The sectors that a byte run covers whole. -/
def wholeSectors (pa : Nat) (bs : List (Option Byte)) : List Nat :=
  ((upTo (bs.length / 32 + 2)).map fun i => sectorNo pa + i).filter fun k =>
    decide (pa ≤ 32 * k) && decide (32 * k + 32 ≤ pa + bs.length) &&
      ((bs.drop (32 * k - pa)).take 32).all Option.isSome

/-- The addresses that a masked write covers. -/
def maskedAddrs (pa : Nat) (bs : List (Option Byte)) : List Nat :=
  (bs.zip (rangeFrom pa bs.length)).filterMap fun (b, a) => if b.isSome then some a else none

/-- Whether an address lies in the result tile of a pure launch (R344, R345), by its resident pages. -/
def Pure.inResult (p : Pure) (tile : List Byte) (a : Nat) : Bool :=
  p.result.any fun (page, frame) => frame == frameNo a && inTile tile (pageVa page + BitVec.ofNat 64 (a % 4096))

/-- What a write to physical addresses removes from the Daymark before it performs (R90), and the recordings it
cancels (R344): all but one of a launch whose own write lies in its result tile's bytes. -/
def State.breakWatches (s : State) (own : List Writer) (addrs : List Nat) : State :=
  let s := s.mapSide fun m =>
    { m with daymark := m.daymark.filter fun e => !(addrs.any fun a => e.frames.contains (frameNo a)) }
  { s with
    launches := s.launches.map fun l =>
      match l.pure with
      | some p =>
        let hit := addrs.filter fun a => p.frames.contains (frameNo a)
        if hit.isEmpty || ((own.any fun w => w.launch == some l.id) && hit.all (p.inResult (l.tile 4))) then l
        else { l with pure := some { p with clean := false } }
      | none => l }

/-- The aperture of a physical address and the peer that it names (R33). -/
def aperOf (pa : Nat) : Nat := pa / 2 ^ 39 % 4096
def aperOffset (pa : Nat) : Nat := pa % 2 ^ 39

def State.aperture (s : State) (pa : Nat) : Aperture := look s.aperts (aperOf pa) Aperture.reset

/-- lag(t) of R285, sign-extended. -/
def lag (w : Nat) (t : BitVec 16) : DWord := (BitVec.ofNat 16 (field w 32 16) - t).signExtend 64

/-- A waiting BARWAIT whose word, in home memory or in its team's pool, passes it keeps in mind that it did, whatever is
written next (R286); `touched` says whether a write reached the word there. -/
def Wait.see (w : Wait) (mem pool : List Host.Cell) (touched : Bool → Nat → Bool) : Wait :=
  match w with
  | .barwait inPool a t false pa =>
    let at' := if inPool then some a.toNat else pa
    let passes := at'.any fun k => touched inPool k && !(lag (Memory.readLe (if inPool then pool else mem) k 8) t).msb
    .barwait inPool a t passes pa
  | _ => w

/-- A party waits in BARWAIT. -/
def Wait.atBarrier : Wait → Bool
  | .barwait .. => true
  | _ => false

def Group.hasBarwait (g : Group) : Bool := g.main.wait.atBarrier || g.frags.any fun f => f.party.wait.atBarrier

/-- Every waiting BARWAIT looks at a write as it performs (R286): at an address of home memory, or, with a context, at a
window offset. -/
def State.seeWrite (s : State) (ctx : Option Nat) (touched : Nat → Bool) : State :=
  if s.groups.any Group.hasBarwait then
    { s with
      groups := s.groups.map fun g =>
        let see (p : Party) : Party :=
          { p with wait := p.wait.see s.side.mem (s.teamAt g.ctx).pool fun inPool k => inPool == ctx.isSome && touched k }
        if ctx.all (· == g.ctx) then { g with main := see g.main, frags := g.frags.map fun f => { f with party := see f.party } } else g }
  else s

/-- Whether a run of bytes touches a barrier word. -/
def nearWord (off n k : Nat) : Bool := decide (off < k + 8) && decide (k < off + n)

/-- A write performs at the home slice, under a byte mask (R70, R72), or at the peer's (R33), to which poison travels with
it (R85). `own` names whose write it is. -/
def State.homeStore (s : State) (own : List Writer) (pa : Nat) (bs : List (Option Byte)) (poison : Bool := false) : State :=
  if pa < Config.hbmBytes then
    let lines := dedup ((maskedAddrs pa bs).map lineOf)
    let whole := wholeSectors pa bs
    let s := s.mapSide fun m =>
      { m with
        mem := Memory.writeMasked m.mem pa bs
        poison := m.poison.filter fun k => !(whole.contains k)
        replicas := m.replicas.filter fun r => !(lines.contains r.line)
        l1 := m.l1.map fun x => if lines.contains (x.sector / 8) then { x with fresh := false } else x }
    ((s.seeWrite none fun k => (maskedAddrs pa bs).any fun a => nearWord a 1 k).l2Write pa bs none).deliver pa bs
  else
    (runsOf 0 bs).foldl (fun s (i, data) => s.toPeer (.peerWrite (s.aperture pa).dev (aperOffset pa + i) data poison) own) s

/-- A write removes the Daymark's watches first (R90), and then performs. -/
def State.homeWrite (s : State) (own : List Writer) (pa : Nat) (bs : List (Option Byte)) (poison : Bool := false) : State :=
  (if pa < Config.hbmBytes then s.breakWatches own (maskedAddrs pa bs) else s).homeStore own pa bs poison

/-- Bytes read at the home slice, or from the peer: free bytes, with its poison (R33). The flag says that a sector read
is poisoned (R85). -/
def State.homeRead (s : State) (pa n : Nat) : List Byte × Bool × State :=
  if pa < Config.hbmBytes then
    (Memory.read s.side.mem pa n, (rangeFrom pa n).any (fun a => s.side.poison.contains (sectorNo a)), s)
  else ((upTo n).map (fun i => Config.peerByte (s.free + i)), Config.peerPoison s.free, { s with free := s.free + n })

/-- Whether what is asked of an address is supplied: by a peer only while VEN = 1, and when it does not refuse (R33,
R398). -/
def State.peerAnswers (s : State) (pa : Nat) : Bool × State :=
  if pa < Config.aperBase then (true, s)
  else if s.ctl.ven then
    let (n, s) := s.draw
    (!Config.peerRefuses n, s)
  else (false, s)

/-! ## MIXCHK records (R111) -/

/-- The aligned 16-byte units of a strong access as (unit, offset, size); one of more than 16 bytes has several. A
misaligned access that MM1 made strong is checked per byte (Table 16-7); that it is recorded as one access of size 1 for
each byte is the model's choice (DESIGN CHOICE, log 103). -/
def strongUnits (pa n : Nat) (whole : Bool) : List (Nat × Nat × Nat) :=
  if whole then (upTo ((n + 15) / 16)).map fun i => (pa / 16 + i, pa % 16, n)
  else (upTo n).map fun i => ((pa + i) / 16, (pa + i) % 16, 1)

/-- Whether an access overlaps the recorded bytes of a unit with another offset or size. -/
def State.mixed (s : State) (us : List (Nat × Nat × Nat)) : Bool :=
  us.any fun (u, o, k) => s.side.strong.any fun (v, p, q) =>
    v == u && (p, q) != (o, k) && decide (o < p + q) && decide (p < o + k)

/-- A slice records the units of the lines that it holds. -/
def State.recordStrong (s : State) (us : List (Nat × Nat × Nat)) : State :=
  let us := us.filter fun u => s.l2Holds (u.1 / 16)
  s.mapSide fun m => { m with strong := us.foldl (fun l u => u :: l.filter fun v => v.1 != u.1) m.strong }

/-- A strong access of any party performs at the home slice: the line is used, and the record made. -/
def State.strongUse (s : State) (pa n : Nat) (whole write : Bool) (alloc : Option Nat) : State :=
  if pa < Config.hbmBytes then (s.l2Use pa n write alloc).recordStrong (strongUnits pa n whole) else s

/-- Poison marked at the home of a sector. -/
def State.poisonHome (s : State) (k : Nat) : State :=
  s.mapSide fun m => if m.poison.contains k then m else { m with poison := m.poison ++ [k] }

/-! ## Watch records (R89) -/

/-- The home slices of a frame's 16 lines. -/
def State.frameSlices (s : State) (frame : Nat) : List Nat := (rangeFrom (16 * frame) 16).map s.homeSlice

/-- The frames that entries and running pure tasks watch. The spec does not say when the pending records of a cancelled
recording become free: they count until the task completes (DESIGN CHOICE, log 104). -/
def State.watchedFrames (s : State) : List Nat :=
  dedup (s.side.daymark.flatMap (·.frames) ++ s.launches.flatMap fun l => match l.pure with
    | some p => p.frames
    | none => [])

/-- Whether a frame is among those watched, or each of its home slices has one of its 512 records free (R89). -/
def State.canWatch (s : State) (w : List Nat) (frame : Nat) : Bool :=
  decide (4096 * frame < Config.hbmBytes) &&
    (w.contains frame ||
      (s.frameSlices frame).all fun k => decide ((w.filter fun f => (s.frameSlices f).contains k).length < 512))

/-- The frames of a list that can be watched, one after the other, beside those watched already. -/
def State.takeWatches (s : State) (frames : List Nat) : List Nat :=
  let w := s.watchedFrames
  dedup (frames.foldl (fun got f => if s.canWatch (dedup (w ++ got)) f then got ++ [f] else got) [])

/-! ## The L1 -/

def State.l1Find (s : State) (core k : Nat) : Option L1Sector :=
  s.side.l1.find? fun x => x.core == core && x.sector == k

/-- A core's L1 holds a sector whole. -/
def State.l1Has (s : State) (core k : Nat) : Bool := (s.l1Find core k).any (!·.part)

def State.l1Map (s : State) (core k : Nat) (f : L1Sector → L1Sector) : State :=
  s.mapSide fun m => { m with l1 := m.l1.map fun x => if x.core = core ∧ x.sector = k then f x else x }

/-- A sector's bytes under a mask. -/
def L1Sector.dirtyOf (x : L1Sector) (mask : Word) : List (Option Byte) :=
  (upTo 32).map fun i => if mask.getLsbD i then some (x.bytes.getD i 0) else none

/-- Write back one sector of a core's L1, as one write: it stays valid and clean (R77). Poison goes with it (R85). Each
writer's bytes count as its own (R344). -/
def State.l1WriteBack (s : State) (core k : Nat) : State :=
  match s.l1Find core k with
  | none => s
  | some x =>
    if x.dirty = 0 then s
    else
      let s := s.l2Use (32 * k) 32 true (some x.prio)
      let s :=
        if 32 * k < Config.hbmBytes then
          x.writers.foldl (fun s w => s.breakWatches [w.1] (maskedAddrs (32 * k) (x.dirtyOf w.2))) s
        else s
      let s := s.homeStore (x.writers.map (·.1)) (32 * k) (x.dirtyOf x.dirty) x.poison
      let s := if x.poison && decide (32 * k < Config.hbmBytes) then s.poisonHome k else s
      s.l1Map core k fun x => { x with dirty := 0, writers := [] }

/-- The sectors that a core's L1 holds, oldest first. -/
def State.l1Sectors (s : State) (core : Nat) : List Nat :=
  (s.side.l1.filter fun x => x.core == core).map (·.sector)

/-- The sectors of one line that a core's L1 holds. -/
def State.l1LineOf (s : State) (core line : Nat) : List L1Sector :=
  s.side.l1.filter fun x => x.core == core && x.sector / 8 == line

/-- A replica slice takes a line's sectors, beside those that it holds of it, into one of its ways (R81). -/
def State.placeReplica (s : State) (area line prio : Nat) (parts : List (Nat × List Byte × Bool)) : State :=
  let old := match s.side.replicas.find? fun r => r.area == area && r.line == line with
    | some r => r.parts
    | none => []
  let r : Replica :=
    { area := area, pos := s.homeSlice line % 48, line := line
      parts := parts ++ old.filter fun p => !(parts.any fun q => q.1 == p.1), prio := prio }
  let s := s.dropReplica area line
  (s.l2Room (s.hostSlice r.slice) line).mapSide fun m => { m with replicas := m.replicas ++ [r] }

/-- The sector, as die × 8 + sector, that a core lies in: the area of its replicas. -/
def areaOf (core : Nat) : Nat := Config.sectorOf core

/-- Whether the L1 of a core replicates a line that it evicts: homed on the other die, in local HBM, clean, and
allocated by a tenant function with VR = 1 (R81). -/
def State.replicates (s : State) (core line : Nat) : Bool :=
  let xs := s.l1LineOf core line
  xs.all (fun x => x.dirty == 0) && (match xs with | x :: _ => x.vr | [] => false) &&
    decide (256 * line < Config.hbmBytes) && s.homeSlice line / 384 != Config.dieOf core

/-- The L1 of a core evicts a line: dirty sectors are written back; a line that it replicates is placed where the home
accepts it (R82). -/
def State.l1Evict (s : State) (core line : Nat) : State :=
  let xs := s.l1LineOf core line
  let s :=
    if s.replicates core line then
      if xs.all (·.fresh) && s.l2Holds line then
        s.placeReplica (areaOf core) line ((xs.map (·.prio)).foldl max 0) (xs.map fun x => (x.sector, x.bytes, x.poison))
      else s
    else xs.foldl (fun s x => s.l1WriteBack core x.sector) s
  s.mapSide fun m => { m with l1 := m.l1.filter fun x => !(x.core == core && x.sector / 8 == line) }

/-- Room for a line in a core's L1, which holds 16 lines in each of its granules (R75): when all are taken, one leaves,
which Kutil chooses. Below the floor of 16 granules no check is needed. -/
def State.l1Room (s : State) (core line : Nat) : State :=
  let ks := s.l1Sectors core
  if ks.length < 256 then s
  else
    let lines := dedup (ks.map (· / 8))
    if lines.contains line || decide (lines.length < 16 * (s.l1Granules core).length) then s
    else
      let (n, s) := s.draw
      s.l1Evict core (lines.getD (Config.choice n % lines.length) 0)

/-- A replica's bytes of a sector and its poison, consulted by a plain load of a core of its area after an L1 miss
(R82). -/
def State.replicaOf (s : State) (core k : Nat) : Option (List Byte × Bool) :=
  match s.side.replicas.find? fun r => r.area == areaOf core && r.line == k / 8 with
  | some r => (r.parts.find? fun p => p.1 == k).map (·.2)
  | none => none

/-- What an L1 is supplied with for a sector: a replica's bytes where a load finds one, else those of its home, which
allocates the line (R77, R82). -/
def State.l1Supply (s : State) (core k prio : Nat) (load : Bool) : List Byte × Bool × State :=
  match (if load then s.replicaOf core k else none) with
  | some x => (x.1, x.2, s)
  | none => (s.l2Use (32 * k) 32 false (some prio)).homeRead (32 * k) 32

/-- A sector supplied anew under its dirty bytes. -/
def L1Sector.renew (x : L1Sector) (bs : List Byte) (poison : Bool) (stamp : Nat) : L1Sector :=
  { x with
    bytes := (upTo 32).map fun i => if x.dirty.getLsbD i then x.bytes.getD i 0 else bs.getD i 0
    poison := x.poison || poison
    filled := stamp
    part := false }

/-- The sector of a core's L1. One that is not held is filled (R70); of one whose other bytes an acquire discarded,
these are fetched again (R95). -/
def State.l1Fill (s : State) (core k : Nat) (vr : Bool) (prio : Nat) (load : Bool) : L1Sector × State :=
  match s.l1Find core k with
  | some x =>
    if x.part then
      let (bs, p, s) := s.l1Supply core k prio load
      let x := x.renew bs p s.stamp
      (x, s.l1Map core k fun _ => x)
    else (x, s)
  | none =>
    let s := s.l1Room core (k / 8)
    let (bs, p, s) := s.l1Supply core k prio load
    let x : L1Sector :=
      { core := core, sector := k, bytes := bs, dirty := 0, poison := p, vr := vr, fresh := true, writers := [],
        filled := s.stamp, part := false, since := 0, prio := prio }
    (x, s.mapSide fun m => { m with l1 := m.l1 ++ [x] })

/-- Write back every dirty sector of a core (R107). -/
def State.l1WriteBackAll (s : State) (core : Nat) : State :=
  (s.l1Sectors core).foldl (fun s k => s.l1WriteBack core k) s

/-- Discard, of the sectors of a core that `p` chooses, the clean ones. A sector with dirty bytes keeps these; its other
bytes go too, since a later load may not find what they held before (R95; DEDUCED, log 125). -/
def State.l1Discard (s : State) (core : Nat) (p : L1Sector → Bool) : State :=
  s.mapSide fun m =>
    { m with
      l1 := (m.l1.filter fun x => !(x.core == core && p x && x.dirty == 0)).map fun x =>
        if x.core == core && p x then { x with part := true } else x }

/-- Discard every clean sector of a core (R107). -/
def State.l1DiscardClean (s : State) (core : Nat) : State := s.l1Discard core fun _ => true

/-- Discard every clean sector of a core that was filled before a moment (R113). -/
def State.l1DiscardBefore (s : State) (core stamp : Nat) : State := s.l1Discard core fun x => decide (x.filled < stamp)

/-- Write back and drop the sectors of one line of a core's L1 (R108). -/
def State.l1EvictLine (s : State) (core line : Nat) : State :=
  let s := ((s.l1Sectors core).filter fun k => k / 8 == line).foldl (fun s k => s.l1WriteBack core k) s
  s.mapSide fun m => { m with l1 := m.l1.filter fun x => !(x.core == core && x.sector / 8 == line) }

/-- Write back and invalidate the whole L1 of a core (R51). -/
def State.l1Flush (s : State) (core : Nat) : State :=
  let s := s.l1WriteBackAll core
  s.mapSide fun m => { m with l1 := m.l1.filter fun x => x.core != core }

/-! ## Combining buffers (R78) -/

/-- The bytes of a buffer under their mask, from the start of its line. -/
def CombBuf.masked (b : CombBuf) : List (Option Byte) :=
  (upTo 256).map fun i => (b.bytes.find? fun c => c.1 == 256 * b.line + i).map (·.2)

/-- Drain one buffer: only its written bytes go to the home slice. The core's L1 gives up the line first, so that no
later load of the core finds the bytes from before (R95). -/
def State.drainBuffer (s : State) (b : CombBuf) : State :=
  let s := s.mapSide fun m => { m with combine := m.combine.filter fun c => c != b }
  let s := s.l1EvictLine b.core b.line
  (s.l2Write (256 * b.line) b.masked b.alloc).homeWrite [s.writer b.ctx] (256 * b.line) b.masked

/-- Drain every buffer that `p` chooses, oldest first. -/
def State.drainBuffers (s : State) (p : CombBuf → Bool) : State :=
  (s.side.combine.filter p).foldl (fun s b => s.drainBuffer b) s

def State.drainCombining (s : State) (ctx grp : Nat) : State :=
  s.drainBuffers fun b => b.ctx == ctx && b.grp == grp

/-- Bytes gathered in the group's buffer of one line. When the quadrant's eight buffers are taken, the oldest
drains; a full line drains at once. Where gathered stores differ in EV or in the non-temporal hint, the spec does not say
which priority the drain carries: it is the first store's (DESIGN CHOICE, log 145). -/
def State.combineStore (s : State) (core ctx grp : Nat) (alloc : Option Nat) (pa : Nat) (bs : List Byte) : State :=
  let line := lineOf pa
  let mine (b : CombBuf) : Bool := b.core == core && b.ctx == ctx && b.grp == grp && b.line == line
  let inQuad (b : CombBuf) : Bool := b.core == core && b.quad == grp % 4
  let s :=
    if s.side.combine.any mine then s
    else
      let s :=
        if (s.side.combine.filter inQuad).length < 8 then s
        else match s.side.combine.find? inQuad with
          | some b => s.drainBuffer b
          | none => s
      s.mapSide fun m =>
        { m with
          combine := m.combine ++ [{ core := core, quad := grp % 4, ctx := ctx, grp := grp, line := line, bytes := [],
                                     since := s.clock.toNat, alloc := alloc }] }
  let s := s.mapSide fun m =>
    { m with
      combine := m.combine.map fun b =>
        if mine b then { b with bytes := (bs.zip (rangeFrom pa bs.length)).foldl (fun c (v, a) => put c a v) b.bytes }
        else b }
  s.drainBuffers fun b => mine b && b.bytes.length == 256

/-! ## Plain accesses (Table 03-3) -/

/-- A byte run cut at sector borders: (address, bytes). -/
def cutAt (unit : Nat) : Nat → Nat → List Byte → List (Nat × List Byte)
  | 0, _, _ => []
  | fuel + 1, a, bs =>
    if bs.isEmpty then []
    else
      let n := unit - a % unit
      (a, bs.take n) :: cutAt unit fuel (a + n) (bs.drop n)

/-- Write bytes of one sector into the L1 at a time, dirty or clean. -/
def L1Sector.write (x : L1Sector) (pa : Nat) (bs : List Byte) (dirty : Bool) (own : Writer) (now : Nat) : L1Sector :=
  let byte (i : Nat) : Option Byte := if pa ≤ 32 * x.sector + i then bs[32 * x.sector + i - pa]? else none
  let mask : Word := (upTo 32).foldl (fun d i => if (byte i).isSome then d ||| BitVec.ofNat 32 (2 ^ i) else d) 0
  let before := (x.writers.find? fun w => w.1 == own).elim 0 (·.2)
  let others := ((x.writers.filter fun w => w.1 != own).map fun w => (w.1, w.2 &&& ~~~mask)).filter fun w => w.2 != 0
  { x with
    bytes := (upTo 32).map fun i => (byte i).getD (x.bytes.getD i 0)
    dirty := if dirty then x.dirty ||| mask else x.dirty
    since := if dirty && x.dirty == 0 then now else x.since
    poison := x.poison && mask != 0xFFFFFFFF
    writers := if dirty then others ++ [(own, before ||| mask)] else x.writers }

/-- Bytes of one sector become dirty in the L1. A sector that it lacks is asked for first; a peer that refuses it
refuses the store (R29, R33). -/
def State.l1Store (s : State) (core : Nat) (vr : Bool) (prio : Nat) (own : Writer) (a : Nat) (bs : List Byte) : State :=
  let (ok, s) := if s.l1Has core (sectorNo a) then (true, s) else s.peerAnswers a
  if ok then
    let (_, s) := s.l1Fill core (sectorNo a) vr prio false
    s.l1Map core (sectorNo a) fun x => x.write a bs true own s.clock.toNat
  else s.refusePeers [own]

/-- A plain store leaves its group's queue (R77, R97): as Table 03-3 gives for the page's CL and WP. -/
def State.plainStore (s : State) (core ctx grp : Nat) (cl wp : BitVec 2) (prio pa : Nat) (bs : List Byte) : State :=
  let own := s.writer ctx
  let vr := (s.tf (s.tfOf ctx)).vr
  if wp = 2 then
    (cutAt 256 (bs.length + 1) pa bs).foldl (fun s (a, v) =>
      let s := if cl = 0 then s.l1EvictLine core (lineOf a) else s
      s.combineStore core ctx grp (allocOf cl prio) a v) s
  else
    let s := s.drainBuffers fun b => b.core == core && b.ctx == ctx && b.grp == grp && (linesOf pa bs.length).contains b.line
    if cl = 0 ∧ wp = 0 then
      (cutAt 32 (bs.length + 1) pa bs).foldl (fun s (a, v) => s.l1Store core vr prio own a v) s
    else
      let s := (s.l2Use pa bs.length true (allocOf cl prio)).homeWrite [own] pa (bs.map some)
      if cl = 0 then
        (cutAt 32 (bs.length + 1) pa bs).foldl (fun s (a, v) =>
          s.l1Map core (sectorNo a) fun x => x.write a v false own 0) s
      else s

/-- Bytes that a plain load of a core gets before the group's own queued bytes: from its L1 under CL = 0,
else from the home slice (Table 03-3). -/
def State.coreRead (s : State) (core : Nat) (cl : BitVec 2) (vr : Bool) (prio pa n : Nat) : List Byte × Bool × State :=
  if cl = 0 then
    (cutAt 32 (n + 1) pa (List.replicate n 0)).foldl (fun (acc, p, s) (a, v) =>
      let (x, s) := s.l1Fill core (sectorNo a) vr prio true
      (acc ++ (x.bytes.drop (a % 32)).take v.length, p || x.poison, s)) ([], false, s)
  else (s.l2Use pa n false (allocOf cl prio)).homeRead pa n

/-- Bytes of a list replaced by those of a write that overlaps them. -/
def overlay (base : Nat) (bs : List Byte) (w : Nat × List Byte) : List Byte :=
  (bs.zip (rangeFrom base bs.length)).map fun (b, a) =>
    if w.1 ≤ a ∧ a < w.1 + w.2.length then w.2.getD (a - w.1) b else b

/-! ## The pool window's bytes -/

/-- The granule outside the window that an access issued before a PSHRINK still reaches (R54): the first that left from
the place after the operation's issue. -/
def Team.old (t : Team) (op : Option Nat) (off : Nat) : Option Leaving :=
  match op with
  | some id => t.leaving.find? fun e => e.wg == off / 4096 && decide (id < e.left)
  | none => none

/-- A byte of the window as an operation sees it; none as an access that issues now does. -/
def Team.byte (t : Team) (op : Option Nat) (off : Nat) : Byte :=
  match t.old op off with
  | some e => Memory.get e.cells off
  | none => Memory.get t.pool off

/-- Whether a byte of the window, as an operation sees it, is poisoned. -/
def Team.bad (t : Team) (op : Option Nat) (off : Nat) : Bool :=
  match t.old op off with
  | some e => e.poison.contains off
  | none => t.poison.contains off

/-- Whether an operation's span lies in the staging and shared regions, or in what has left them since it issued. -/
def Team.spanFor (t : Team) (op : Option Nat) (off n : Nat) : Bool :=
  decide (4096 * t.stagingAt ≤ off) &&
    (decide (off + n ≤ 4096 * t.granules.length) ||
      (rangeFrom off n).all fun a => decide (a < 4096 * t.granules.length) || (t.old op a).isSome)

/-- Write one byte of the window as an operation sees it; its poison goes. -/
def Team.setByte (t : Team) (op : Option Nat) (off : Nat) (b : Byte) : Team :=
  match t.old op off with
  | some e =>
    { t with
      leaving := t.leaving.map fun x =>
        if x = e then { x with cells := Memory.set x.cells off b, poison := x.poison.filter (· != off) } else x }
  | none => { t with pool := Memory.set t.pool off b, poison := t.poison.filter (· != off) }

def State.poolBytes (s : State) (ctx off n : Nat) : List Byte := Memory.read (s.teamAt ctx).pool off n

/-- A write to the staging or shared region of a team's window; a write of a byte clears its poison. -/
def State.poolWrite (s : State) (ctx off : Nat) (bs : List Byte) : State :=
  (s.mapTeam ctx fun t =>
    { t with
      pool := Memory.write t.pool off bs
      poison := t.poison.filter fun a => !(decide (off ≤ a) && decide (a < off + bs.length)) }).seeWrite
    (some ctx) (nearWord off bs.length)

/-- The window's bytes as an operation sees them, and its writes (R54). A write to a granule whose bytes are in its
backing is kept until they are read back: the spec does not say where it goes meanwhile (DESIGN CHOICE, log 102). -/
def State.poolBytesFor (s : State) (ctx op off n : Nat) : List Byte :=
  let t := s.teamAt ctx
  if t.leaving.isEmpty then Memory.read t.pool off n else (rangeFrom off n).map (t.byte (some op))

def State.poolWriteFor (s : State) (ctx op off : Nat) (bs : List Byte) : State :=
  let t := s.teamAt ctx
  if t.resident && t.unfilled.isEmpty && t.leaving.isEmpty then s.poolWrite ctx off bs
  else
    (s.mapTeam ctx fun t =>
    let out := (rangeFrom off bs.length).filter fun a =>
      (t.granules.getD (a / 4096) (.inPool 0) == .inBacking || t.unfilled.contains (a / 4096)) && !t.late.contains a &&
        (t.old (some op) a).isNone
    (bs.zip (rangeFrom off bs.length)).foldl (fun t (b, a) => t.setByte (some op) a b) { t with late := t.late ++ out }).seeWrite
      (some ctx) (nearWord off bs.length)

/-- The group's own newer bytes over what the core sees (R97, R98): buffered, then queued, oldest first. -/
def State.ownBytes (s : State) (ctx grp : Nat) (pool : Bool) (a : Nat) (bs : List Byte) : List Byte :=
  let buffered :=
    if pool then bs
    else
      (s.side.combine.filter fun b => b.ctx == ctx && b.grp == grp).foldl (fun bs b =>
        b.bytes.foldl (fun bs c => overlay a bs (c.1, [c.2])) bs) bs
  let live (q : QueuedStore) (w : Nat × List Byte) : Bool := !(pool && ((s.teamAt ctx).old (some q.op) w.1).isSome)
  ((s.groupAt ctx grp).sq.filter fun q => q.pool == pool).foldl (fun bs q => (q.writes.filter (live q)).foldl (overlay a) bs) buffered

/-! ## Store queues (R97) -/

/-- Neighbouring writes of one store that follow each other without a gap, as one. -/
def joinWrites : List (Nat × List Byte) → List (Nat × List Byte)
  | [] => []
  | (a, bs) :: t =>
    match joinWrites t with
    | (b, cs) :: r => if b = a + bs.length then (a, bs ++ cs) :: r else (a, bs) :: (b, cs) :: r
    | [] => [(a, bs)]

/-- One store leaves the queue. -/
def State.storeOut (s : State) (ctx grp : Nat) (q : QueuedStore) : State :=
  (joinWrites q.writes).foldl (fun s (a, bs) =>
    if q.pool then s.poolWriteFor ctx q.op a bs else s.plainStore (s.coreOf ctx) ctx grp q.cl q.wp q.prio a bs) s

/-- Take the stores of a queue out in order up to and with the last of operation `op`; all of them for none. -/
def State.drainQueue (s : State) (ctx grp : Nat) (op : Option Nat) : State :=
  let sq := (s.groupAt ctx grp).sq
  let n := match op with
    | none => sq.length
    | some o => (upTo sq.length).foldl (fun n i => if (sq.getD i ⟨0, false, 0, 0, 0, []⟩).op = o then i + 1 else n) 0
  let s := (sq.take n).foldl (fun s q => s.storeOut ctx grp q) s
  s.mapGroup ctx grp fun g => { g with sq := g.sq.drop n }

/-! ## Cache actions of ordering operations (Table 04-4) -/

/-- The release side at a scope: 0 .GRP, 1 .TEAM, 2 to 5 wider. -/
def State.releaseActions (s : State) (ctx grp scope : Nat) : State :=
  if scope = 0 then s.drainCombining ctx grp
  else
    let s := (s.drainQueue ctx grp none).drainCombining ctx grp
    if scope = 1 then s else s.l1WriteBackAll (s.coreOf ctx)

/-- The acquire side at a scope. -/
def State.acquireActions (s : State) (ctx scope : Nat) : State :=
  if scope ≤ 1 then s else s.l1DiscardClean (s.coreOf ctx)

/-- What happens before an asynchronous operation's first access (R113): queue and buffers drain, and for one
that reaches tenant memory the core writes back its dirty sectors. -/
def State.engineIssue (s : State) (ctx grp : Nat) (tenant : Bool) : State :=
  s.releaseActions ctx grp (if tenant then 4 else 1)

end Sys2Proof.Machine
end

