-- ==== Sys2Proof/Machine/Translate.lean ====
section
/-!
DEFINITION. Events to the outside (R394), fault records (R141 to R143), the end of teams and launches (R414),
fault tokens (R140), the page-table walk (R10 to R28), held translations (R38) and windows (R31, R36).
-/

namespace Sys2Proof.Machine

/-! ## Outcomes other than completion -/

/-- The access of a walk that only asks where a page lies. -/
def Access.control : Access := { r := false, w := false, x := false, any := true, bits := 0x01, svc := true }

/-- What a fault record tells of a fault (Table 05-2). -/
structure FaultInfo where
  cause  : Byte
  va     : DWord
  entry  : DWord
  level  : Byte
  acc    : Byte
  detail : Word
  /-- the access of a walk that met a missing page, which a retry makes again (R140) -/
  walk   : Access := Access.control
  /-- the context for which that walk was made, if any -/
  who    : Option Nat := none
  deriving DecidableEq, Repr

/-- Why a word, an operation or a Keeper read does not go on: a trap (Table 16-1) with DETAIL, ADDR and LANES; a fault
of the fault queue; a missing page (R27 miss); a wait; or nothing yet, until what holds the word is over. -/
inductive Stop where
  | trap (cause : Byte) (detail : Word) (addr lanes : DWord)
  | fault (f : FaultInfo)
  | miss (f : FaultInfo)
  | wait (w : Wait)
  | hold (h : Hold)
  deriving DecidableEq, Repr

/-- A computation over the state that ends with a value or stops. -/
abbrev M := EStateM Stop State

/-- A fault without an address. -/
def plainFault (cause : Byte) (detail : Word) : FaultInfo :=
  { cause := cause, va := 0, entry := 0, level := 0xFF, acc := 0, detail := detail }

/-! ## Events (R394) -/

def causeTranslation : Byte := 0x11

/-- An event on a tenant function's event channel: dropped unless the channel is enabled and its queue pair
is ready. -/
def State.sendEvent (s : State) (t : Nat) (imm : Word) : State :=
  let b := s.tf t
  let q := s.qpAt b.evQp.toNat
  if b.evEn && q.en && q.state == 1 then
    (s.mapQp b.evQp.toNat fun q => { q with spsn := q.spsn + 1, sent := q.sent ++ [(q.spsn, imm)] }).emit
      (.event b.evQp.toNat q.spsn imm)
  else s

/-! ## Fault records -/

/-- The 64 bytes of a record (Table 05-2) with PHASE. -/
def FaultRecord.encode (r : FaultRecord) (phase : Nat) : List Byte :=
  leBytes 8 r.va.toNat ++ leBytes 8 r.pc.toNat ++ leBytes 8 r.entry.toNat ++ leBytes 4 r.token.toNat ++
  leBytes 4 r.launch.toNat ++ leBytes 4 r.detail.toNat ++ leBytes 2 r.ctx.toNat ++ leBytes 2 r.core.toNat ++
  leBytes 2 r.count.toNat ++ [r.cause, r.acc, r.level, r.widx, r.group] ++
  leBytes 1 (phase + (if r.park then 2 else 0) + (if r.sec then 4 else 0)) ++ leBytes 16 0

/-- The capacity of a fault queue (Table 05-1: LOG2N below 4 acts as 4). -/
def TfBlock.fqLog (b : TfBlock) : Nat := max 4 b.fqLog2n.toNat

/-- Whether a record may be written now (R142). -/
def TfBlock.fqRoom (b : TfBlock) : Bool := decide ((b.fqProd - b.fqCons).toNat < 2 ^ b.fqLog)

/-- Record k of the queue performs as a release (R137, R142): its place, its phase, PROD and the event. No page gives
the line's priority: it is 0 (DESIGN CHOICE, log 127). -/
def State.putRecord (s : State) (t : Nat) (r : FaultRecord) : State :=
  let b := s.tf t
  let k := b.fqProd.toNat
  let pa := 64 * b.fqBase.toNat + 64 * (k % 2 ^ b.fqLog)
  let phase := if bitAt k b.fqLog then 0 else 1
  let s :=
    if s.inPart b.part.toNat pa && s.inPart b.part.toNat (pa + 63) then
      (s.strongUse pa 64 true true (some 0)).homeWrite [tfWriter t] pa ((r.encode phase).map some)
    else s.mapTf t fun b => { b with fqErr := true }
  let s := s.mapTf t fun b => { b with fqProd := b.fqProd + 1 }
  if b.fqEv && b.fqProd == b.fqCons then s.sendEvent t 0x40000000 else s

/-- Write the records that writers hold, in arrival order, while there is room (R142); `n` bounds them. -/
def State.writeHeld (s : State) (t : Nat) : Nat → State
  | 0 => s
  | n + 1 =>
    match (s.tf t).held with
    | [] => s
    | h :: rest =>
      if (s.tf t).fqEn && (s.tf t).fqRoom then
        State.writeHeld ((s.putRecord t h.record).mapTf t fun b => { b with held := rest }) t n
      else s

/-- A record for the fault queue (R142, R143): written, held while the queue is full, or none while EN = 0. -/
def State.addRecord (s : State) (t : Nat) (r : FaultRecord) (launch : Option Nat) (ends : Bool) : State :=
  if (s.tf t).fqEn then
    let s := s.mapTf t fun b => { b with held := b.held ++ [{ record := r, launch := launch, ends := ends }] }
    s.writeHeld t (s.tf t).held.length
  else s

/-! ## The end of groups, teams and launches (R414) -/

/-- A party at a clause boundary (R414): between clauses, waiting, parked, or held behind a handler. -/
def Party.atBoundary (p : Party) : Bool :=
  p.clause.isNone ||
    (match p.wait with
     | .none | .hold _ | .pshare .. => false
     | _ => true)

/-- EXIT's retirement of a party (R179): the main side's PC and m0 become 0, a fragment's entry is freed.
HB and the record's owner stay where the handler party leaves without ERET (R239; DESIGN CHOICE, log 130). -/
def Group.retire (g : Group) (who : Option Nat) : Group :=
  match who with
  | none => { g with main := { Party.start 0 with wait := .exited }, m := g.m.set 0 0 }
  | some e => { g with frags := modifyAt g.frags e fun _ => Frag.empty }

/-- Stores and atomics of a group through an aperture that the peer has not acknowledged (Table 04-4, .SYS). -/
def State.awaitsPeers (s : State) (ctx grp : Nat) : Bool :=
  s.ops.any fun o => o.ctx == ctx && o.grp == grp && o.peer.isSome

/-- A group with no live party exits: release actions at .SYS (R120), and its slot is free once peers have
acknowledged its stores. -/
def State.groupExit (s : State) (ctx grp : Nat) : State :=
  if s.hasGroup ctx grp && (s.groupAt ctx grp).parties.isEmpty then
    let s := s.releaseActions ctx grp 5
    if s.awaitsPeers ctx grp then s
    else { s with groups := s.groups.filter fun g => !(g.ctx == ctx && g.idx == grp) }
  else s

def State.retireParty (s : State) (p : PartyRef) : State :=
  (s.mapGroup p.ctx p.grp fun g => g.retire p.frag).groupExit p.ctx p.grp

/-- A party waits and leaves the active set (R354); in a team that is being pre-empted it stops there when R365
says so, and in a group that ends it retires at a clause boundary (R160, R414). -/
def State.waitParty (s : State) (p : PartyRef) (w : Wait) : State :=
  let s := s.mapPartyOf p fun pt =>
    { pt with wait := w, active := false, stopped := pt.stopped || (s.stopping p.ctx && w.stops) }
  if (s.groupAt p.ctx p.grp).ending && (s.partyOf p).atBoundary then s.retireParty p else s

/-- Every group of a context ends: parties at a boundary now, the others at their next one; a context that is
not resident at once. -/
def State.endContext (s : State) (ctx : Nat) : State :=
  let s : State := { s with groups := s.groups.map fun g => if g.ctx = ctx then { g with ending := true } else g }
  let now := (s.allParties.filter fun (p : PartyRef) => p.ctx == ctx &&
    (!(s.teamAt ctx).resident || (s.partyOf p).atBoundary || (s.partyOf p).stopped))
  now.foldl (fun s p => s.retireParty p) s

/-- A record of a team that ends by no access of its own: SEC = 1 (R414, R160), or CODE_GONE (R161). It has no address and
no word. The spec gives GROUP 0xFF to accesses for a whole context and of the Keeper, and is silent on such a record: it
too has GROUP 0xFF, with ACC 0 (DESIGN CHOICE, log 148). -/
def State.secRecord (s : State) (ctx : Nat) (cause : Byte) (detail : Word) : FaultRecord :=
  { va := 0, pc := 0, entry := 0, token := 0, launch := (s.launchOf ctx).num, detail := detail,
    ctx := BitVec.ofNat 16 ctx, core := BitVec.ofNat 16 (s.coreOf ctx), count := 0, cause := cause, acc := 0,
    level := 0xFF, widx := 0xFF, group := 0xFF, park := false, sec := true }

/-- The launch ends with a cause (R414): no further team starts, every started team ends, and each team but
`first` takes a record with SEC = 1. -/
def State.killLaunch (s : State) (id : Nat) (first : Option Nat) (cause : Byte) : State :=
  let l := s.launchAt id
  match l.killed with
  | some _ => match first with
    | some c => s.endContext c
    | none => s
  | none =>
    let s := s.mapLaunch id fun l =>
      { l with
        killed := some cause
        next := l.teamCount
        stream := l.stream.map fun q => { q with queued := [] } }
    (s.teams.filter fun t => t.launch == id).foldl (fun s t =>
      let s := if first = some t.ctx then s
               else s.addRecord l.tf.toNat (s.secRecord t.ctx cause 0) (some id) true
      s.endContext t.ctx) s

/-- The record of a fault of a party: its clause's header, its word (a prefixed word's prefix, R218). -/
def State.partyRecord (s : State) (p : PartyRef) (f : FaultInfo) (token : Word) (park : Bool) : FaultRecord :=
  let pt := s.partyOf p
  let (pc, w) : DWord × Nat := match pt.clause with
    | some c => (c.addr, if c.pre.isSome then c.idx - 1 else c.idx)
    | none => (pt.pc, 0)
  { va := f.va, pc := pc, entry := f.entry, token := token, launch := (s.launchOf p.ctx).num, detail := f.detail,
    ctx := BitVec.ofNat 16 p.ctx, core := BitVec.ofNat 16 (s.coreOf p.ctx), count := if park then 1 else 0,
    cause := f.cause, acc := f.acc, level := f.level, widx := BitVec.ofNat 8 w, group := BitVec.ofNat 8 p.grp,
    park := park, sec := false }

/-- The record of a fault of an engine or of the Keeper for a context: no clause, no word. -/
def State.ctxRecord (s : State) (ctx : Nat) (grp : Byte) (f : FaultInfo) (token : Word) (park : Bool) : FaultRecord :=
  { va := f.va, pc := 0, entry := f.entry, token := token, launch := (s.launchOf ctx).num, detail := f.detail,
    ctx := BitVec.ofNat 16 ctx, core := BitVec.ofNat 16 (s.coreOf ctx), count := if park then 1 else 0,
    cause := f.cause, acc := f.acc, level := f.level, widx := 0xFF, group := grp, park := park, sec := false }

/-- The record of a Keeper read for a launch (R141): CTX and CORE 0xFFFF. -/
def keeperRecord (num : Word) (f : FaultInfo) (token : Word) (park : Bool) : FaultRecord :=
  { va := f.va, pc := 0, entry := f.entry, token := token, launch := num, detail := f.detail, ctx := 0xFFFF,
    core := 0xFFFF, count := if park then 1 else 0, cause := f.cause, acc := f.acc, level := f.level, widx := 0xFF,
    group := 0xFF, park := park, sec := false }

/-- A fault of a party ends its team and its launch: the record, then R414. The party itself stops at once. -/
def State.faultParty (s : State) (p : PartyRef) (f : FaultInfo) : State :=
  let l := s.launchOf p.ctx
  let s := s.addRecord l.tf.toNat (s.partyRecord p f 0 false) (some l.id) true
  (s.killLaunch l.id (some p.ctx) f.cause).retireParty p

/-- A fault of an engine, the Tender or the Keeper for a context ends its team and its launch. -/
def State.faultCtx (s : State) (ctx : Nat) (grp : Byte) (f : FaultInfo) : State :=
  let l := s.launchOf ctx
  let s := s.addRecord l.tf.toNat (s.ctxRecord ctx grp f 0 false) (some l.id) true
  s.killLaunch l.id (some ctx) f.cause

/-! ## Tokens (R140) -/

/-- The next sequence of a table entry: 1 first, then one more modulo 2^22, passing over 0 and 0x3F_FFFF. -/
def nextSeq (last : Option (BitVec 22)) : BitVec 22 :=
  match last with
  | none => 1
  | some q => if q + 1 = 0x3FFFFF ∨ q + 1 = 0 then 1 else q + 1

/-- Join the token of a page at a sector's walker, or take the lowest free entry of its table for a new one, or none
when the table is full: the token's value (0 for none), and whether it is new. -/
def State.takeToken (s : State) (sector : Nat) (asid : BitVec 12) (page : Nat) : Word × Bool × State :=
  match s.side.tokens.find? fun k => k.sector == sector && k.asid == asid && k.page == page with
  | some k => (k.value, false, s)
  | none =>
    match firstBelow 64 fun e => !(s.side.tokens.any fun k => k.sector == sector && k.entry == e) with
    | none => (0, false, s)
    | some e =>
      let last := (s.side.tokenSeq.find? fun x => x.1 == sector && x.2.1 == e).map (·.2.2)
      let k : Token := { sector := sector, entry := e, seq := nextSeq last, asid := asid, page := page }
      (k.value, true, s.mapSide fun m =>
        { m with
          tokens := m.tokens ++ [k]
          tokenSeq := (sector, e, k.seq) :: m.tokenSeq.filter fun x => !(x.1 == sector && x.2.1 == e) })

/-- The page number va[56:12] of an address. -/
def pageOf (va : DWord) : Nat := va.toNat / 4096 % 2 ^ 45

/-- Whether a miss of the tenant function parks: DP = 1, and an agent can learn of it (R27, R143). -/
def State.parks (s : State) (t : Nat) : Bool := (s.tf t).dp && (s.tf t).fqEn

/-- A waiter joins a token at a sector's walker (R140). A new token owes its record, which counts every waiter that
joins before the walker writes it (Table 05-2). -/
def State.joinToken (s : State) (k : Park) : Park × State :=
  let (tok, new, s) := s.takeToken k.sector (s.tf k.tf).asid (pageOf k.record.va)
  let r := { k.record with token := tok, count := 1 }
  ({ k with token := tok },
    s.mapSide fun m =>
      { m with
        owed := if new then m.owed ++ [(k.tf, r)]
                else m.owed.map fun x => if x.2.token = tok ∧ tok ≠ 0 then (x.1, { x.2 with count := x.2.count + 1 }) else x })

/-- A walk of tenant function `t` on a core ends in a park, handled by a sector's walker; `f` says which walk, and `r` is
the waiter's record. -/
def State.parkAt (s : State) (t sector core : Nat) (f : FaultInfo) (r : FaultRecord) : Park × State :=
  State.joinToken { s with stamp := s.stamp + 1 }
    { token := 0, sector := sector, tf := t, core := core, who := f.who, access := f.walk, record := r, order := s.stamp }

/-- A party parks (R138): release actions at .SYS, for which it first waits on the peers; then it joins a token. Without
demand paging it faults TRANSLATION. -/
def State.parkParty (s : State) (p : PartyRef) (f : FaultInfo) : State :=
  let t := s.tfOf p.ctx
  let core := s.coreOf p.ctx
  if !s.parks t then s.faultParty p f
  else if s.awaitsPeers p.ctx p.grp then s.waitParty p (.hold .peers)
  else
    let (k, s) := (s.releaseActions p.ctx p.grp 5).parkAt t (Config.sectorOf core) core f (s.partyRecord p f 0 true)
    s.waitParty p (.parked k)

/-- An operation stops at a missing page (R139), or ends its team. -/
def State.parkOp (s : State) (o : Op) (f : FaultInfo) : State :=
  let t := s.tfOf o.ctx
  let f := { f with acc := f.acc ||| 0x20 }
  if s.parks t then
    let (k, s) := s.parkAt t (Config.sectorOf o.core) o.core f (s.ctxRecord o.ctx (BitVec.ofNat 8 o.grp) f 0 true)
    s.mapOp o.id fun o => { o with parked := some k }
  else s.faultCtx o.ctx (BitVec.ofNat 8 o.grp) f

/-- The end of an operation that cannot go on: parked, or its team ended with a record whose ACC bit 5 is set;
then the operation is over. -/
def State.stopOp (s : State) (o : Op) (st : Stop) : State :=
  match st with
  | .miss f => if s.parks (s.tfOf o.ctx) then s.parkOp o f else (s.parkOp o f).removeOp o.id
  | .fault f => (s.faultCtx o.ctx (BitVec.ofNat 8 o.grp) { f with acc := f.acc ||| 0x20 }).removeOp o.id
  | _ => s

/-! ## Windows and targets -/

/-- Whether a window of the tenant function covers a physical address, and whether it may be written (R31,
R34, R36). -/
def State.window (s : State) (t pa : Nat) : Bool × Bool :=
  let blk := pa / 2 ^ 21
  let ws := (s.tf t).windows.filter fun w => w.en && decide (w.base.toNat ≤ blk) && decide (blk ≤ w.limit.toNat)
  let reach :=
    if pa < Config.hbmBytes then s.inPart (s.tf t).part.toNat pa
    else if Config.svcBase ≤ pa ∧ pa < Config.svcEnd then t == 0
    else true
  (reach && !ws.isEmpty, reach && ws.any fun w => !w.ro)

def Access.load (svc : Bool) : Access := { r := true, w := false, x := false, any := false, bits := 0x01, svc := svc }
def Access.store (svc : Bool) : Access := { r := false, w := true, x := false, any := false, bits := 0x02, svc := svc }
def Access.atomic : Access := { r := true, w := true, x := false, any := false, bits := 0x0B, svc := false }
/-- A fill or spill of a split's serial record counts as a frame access for permissions (R55, R180). -/
def Access.serialRead : Access := { r := true, w := true, x := false, any := false, bits := 0x01, svc := false }
def Access.serialWrite : Access := { r := true, w := true, x := false, any := false, bits := 0x02, svc := false }
def Access.fetch : Access := { r := false, w := false, x := true, any := false, bits := 0x04, svc := false }
def Access.tenderRead : Access := { r := true, w := true, x := false, any := false, bits := 0x11, svc := false }
def Access.tenderWrite : Access := { r := true, w := true, x := false, any := false, bits := 0x12, svc := false }
def Access.engineRead : Access := { r := true, w := false, x := false, any := false, bits := 0x21, svc := false }
def Access.engineWrite : Access := { r := false, w := true, x := false, any := false, bits := 0x22, svc := false }
def Access.keeperRead : Access := { r := true, w := false, x := false, any := false, bits := 0x41, svc := false }
def Access.keeperCode : Access := { r := false, w := false, x := true, any := false, bits := 0x44, svc := false }
def Access.keeperWrite : Access := { r := false, w := true, x := false, any := false, bits := 0x42, svc := false }
def Access.keeperAtomic : Access := { r := true, w := true, x := false, any := false, bits := 0x4B, svc := false }
def Access.hint : Access := { r := true, w := false, x := false, any := false, bits := 0x01, svc := true }

/-- Whether the access changes the page: it needs D and a writable window. A fill or spill of a frame needs W
but only a spill writes. -/
def Access.writes (a : Access) : Bool := a.w && bitAt a.bits.toNat 1

/-- Whether a leaf's R, W and X allow an access (Table 01-5). -/
def Access.permitted (a : Access) (r w x : Bool) : Bool :=
  if a.any then r || w || x else (!a.r || r) && (!a.w || w) && (!a.x || x)

/-- Fields of a page-table entry (Table 01-3). -/
def pteV (e : Nat) : Bool := bitAt e 0
def pteT (e : Nat) : Bool := bitAt e 1
def pteC (e : Nat) : Bool := bitAt e 2
def pteR (e : Nat) : Bool := bitAt e 3
def pteW (e : Nat) : Bool := bitAt e 4
def pteX (e : Nat) : Bool := bitAt e 5
def pteA (e : Nat) : Bool := bitAt e 6
def pteD (e : Nat) : Bool := bitAt e 7
def pteCl (e : Nat) : BitVec 2 := BitVec.ofNat 2 (field e 8 2)
def pteWp (e : Nat) : BitVec 2 := BitVec.ofNat 2 (field e 10 2)
def ptePfn (e : Nat) : Nat := field e 12 40
def pteEv (e : Nat) : BitVec 2 := BitVec.ofNat 2 (field e 53 2)
def pteNr (e : Nat) : Bool := bitAt e 55

/-- Table 01-6 and R15: whether a leaf at a level breaks an attribute rule for an access whose physical
address is `pa`. -/
def badAttributes (e lvl pa : Nat) (a : Access) : Bool :=
  (lvl == 1 && ptePfn e % 2 ^ 9 != 0) || (lvl == 2 && ptePfn e % 2 ^ 18 != 0) || (lvl == 2 && pteC e) ||
  pteWp e == 3 || (pteCl e == 3 && (pteWp e == 0 || pteWp e == 1)) || (pteW e && !pteR e) ||
  (a.x && pteW e && pteX e) || (a.x && (pteCl e == 2 || pteCl e == 3)) ||
  (decide (Config.svcBase ≤ pa) && decide (pa < Config.svcEnd) && pteCl e != 3)

/-- Whether a physical address is a target for the access (R30, R33, R34): none, or the cause. -/
def State.noTarget (s : State) (pa : Nat) (a : Access) : Option Byte :=
  if pa < Config.hbmBytes then none
  else if Config.svcBase ≤ pa ∧ pa < Config.svcEnd then (if a.svc then none else some 0x15)
  else if Config.aperBase ≤ pa then
    let e := s.aperture pa
    if !e.v || decide (Config.hbmBytes ≤ aperOffset pa) then some 0x15
    else if e.ro && bitAt a.bits.toNat 1 then some 0x12
    else none
  else some 0x15

/-- Where a translation leads: a physical address, the page's CL, WP and EV, and the leaf's size. -/
structure Trans where
  pa   : Nat
  cl   : BitVec 2
  wp   : BitVec 2
  ev   : BitVec 2
  size : Nat
  deriving DecidableEq, Repr

/-- R10: bits [63:57] all equal bit 56. -/
def canonical (va : DWord) : Bool := va.extractLsb' 57 7 == 0 && !va.getLsbD 56 || va.extractLsb' 57 7 == 0x7F && va.getLsbD 56

/-- Bits of the virtual address below a level's index (Table 01-2). -/
def spanBits (lvl : Nat) : Nat := 9 * lvl + 12

/-- A walk for a pure task finds a leaf resident: each of its tile pages in the leaf that was not resident takes its
watch, where it can (R344, R89). The walk is the task's when it is made for a context of the task. -/
def State.watchWalk (s : State) (who : Option Nat) (va : DWord) (pa size : Nat) : State :=
  let n := size / 4096
  s.launches.foldl (fun s l =>
    match l.pure with
    | some p =>
      let got := p.missing.filter fun m => m / n == pageOf va / n
      if !got.isEmpty && s.teams.any (fun x => x.launch == l.id && who == some x.ctx) then
        let pairs := got.map fun m => (m, frameNo pa + m - pageOf va)
        let frames := s.takeWatches (pairs.map (·.2))
        s.mapLaunch l.id fun l =>
          { l with pure := some { p with
              missing := p.missing.filter fun m => !(got.contains m)
              frames := dedup (p.frames ++ frames), result := p.result ++ pairs } }
      else s
    | none => s) s

/-- The walk of R27 from level `lvl` down; `tbl` is the level's table, `last` the entry read before. R27's text does not
place the PROTECTION of a write into a read-only window (R36): it stands here with the window check, before PHYSICAL
(DESIGN CHOICE, log 99). An entry in a poisoned sector is used as it stands: the spec names no outcome for a walker that
meets one (DESIGN CHOICE, log 143). -/
def walkFrom (t core : Nat) (who : Option Nat) (va : DWord) (a : Access) (lvl tbl : Nat) (last : DWord) (lastLvl : Byte) : M Trans := do
  let s ← get
  let f (cause : Byte) (e : DWord) (l : Byte) : FaultInfo :=
    { cause := cause, va := va, entry := e, level := l, acc := a.bits, detail := 0, walk := a, who := who }
  if !(decide (tbl < Config.hbmBytes) && (s.window t tbl).1) then throw (.fault (f 0x13 last lastLvl))
  let ea := tbl + 8 * field va.toNat (spanBits lvl) 9
  let e := Memory.readLe s.side.mem ea 8
  let ew := BitVec.ofNat 64 e
  let l8 := BitVec.ofNat 8 lvl
  if !pteV e then throw (.miss (f causeTranslation ew l8))
  if pteT e then
    match lvl with
    | 0 => throw (.fault (f 0x14 ew l8))
    | k + 1 => walkFrom t core who va a k (ptePfn e * 4096) ew l8
  else
    if 2 < lvl then throw (.fault (f 0x14 ew l8))
    if !(a.permitted (pteR e) (pteW e) (pteX e)) then throw (.fault (f 0x12 ew l8))
    if pteNr e then throw (.miss (f causeTranslation ew l8))
    let pa := (ptePfn e * 4096 + va.toNat % 2 ^ spanBits lvl) % 2 ^ 52
    if badAttributes e lvl pa a then throw (.fault (f 0x14 ew l8))
    let (inside, writable) := s.window t pa
    if !inside then throw (.fault (f 0x13 ew l8))
    if a.writes && !writable then throw (.fault (f 0x12 ew l8))
    match s.noTarget pa a with
    | some c => throw (.fault (f c ew l8))
    | none => pure ()
    let e' := e ||| 0x40 ||| (if a.writes then 0x80 else 0)
    if e' != e then modify fun s => s.homeWrite [] ea ((leBytes 8 e').map some)
    let size := 2 ^ spanBits lvl
    let h : HeldTrans :=
      { core := core, asid := (s.tf t).asid, base := va.toNat / size * size, size := size, pa := pa / size * size,
        r := pteR e, w := pteW e && writable, x := pteX e && !pteW e && (pteCl e == 0 || pteCl e == 1),
        d := pteD e', cl := pteCl e, wp := pteWp e, ev := pteEv e }
    modify fun s => s.mapSide fun m =>
      { m with
        tlb := h :: m.tlb.filter fun k => !(k.core == core && k.asid == h.asid && k.base == h.base && k.size == h.size) }
    modify fun s => s.watchWalk who va pa size
    pure { pa := pa, cl := pteCl e, wp := pteWp e, ev := pteEv e, size := size }

/-- The translation that a core holds for an access, if it may be used (R23, R38). -/
def State.heldFor (s : State) (t core : Nat) (va : DWord) (a : Access) : Option Trans :=
  match s.side.tlb.find? fun h => h.core == core && h.asid == (s.tf t).asid && decide (h.base ≤ va.toNat) &&
      decide (va.toNat < h.base + h.size) with
  | some h =>
    let pa := h.pa + (va.toNat - h.base)
    if a.permitted h.r h.w h.x && (!a.writes || h.d) && (s.noTarget pa a).isNone then
      some { pa := pa, cl := h.cl, wp := h.wp, ev := h.ev, size := h.size }
    else none
  | none => none

/-- Translate one address for a tenant function on a core (R13, R27, R38), for an access of a context or, with none, of
the Keeper or the host. TTCTL.EN = 0 (Table 01-11) stops no access of a party that has one to make: the spec does not say
what such a translation does, and it walks as under EN = 1 (DESIGN CHOICE, log 140). -/
def translate (t core : Nat) (who : Option Nat) (va : DWord) (a : Access) : M Trans := do
  if !canonical va then
    throw (.fault { cause := 0x10, va := va, entry := 0, level := 0xFF, acc := a.bits, detail := 0 })
  let s ← get
  match s.heldFor t core va a with
  | some x => pure x
  | none => walkFrom t core who va a 4 ((s.tf t).root.toNat * 4096) 0 0xFF

/-- A byte run of a virtual address cut at page borders: (address, offset in the run, length). -/
def pieces (va : DWord) (n : Nat) : List (DWord × Nat × Nat) :=
  let room := 4096 - va.toNat % 4096
  if n ≤ room then [(va, 0, n)] else [(va, 0, room), (va + BitVec.ofNat 64 room, room, n - room)]

/-- Every piece of an access of at most a page translated: (where, offset, length). -/
def translateRun (t core : Nat) (who : Option Nat) (va : DWord) (n : Nat) (a : Access) : M (List (Trans × Nat × Nat)) :=
  (pieces va n).mapM fun (v, o, k) => do
    let x ← translate t core who v a
    pure (x, o, k)

end Sys2Proof.Machine
end

