-- ==== Sys2Proof/Machine/Ready.lean ====
section
/-!
DEFINITION. The causes of Table 16-1; the fetch of a clause (R159, R204 to R206); what a party's next word waits for
(R210, R211, R63), and which parties are ready (R352).
-/

namespace Sys2Proof.Machine

/-! ## Causes (Table 16-1) -/

def cIllegalInstruction : Byte := 0x01
def cIllegalClause : Byte := 0x02
def cIllegalPrefix : Byte := 0x03
def cIllegalConvergence : Byte := 0x04
def cRegbound : Byte := 0x05
def cMisaligned : Byte := 0x06
def cFpException : Byte := 0x07
def cSoftwareTrap : Byte := 0x08
def cBreakpoint : Byte := 0x09
def cPurity : Byte := 0x0A
def cMixedSize : Byte := 0x0B
def cWeightInvalid : Byte := 0x0C
def cTokenReuse : Byte := 0x0D
def cDescriptor : Byte := 0x0E
def cProtection : Byte := 0x12
def cPhysical : Byte := 0x15
def cFabric : Byte := 0x16
def cDataPoison : Byte := 0x17
def cPoolExhausted : Byte := 0x18
def cPoolDeadlock : Byte := 0x19
def cFrameCorrupt : Byte := 0x1A
def cCodeIntegrity : Byte := 0x1B
def cCodeGone : Byte := 0x1C
def cDoubleTrap : Byte := 0x1D

/-- A trap of the whole word: no ADDR, no LANES. -/
def trapWord {α : Type} (cause : Byte) (detail : Word := 0) : M α := throw (.trap cause detail 0 0)

def illegal {α : Type} : M α := trapWord cIllegalInstruction

def addrFault (cause : Byte) (va : DWord) (acc : Byte) : FaultInfo :=
  { cause := cause, va := va, entry := 0, level := 0xFF, acc := acc, detail := 0 }

/-- An access through an aperture faults FABRIC while VEN = 0 (R398). -/
def fabricUp (x : Trans) (va : DWord) (bits : Byte) : M Unit := do
  if decide (Config.aperBase ≤ x.pa) && !(← get).ctl.ven then throw (.fault (addrFault cFabric va bits))

/-- An access that waits for the peer's answer faults FABRIC when the peer refuses it, too (R33). -/
def fabricAsk (x : Trans) (va : DWord) (bits : Byte) : M Unit := do
  let (ok, s) := (← get).peerAnswers x.pa
  set s
  if !ok then throw (.fault (addrFault cFabric va bits))

/-! ## Code addresses -/

/-- The code slot of a context's launch. -/
def State.slotOf (s : State) (ctx : Nat) : CodeSlot :=
  let l := s.launchOf ctx
  (s.tf l.tf.toNat).slot l.codeSlot

/-- The start and size of the code section that a context executes from (R152, R159). -/
def State.codeStart (s : State) (ctx : Nat) : DWord :=
  let c := s.slotOf ctx
  match c.object with
  | some o => c.base + BitVec.ofNat 64 o.codeOff
  | none => c.base

def State.codeSize (s : State) (ctx : Nat) : Nat :=
  match (s.slotOf ctx).object with
  | some o => o.codeSize
  | none => 0

/-- R232: a word-aligned target inside the code section. -/
def State.targetOk (s : State) (ctx : Nat) (t : DWord) : Bool :=
  t.toNat % 4 == 0 && decide ((t - s.codeStart ctx).toNat < s.codeSize ctx)

/-! ## Fields of a clause header (Table 08-1) -/

def hdrCount (h : Word) : Nat := (h.extractLsb' 28 4).toNat
def hdrClass (h : Word) : Nat := (h.extractLsb' 25 3).toNat
def hdrWait (h : Word) : BitVec 12 := h.extractLsb' 13 12
def hdrSetA (h : Word) : Nat := (h.extractLsb' 9 4).toNat
def hdrSetB (h : Word) : Nat := (h.extractLsb' 5 4).toNat
def hdrSafe (h : Word) : Bool := h.getLsbD 4
def hdrYield (h : Word) : Bool := h.getLsbD 3

/-- The index that a trap of the current word reports: the prefix's for a prefixed word (R218). -/
def Clause.trapIdx (c : Clause) : Nat := if c.pre.isSome then c.idx - 1 else c.idx

/-- The address of the current word. -/
def Clause.wordAddr (c : Clause) : DWord := c.addr + BitVec.ofNat 64 (4 * c.idx)

/-- The address after the clause's last word: the next header. -/
def Clause.nextHeader (c : Clause) : DWord := c.addr + BitVec.ofNat 64 (4 * (hdrCount c.hdr + 1))

/-! ## The fetch of a clause -/

/-- A header's checks (Table 08-3): `w` is its word index in its line. -/
def headerOk (w : Nat) (h : Word) : Bool :=
  hdrCount h != 0 && hdrClass h != 7 && !(decide (12 ≤ hdrSetA h) && decide (hdrSetA h ≤ 14)) &&
    !(decide (12 ≤ hdrSetB h) && decide (hdrSetB h ≤ 14)) && h.extractLsb' 0 3 == 0 && decide (w + hdrCount h ≤ 63)

/-- Fetch words of one code line for a context: `n` words from `pc`. Bytes at or beyond CODE_SIZE are never read: as
in the page's hash, they count as zero (R153, R159). -/
def fetchWords (ctx : Nat) (pc : DWord) (n : Nat) : M (List Word) := do
  let s ← get
  let k := min (4 * n) (s.codeSize ctx - (pc - s.codeStart ctx).toNat)
  let x ← translate (s.tfOf ctx) (s.coreOf ctx) (some ctx) pc Access.fetch
  fabricAsk x pc 0x04
  let (bs, bad, s) := (← get).homeRead x.pa k
  set s
  if bad then throw (.fault (addrFault cDataPoison pc 0x04))
  pure ((upTo n).map fun i => BitVec.ofNat 32 (ofLe ((bs.drop (4 * i)).take 4)))

/-- The clause at an address: a header that passes its checks, and its words, under a MODE. The party of one that fails
keeps the header, whose words a return point may name (R239). -/
def fetchClause (ctx : Nat) (pc : DWord) (mode : Word) : M Clause := do
  let h := (← fetchWords ctx pc 1).headD 0
  if !headerOk (field pc.toNat 2 6) h then
    modify fun s => s.mapCurParty fun pt =>
      { pt with clause := some { addr := pc, hdr := h, words := [], idx := 0, pre := none, mode := mode } }
    throw (.trap cIllegalClause 0 0 0)
  let ws ← fetchWords ctx pc (hdrCount h + 1)
  pure { addr := pc, hdr := h, words := ws.drop 1, idx := 1, pre := none, mode := mode }

/-- The code page of an address is verified (R159). -/
def State.codeKnown (s : State) (ctx : Nat) (pc : DWord) : Bool :=
  match (s.slotOf ctx).object with
  | some o => o.verified.contains ((pc - s.codeStart ctx).toNat / 65536)
  | none => false

/-- The flags that a header waits on are all zero. -/
def Group.waitMet (g : Group) (h : Word) : Bool :=
  (upTo 12).all fun n => !(hdrWait h).getLsbD n || g.flags.getD n 0 == 0

/-! ## What holds a word -/

/-- What an absent prefix acts as (R218). -/
def Prefix.absent : Prefix := { sel := 0, zero := 0, rnd := 0, fourth := 0, kind := 0, amount := 0 }

/-- The active set of a party's word under a mask select (R175). -/
def Group.activeLanes (g : Group) (who : Option Nat) (sel : BitVec 4) : DWord :=
  let own := g.mask who &&& onesBelow g.width
  if sel = 0 then own else own &&& g.m.getD sel.toNat 0

/-- Whether a word writes only some lanes of its destination, so that the others must be at hand. -/
def Group.keepsLanes (g : Group) (who : Option Nat) (pre : Option Prefix) : Bool :=
  let p := pre.getD Prefix.absent
  p.zero == 0 && g.activeLanes who p.sel != onesBelow g.width

/-- The first register of a party's next word that only the frame in memory holds (R63). -/
def Group.needFill (g : Group) (who : Option Nat) (w : Word) (pre : Option Prefix) : Option Nat :=
  let u := g.uses w pre
  (u.v ++ (if g.keepsLanes who pre then u.vd else [])).find? fun n => decide (n < g.budget) && g.v.getD n .zero == .inFrame

/-- R211: an operation of the group in flight has still to write, or to read, a register that the word reads or
writes. A word that only reads does not wait for a step that reads (R308). -/
def Op.holds (o : Op) (u : Uses) : Bool :=
  let all := u.reads.union u.writes
  o.dst.meets all || o.src.meets (match o.kind with | .mma .. => u.writes | _ => all)

/-- Words of the HVU. -/
def OpKind.isHv : OpKind → Bool
  | .hv _ | .hvld .. | .hvst .. | .hvnear .. => true
  | _ => false

/-- MODER of FSTAT, which waits for every earlier word of the HVU (R316). -/
def readsFstat (w : Word) : Bool := opOf w == 0x7B && field w.toNat 21 3 == 3

def State.scoreboard (s : State) (ctx grp : Nat) (w : Word) (pre : Option Prefix) : Bool :=
  let u := (s.groupAt ctx grp).uses w pre
  s.ops.any fun o => o.ctx == ctx && o.grp == grp && (o.holds u || (readsFstat w && o.kind.isHv))

/-- Whether a word counts on a flag (R210): memory words but FENCE, copies, collectives, LDW and MMA, HVLD, HVST and
HVNEAR, and task words. The other words of Forms M and X hold fb = 0 and count on none (R302, R316). -/
def flagWord (w : Word) : Bool :=
  let op := opOf w
  (decide (0x5C ≤ op) && decide (op ≤ 0x66) && !(op == 0x66 && field w.toNat 20 2 == 0)) ||
    [0x68, 0x6A, 0x6C, 0x6D, 0x71, 0x75, 0x78, 0x79].contains op

/-- The flag that fb chooses in a clause: none when the header's field is not 0 to 11. -/
def Clause.flagOf (c : Clause) (fb : BitVec 1) : Option Nat :=
  let n := if fb = 0 then hdrSetA c.hdr else hdrSetB c.hdr
  if n < 12 then some n else none

/-- The word's flag stands at 63 (R210). -/
def Group.flagFull (g : Group) (c : Clause) : Bool :=
  flagWord c.curWord &&
    (match c.flagOf (c.curWord.extractLsb' 24 1) with
     | some n => decide (63 ≤ g.flags.getD n 0)
     | none => false)

/-- Flagless operations of a group are outstanding (R113); a store that only awaits its peer has completed. -/
def State.flagless (s : State) (ctx grp : Nat) : Bool :=
  s.ops.any fun o => o.ctx == ctx && o.grp == grp && o.flag.isNone &&
    (match o.kind with | .start _ | .posted _ => false | _ => true)

/-- Steps on a tile that the array has accepted, from any group of the team. -/
def State.stepsOn (s : State) (ctx tile : Nat) : Bool :=
  s.ops.any fun o => o.ctx == ctx && (match o.kind with | .mma _ _ t _ _ => t == tile | _ => false)

/-- The accumulator tile whose accepted steps a word awaits: ACCWR, ACCZ, ACCCVT, ACCALLOC and ACCFREE (R211, R308). -/
def stepsTile (w : Word) : Option Nat :=
  let n := w.toNat
  if (opOf w = 0x6E ∨ opOf w = 0x6F) ∧ field n 22 1 = 1 then some (field n 8 3)
  else if opOf w = 0x6F ∨ opOf w = 0x70 then some (field n 15 3)
  else none

/-- Whether the Tender is moving a run that a party of the team shares (R282). -/
def State.moving (s : State) (ctx : Nat) : Bool :=
  s.allParties.any fun p => p.ctx == ctx && (match (s.partyOf p).wait with | .pshare .. => true | _ => false)

/-- A store of the group to INVCMD is held at the service window, or one waits behind it (R148). -/
def State.serviceHeld (s : State) (ctx grp : Nat) : Bool :=
  (s.tfs.any fun t => t.2.invHeld.any fun x => x.2.any fun (c, g, _) => c == ctx && g == grp) ||
    s.ctl.behind.any fun x => x.1.1 == ctx && x.1.2.1 == grp

/-- What held a party's word is over. -/
def State.holdOver (s : State) (p : PartyRef) (h : Hold) : Bool :=
  match h with
  | .flagless => !s.flagless p.ctx p.grp
  | .flag n => decide ((s.groupAt p.ctx p.grp).flags.getD n 0 < 63)
  | .scoreboard => !s.scoreboard p.ctx p.grp (s.partyOf p).word (s.partyOf p).pre
  | .steps tile => !s.stepsOn p.ctx tile
  | .moving => !s.moving p.ctx
  | .service => !s.serviceHeld p.ctx p.grp
  | .peers => !s.awaitsPeers p.ctx p.grp

/-! ## Ready parties (R352) -/

/-- A party whose team is on its core with all that it needs there (R66), and its recorded slices presented (R368). -/
def State.onCore (s : State) (p : PartyRef) : Bool :=
  let t := s.teamAt p.ctx
  t.resident && t.unfilled.isEmpty && t.refill.isNone && t.pendingSlices.isEmpty && !(s.groupAt p.ctx p.grp).ctlOut

/-- Give a register format 4 (R60, R61). -/
def Group.killReg (g : Group) (n : Nat) : Group :=
  { g with v := g.v.set n .zero, vPoison := g.vPoison.filter (· != n) }

/-- The word offset of an address in the code section (Table 02-9). -/
def woff (start pc : DWord) : Nat := (pc - start).toNat / 4 % 2 ^ 26

/-- The live mask of a safe point (R61): a header without an entry is live in every block. -/
def State.liveMask (s : State) (ctx : Nat) (pc : DWord) : Word :=
  match (s.slotOf ctx).object with
  | some o => look (o.safe.map fun x => (x.1, x.2)) (woff (s.codeStart ctx) pc) 0xFFFFFFFF
  | none => 0xFFFFFFFF

/-- Registers of the dead blocks take format 4. -/
def Group.applyLive (g : Group) (mask : Word) : Group :=
  ((upTo g.budget).filter fun n => !mask.getLsbD (n / 8)).foldl (fun g n => g.killReg n) g

/-- A group after the live mask of a clause, if its header is a safe point. -/
def State.afterLive (s : State) (c : Clause) (g : Group) : Group :=
  if hdrSafe c.hdr then g.applyLive (s.liveMask g.ctx c.addr) else g

/-- A word's operands are at hand in its group, and the scoreboard, over registers and accumulators (R211), and its flag
allow it. -/
def State.wordMet (s : State) (g : Group) (p : PartyRef) (c : Clause) : Bool :=
  (g.needFill p.frag c.curWord c.pre).isNone && !s.scoreboard p.ctx p.grp c.curWord c.pre &&
    (stepsTile c.curWord).all (fun t => !s.stepsOn p.ctx t) && !g.flagFull c

/-- The next word of a party in a clause may issue, a prefix with the word after it. No unit of Kutil is given a limit to
what it accepts (log 101). -/
def State.wordReady (s : State) (p : PartyRef) (c : Clause) : Bool := s.wordMet (s.groupAt p.ctx p.grp) p c.ahead

/-- The WAIT of the header that a party stands at is met, and the clause's first word may issue after its live mask. A
clause that cannot be fetched or whose page is not verified is found out by starting. -/
def State.headerMet (s : State) (p : PartyRef) : Bool :=
  let pc := (s.partyOf p).pc
  let g := s.groupAt p.ctx p.grp
  if s.targetOk p.ctx pc && s.codeKnown p.ctx pc then
    match fetchClause p.ctx pc 0 s with
    | .ok c _ => g.waitMet c.hdr && s.wordMet (s.afterLive c g) p c.ahead
    | .error _ _ => true
  else true

/-- A party is ready: it waits for nothing, its header's WAIT is met, and its next word may issue. -/
def State.isReady (s : State) (p : PartyRef) : Bool :=
  let pt := s.partyOf p
  pt.wait == .none && !pt.stopped && s.onCore p &&
    (match pt.clause with
     | some c => s.wordReady p c
     | none => s.headerMet p)

/-! ## Quadrants -/

/-- The parties of a quadrant of a core whose teams are resident there. -/
def State.quadParties (s : State) (core quad : Nat) : List PartyRef :=
  s.allParties.filter fun p => s.coreOf p.ctx == core && (s.teamAt p.ctx).resident && p.grp % 4 == quad

/-- A ready party of the pending set (R354). -/
def State.pendingReady (s : State) (p : PartyRef) : Bool := !(s.partyOf p).active && s.isReady p

/-- Since when the parties of the pending set are ready: from the cycle in which the quadrant first finds them so (R354,
R355). -/
def State.noteReady (s : State) : State :=
  s.allParties.foldl (fun t p =>
    let now := s.pendingReady p
    if now == (s.partyOf p).wasReady then t
    else t.mapPartyOf p fun pt => { pt with wasReady := now, ready := if now then s.clock.toNat else pt.ready }) s

/-- YIELD and Y = 1: the party leaves the active set when a ready party is pending (R212, R240, R354). -/
def State.yieldSlot (s : State) (p : PartyRef) : State :=
  if ((s.quadParties (s.coreOf p.ctx) (p.grp % 4)).any s.pendingReady) then
    s.mapPartyOf p fun pt => { pt with active := false, ready := s.clock.toNat }
  else s

/-- Parties of a context whose word held, or that wait at a header, and may now go on (R354). -/
def State.unhold (s : State) (ctx : Nat) : State :=
  let free (p : PartyRef) (pt : Party) : Party :=
    match pt.wait with
    | .hold h => if s.holdOver p h then s.readyParty pt else pt
    | .header h => if (s.groupAt p.ctx p.grp).waitMet h then s.readyParty pt else pt
    | _ => pt
  { s with
    groups := s.groups.map fun g =>
      if g.ctx = ctx then
        { g with
          main := free { ctx := g.ctx, grp := g.idx, frag := none } g.main
          frags := (g.frags.zip (upTo g.frags.length)).map fun (f, e) =>
            { f with party := free { ctx := g.ctx, grp := g.idx, frag := some e } f.party } }
      else g }

end Sys2Proof.Machine
end

