-- ==== Sys2Proof/Machine/Ops.lean ====
section
/-!
DEFINITION. The operations that the meanings share: reading and writing a group's registers, the end of a word
and of a clause (R209), taking a trap (R361) and the return from it (R239), flags (R210), energy (R357),
purity (R345, R346).
-/

namespace Sys2Proof.Machine

abbrev Out := Host.Outcome State Fault Refusal

/-! ## The issuing group -/

def curGroup : M Group := do return (← get).curGroup

def curFrag : M (Option Nat) := do return (← get).cur.frag

def mapCur (f : Group → Group) : M Unit := modify fun s => s.mapCur f

/-- The party's own mask (R177). -/
def curMask : M DWord := do return (← curGroup).mask (← curFrag)

/-- A scalar register; a write of one clears its poison (R65, R315). -/
def Group.readS (g : Group) (n : Nat) : DWord := g.s.getD n 0

def Group.writeS (g : Group) (n : Nat) (v : DWord) : Group :=
  { g with s := g.s.set n v, sPoison := g.sPoison.filter (· != n) }

def State.writeS (s : State) (n : Nat) (v : DWord) : State := s.mapCur fun g => g.writeS n v

/-- A mask register as a party reads it: register 0 is the party's own mask (R246). Bits at and above W are
zero (R175). -/
def Group.readM (g : Group) (who : Option Nat) (n : Nat) : DWord :=
  if n = 0 then g.mask who else g.m.getD n 0

/-- The lanes that other live parties of the group hold. -/
def Group.otherLanes (g : Group) (who : Option Nat) : DWord :=
  (g.parties.filter fun w => w != who).foldl (fun m w => m ||| g.mask w) 0

/-- The MODE in force for the current clause (R200). -/
def State.curMode (s : State) : Word :=
  match s.curParty.clause with
  | some c => c.mode
  | none => s.curGroup.mode

/-! ## The end of a clause -/

/-- A clause boundary: an ending group's party retires (R414); a party of a team that is hard-stopped stops
(R366). -/
def State.boundary (s : State) (p : PartyRef) : State :=
  if (s.groupAt p.ctx p.grp).ending then s.retireParty p
  else if (s.teamAt p.ctx).hard then s.mapPartyOf p fun pt => { pt with stopped := true, active := false }
  else s

/-- The clause of a party ends and the party continues at a header (R209). -/
def State.endClause (s : State) (p : PartyRef) (target : DWord) : State :=
  let y := match (s.partyOf p).clause with
    | some c => hdrYield c.hdr
    | none => false
  let s := s.mapPartyOf p fun pt => { pt with pc := target, clause := none, wait := .none }
  let s := if y then s.yieldSlot p else s
  s.boundary p

/-- The current word has issued: the next word of its clause, or the next header. -/
def State.advance (s : State) : State :=
  match s.curParty.clause with
  | none => s
  | some c =>
    if c.idx < hdrCount c.hdr then
      s.mapCurParty fun pt => { pt with clause := some { c with idx := c.idx + 1, pre := none }, wait := .none }
    else s.endClause s.cur c.nextHeader

/-! ## Completion (R210) -/

/-- The bytes of a group's frame (R55), and the granules of its region. -/
def Group.frameSize (g : Group) : Nat := g.budget * g.width * 4 + 64 * ((g.budget + 63) / 64) + 512

def Group.frameGranules (g : Group) : Nat := (g.frameSize + 4095) / 4096

/-- The slot state of a group whose team is saved changes: a retained granule that holds it is again not yet written
(Table 02-4). -/
def State.touchFrame (s : State) (ctx grp : Nat) : State :=
  if (s.teamAt ctx).resident then s
  else
    let g := s.groupAt ctx grp
    { s with
      poolMap := s.poolMap.map fun (k, e) =>
        (k, if e.ctx = ctx ∧ e.region = .frame ∧ !e.retired ∧ g.frameAt ≤ e.wg ∧ e.wg < g.frameAt + g.frameGranules then
              { e with dirty := true } else e) }

/-- A flag falls: in the control area, or once that is read back when it lies only in memory (R56, R120). -/
def Group.fall (g : Group) (n : Nat) : Group :=
  let g := { g with flags := modifyAt g.flags n (· - 1) }
  if g.ctlOut then { g with late := { g.late with fell := g.late.fell ++ [n] } } else g

/-- A flag's count falls by one, for none no flag; what waited for it looks again. -/
def State.dropFlag (s : State) (ctx grp : Nat) (flag : Option Nat) : State :=
  (match flag with
   | some n => (s.mapGroup ctx grp fun g => g.fall n).touchFrame ctx grp
   | none => s).unhold ctx

/-- An operation completes. Its group may have waited for it to exit (R120). -/
def State.finishOp (s : State) (o : Op) : State :=
  ((s.removeOp o.id).dropFlag o.ctx o.grp o.flag).groupExit o.ctx o.grp

def OpKind.isLoad : OpKind → Bool
  | .load => true
  | _ => false

/-- Every load of a group completes: its flag falls. The value of each has been written. -/
def State.finishLoads (s : State) (ctx grp : Nat) : State :=
  (s.ops.filter fun o => o.ctx == ctx && o.grp == grp && o.kind.isLoad).foldl State.finishOp s

/-! ## Traps (R360 to R363) -/

/-- The flags that were not zero, as OUT (Table 16-2). -/
def Group.outFlags (g : Group) : Nat := (upTo 12).foldl (fun n i => if g.flags.getD i 0 = 0 then n else n + 2 ^ i) 0

/-- A trap of the issuing party (R361): DOUBLE_TRAP in the handler party, a hold behind another party's handler (at
the header for a trap raised there), a fault without a handler; otherwise release actions at .TEAM, the group's loads
completed (log 11), the record, HB, and the PC at the handler. `ret` is the return point (R238). -/
def State.takeTrap (s : State) (cause : Byte) (detail : Word) (addr lanes ret : DWord) : State :=
  let g := s.curGroup
  let p := s.cur
  let pt := s.curParty
  let (hdr, w) : DWord × Nat := match pt.clause with
    | some c => (c.addr, c.trapIdx)
    | none => (pt.pc, 0)
  if g.trap.hb && g.trap.owner == p.frag then s.faultParty p { plainFault cDoubleTrap (cause.setWidth 32) with va := addr }
  else if g.trap.hb then
    s.mapCurParty fun pt => { pt with wait := .handler, active := false, clause := pt.clause.filter fun c => 0 < c.idx }
  else if g.handler = 0xFFFFFFFF then s.faultParty p { plainFault cause detail with va := addr }
  else
    let s := (s.releaseActions p.ctx p.grp 1).finishLoads p.ctx p.grp
    let g := s.curGroup
    let words : List DWord :=
      [detail.setWidth 64 <<< 32 ||| BitVec.ofNat 64 (w * 256) ||| cause.setWidth 64, hdr, ret, g.mask p.frag, addr,
       lanes, g.fstat.setWidth 64 <<< 12 ||| BitVec.ofNat 64 g.outFlags, g.trap.words.getD 7 0]
    let s := s.mapCur fun g => { g with trap := { hb := true, owner := p.frag, words := words, clause := pt.clause } }
    let s := s.mapCurParty fun pt =>
      { pt with pc := s.codeStart p.ctx + 4 * g.handler.setWidth 64, clause := none, wait := .none }
    s.boundary p

/-- The return point of every trap but TRAP and BKPT: the trapping word, or its prefix (R238). -/
def State.trapRet (s : State) : DWord :=
  match s.curParty.clause with
  | some c => c.addr + BitVec.ofNat 64 (4 * c.trapIdx)
  | none => s.curParty.pc

/-- ERET (R239): the mask that the record holds comes back under R245's rule `mask`, HB is cleared, the
parties held behind the handler go on, and the party continues at the return point: inside the trapping
clause when it is one of its words, under the MODE in force for the ERET (R200), otherwise at a header. A return point that the handler set to the second
word of a prefixed pair runs that word without its prefix (DESIGN CHOICE, log 131). -/
def State.eret (s : State) (mask : DWord) : State :=
  let g := s.curGroup
  let mode := s.curMode
  let ret := g.trap.words.getD 2 0
  let s := s.mapCur fun g =>
    let wake (pt : Party) : Party := if pt.wait = .handler then s.readyParty pt else pt
    { (g.setMask s.cur.frag mask) with
      trap := { g.trap with hb := false, owner := none, clause := none }
      main := wake g.main
      frags := (g.setMask s.cur.frag mask).frags.map fun f => { f with party := wake f.party } }
  match g.trap.clause with
  | some c =>
    let k := (ret - c.addr).toNat
    if 0 < k ∧ k % 4 = 0 ∧ k / 4 ≤ hdrCount c.hdr then
      let y := match s.curParty.clause with
        | some h => hdrYield h.hdr
        | none => false
      let s := s.mapCurParty fun pt =>
        { pt with pc := c.addr, clause := some { c with idx := k / 4, pre := none, mode := mode }, wait := .none }
      if y then s.yieldSlot s.cur else s
    else s.endClause s.cur ret
  | none => s.endClause s.cur ret

/-! ## Energy (R356, R357) -/

/-- Add units of 2^-16 nJ to a context's counter, which stays at its greatest value. -/
def State.chargeUnits (s : State) (ctx units : Nat) : State :=
  s.mapTeam ctx fun t => { t with energy := BitVec.ofNat 64 (min (t.energy.toNat + units) (2 ^ 64 - 1)) }

/-- An energy class (Table 15-3) with its factor: 1, or W/16. -/
structure Energy where
  cls : Nat
  vec : Bool
  deriving DecidableEq, Repr

/-- What one issued word of the current group charges. -/
def State.charge (s : State) (e : Energy) : State :=
  s.chargeUnits s.cur.ctx (s.weight e.cls * (if e.vec then s.curGroup.width / 16 else 1))

/-! ## Running a word -/

/-- The party waits in its clause; it leaves the active set (R354). -/
def State.waitCur (s : State) (w : Wait) : State :=
  s.waitParty s.cur w

/-- A party has a word to issue: it is past its clause's header. -/
def Party.inWord (pt : Party) : Bool := pt.clause.any fun c => decide (0 < c.idx)

/-- A quadrant issues a word to the scalar pipe, or another, in a cycle. -/
def Quadrant.issue (q : Quadrant) (scalar : Bool) (now : Nat) : Quadrant :=
  if scalar then { q with scalar := some now } else { q with other := some now }

/-- The issue of a party's word: its cycle and side, for the party and for its quadrant (R353). A party at a header
issues nothing. -/
def State.stampIssue (s : State) : State :=
  let now := s.clock.toNat
  let side := scalarOp (opOf s.curParty.word)
  { (s.mapCurParty fun pt => if pt.inWord then { pt with issued := now, last := some (now, side) } else pt) with
    quads := if s.curParty.inWord then (s.mapQuad (s.coreOf s.cur.ctx) (s.cur.grp % 4) fun q => q.issue side now).quads else s.quads
    stamp := s.stamp + 1 }

/-- How a word ends that does not complete: a trap is taken, a fault ends the team, a missing page parks, and a word
that waits or holds leaves its party there (R209, R138). -/
def State.endWord (s : State) (ret : DWord) : Stop → State
  | .trap c d a l => s.takeTrap c d a l ret
  | .fault f => s.faultParty s.cur f
  | .miss f => s.parkParty s.cur f
  | .wait w => s.waitCur w
  | .hold h => s.waitCur (.hold h)

/-- A stop with which a word has issued but not yet charged: a missing page on which it parks. One that cannot park
faults (R143). -/
def State.willPark (s : State) (st : Stop) : Bool :=
  match st with
  | .miss _ => s.parks (s.tfOf s.cur.ctx)
  | _ => false

/-- An issued word that stopped. One that traps, faults or begins to wait has issued and charges (R357); one that parks
has issued, and charges when it has executed again (log 118); one that holds has not issued. -/
def State.stopWord (s : State) (e : Energy) (ret : DWord) (st : Stop) : State :=
  match st with
  | .hold _ => s.endWord ret st
  | _ => (if s.willPark st then s else s.charge e).stampIssue.endWord ret st

/-- Run a word that goes on to the next word. A word that holds has done nothing: its party waits until what holds it is
over (R210, R211). -/
def runWord (e : Energy) (m : M Unit) (s : State) : State :=
  match m s with
  | .ok _ t => (t.charge e).stampIssue.advance
  | .error (.hold h) _ => s.waitCur (.hold h)
  | .error st t => t.stopWord e s.trapRet st

/-- Run a control transfer: it continues at the target it answers, or at the next word for none. -/
def runTransfer (m : M (Option DWord)) (s : State) : State :=
  match m s with
  | .ok none t => (t.charge ⟨0, false⟩).stampIssue.advance
  | .ok (some a) t => ((t.charge ⟨0, false⟩).stampIssue).endClause s.cur a
  | .error (.hold h) _ => s.waitCur (.hold h)
  | .error st t => t.stopWord ⟨0, false⟩ s.trapRet st

/-! ## Flags (R210) -/

/-- The flag that a word's fb bit chooses: none when the header's field is not 0 to 11. -/
def State.flagOf (s : State) (fb : BitVec 1) : Option Nat := s.curParty.clause.bind fun c => c.flagOf fb

/-- Count an operation on the flag that fb chooses; at 63 the word holds. -/
def countFlag (fb : BitVec 1) : M (Option Nat) := do
  let s ← get
  match s.flagOf fb with
  | none => pure none
  | some n =>
    if 63 ≤ s.curGroup.flags.getD n 0 then throw (.hold (.flag n))
    mapCur fun g => { g with flags := modifyAt g.flags n (· + 1) }
    pure (some n)

/-- An operation writes a scalar register of its group: in the control area, or once that is read back (R56, R120). -/
def Group.opWriteS (g : Group) (n : Nat) (v : DWord) : Group :=
  let g := g.writeS n v
  if g.ctlOut then { g with late := { g.late with regs := g.late.regs ++ [n] } } else g

def State.opWriteS (s : State) (ctx grp n : Nat) (v : DWord) : State :=
  (s.mapGroup ctx grp fun g => g.opWriteS n v).touchFrame ctx grp

/-- An operation sets FSTAT bits of its group. -/
def Group.opFlags (g : Group) (bits : Word) : Group :=
  let g := { g with fstat := g.fstat ||| bits }
  if g.ctlOut then { g with late := { g.late with fstat := g.late.fstat ||| bits } } else g

def State.opFlags (s : State) (ctx grp : Nat) (bits : Word) : State :=
  (s.mapGroup ctx grp fun g => g.opFlags bits).touchFrame ctx grp

/-- What counts an operation: its flag, or 12 for none. -/
def flagKey (flag : Option Nat) : Nat := flag.getD 12

/-- An operation that wrote tenant memory completes: the wait that sees it will act on it (R113). -/
def State.landOp (s : State) (o : Op) : State :=
  s.mapGroup o.ctx o.grp fun g => { g with landed := put g.landed (flagKey o.flag) s.stamp }

/-- A wait sees that the operations of these flags are over: the core discards the clean L1 sectors filled before the
last of those that wrote tenant memory completed (R113). -/
def State.seeLanded (s : State) (ctx grp : Nat) (seen : Nat → Bool) : State :=
  let hits := (s.groupAt ctx grp).landed.filter fun x => seen x.1
  let s := s.mapGroup ctx grp fun g => { g with landed := g.landed.filter fun x => !seen x.1 }
  hits.foldl (fun s x => s.l1DiscardBefore (s.coreOf ctx) x.2) s

/-- A deferred trap joins those pending in a group, in issue order (R305). -/
def State.defer (s : State) (o : Op) (cause : Byte) (detail : Word) : State :=
  s.mapGroup o.ctx o.grp fun g =>
    { g with
      deferred := insertBy (fun a b => decide (a.op ≤ b.op)) { op := o.id, cause := cause, detail := detail, flag := o.flag } g.deferred }

/-- The registers that the current word's operation has still to write and to read (R211). -/
def State.curRegs (s : State) : RegSet × RegSet :=
  opRegs s.curParty.word (s.curGroup.uses s.curParty.word s.curParty.pre)

/-- Issue an operation under the flag that fb chooses. -/
def issueOp (fb : BitVec 1) (k : OpKind) : M Unit := do
  let flag ← countFlag fb
  modify fun s => s.addOp s.cur.ctx s.cur.grp flag k s.curRegs

/-! ## Purity (R345, R346) -/

/-- A word violates purity: the task is demoted, and with PV = 1 the word traps PURITY before any other check. -/
def impure : M Unit := do
  let s ← get
  let l := s.launchOf s.cur.ctx
  if l.isPure then
    modify fun s => s.mapLaunch l.id fun l => { l with pure := l.pure.map fun p => { p with clean := false } }
    if l.pv then trapWord cPurity

/-- Whether a byte lies in a group's frame (R55), or in its serial area, the last 384 bytes of the frame's rounding
(R180). -/
def Group.inFrame (g : Group) (a : DWord) : Bool := decide ((a - g.frame).toNat < g.frameSize)

def Group.inSerial (g : Group) (a : DWord) : Bool :=
  let off := (a - g.frame).toNat
  decide (4096 * g.frameGranules - 384 ≤ off) && decide (off < 4096 * g.frameGranules)

/-- Whether a pure task may read, or write, a byte of tenant memory: serial areas it may only read, but for the records
that its splits write themselves (R180, R345). -/
def State.pureMayTouch (s : State) (ctx : Nat) (write : Bool) (a : DWord) : Bool :=
  let l := s.launchOf ctx
  (s.groups.any fun g => g.ctx == ctx && (g.inFrame a || (!write && g.inSerial a))) || (if write then inTile (l.tile 4) a else (upTo l.nArgs).any fun i => inTile (l.tile i) a)

/-- Check one access of a group word for purity: `n` bytes at `a`. -/
def pureCheck (write : Bool) (a : DWord) (n : Nat) : M Unit := do
  let s ← get
  if (s.launchOf s.cur.ctx).isPure then
    if (upTo n).all fun i => s.pureMayTouch s.cur.ctx write (a + BitVec.ofNat 64 i) then pure () else impure

/-! ## Full masks (R176) -/

/-- LDW, MMA, MMAZ, ACCWR and the copy and collective words need a main side that holds every lane. -/
def needFullMask : M Unit := do
  let g ← curGroup
  if (← curFrag).isSome || (← curMask) != onesBelow g.width then trapWord cIllegalConvergence

end Sys2Proof.Machine
end

