-- ==== Sys2Proof/Machine/Operands.lean ====
section
/-!
DEFINITION. Operand forms: selectors (R214), immediates (R215), the prefix on vector words (R218 to R220), the
active set and the common model of vector words (R175, R247, R249), and register runs (R164, R268).
-/

namespace Sys2Proof.Machine

/-! ## Immediates (R215) -/

/-- The Imm column: s or z. -/
inductive ImmExt where
  | s
  | z
  deriving DecidableEq, Repr

def ext64 (e : ImmExt) (b : BitVec 8) : DWord :=
  match e with
  | .s => b.signExtend 64
  | .z => b.setWidth 64

/-! ## Form S (Table 08-6, right column) -/

/-- A constant register of a context (R42). -/
def State.readK (s : State) (ctx n : Nat) : DWord := (s.launchOf ctx).consts.getD n 0

/-- A Form S selector as the issuing party reads it. -/
def State.selS (s : State) (n : BitVec 8) : DWord :=
  let k := n.toNat
  if k < 0x80 then 0
  else if k < 0xC0 then s.readK s.cur.ctx (k - 0x80)
  else if k < 0xE0 then s.curGroup.readS (k - 0xC0)
  else if k < 0xF0 then s.curGroup.readM s.cur.frag (k - 0xE0)
  else 0

/-- Operand b of Form S: a selector, or an immediate when I = 1. -/
def State.srcB (s : State) (e : ImmExt) (i : BitVec 1) (b : BitVec 8) : DWord :=
  if i = 1 then ext64 e b else s.selS b

/-! ## Vector registers (R59, R214) -/

/-- The value of a lane of a vector register; format 4 reads zero. -/
def VReg.lane (r : VReg) (l : Nat) : Word :=
  match r with
  | .raw ls => ls.getD l 0
  | _ => 0

def Group.lane (g : Group) (n l : Nat) : Word := (g.v.getD n .zero).lane l

/-- Write lanes of a register: where `f` answers a value it stands, the other lanes keep theirs. A register
that no lane is written of keeps its format; one that is written whole loses its poison (R59, R65). -/
def Group.writeLanes (g : Group) (n : Nat) (f : Nat → Option Word) : Group :=
  let lanes := upTo g.width
  if lanes.all fun l => (f l).isNone then g
  else
    { g with
      v := g.v.set n (.raw (lanes.map fun l => (f l).getD (g.lane n l)))
      vPoison := if lanes.all fun l => (f l).isSome then g.vPoison.filter (· != n) else g.vPoison }

/-! ## Prefixes (R218, R219) -/

/-- The prefix that qualifies the current word. -/
def State.curPrefix (s : State) : Option Prefix := s.curParty.pre

/-- The active set of a word under a mask select (R175). -/
def State.active (s : State) (sel : BitVec 4) : DWord := s.curGroup.activeLanes s.cur.frag sel

/-- What a vector word works on: its group, constants, active set, zeroing, prefix, MODE and lanes. -/
structure VCtx where
  g      : Group
  who    : Option Nat
  consts : List DWord
  act    : DWord
  z      : Bool
  pre    : Prefix
  hasPre : Bool
  mode   : Word
  deriving DecidableEq, Repr

def VCtx.w (c : VCtx) : Nat := c.g.width

def VCtx.on (c : VCtx) (l : Nat) : Bool := c.act.getLsbD l

/-- The lane of a that lane l reads (Table 08-10). -/
def VCtx.permLane (c : VCtx) (l : Nat) : Nat :=
  let n := c.pre.amount.toNat % c.w
  match c.pre.kind.toNat with
  | 1 => (l + n) % c.w
  | 2 => n
  | 3 => l ^^^ n
  | 4 => c.w - 1 - l
  | _ => l

/-- Source a in lane l, permuted. -/
def VCtx.srcA (c : VCtx) (a : BitVec 7) (l : Nat) : Word := c.g.lane a.toNat (c.permLane l)

/-- A Form A selector in lane l (Table 08-6, left column). -/
def VCtx.sel (c : VCtx) (n : BitVec 8) (l : Nat) : Word :=
  let k := n.toNat
  if k < 0x80 then c.g.lane k l
  else if k < 0xC0 then (c.consts.getD (k - 0x80) 0).setWidth 32
  else if k < 0xE0 then (c.g.readS (k - 0xC0)).setWidth 32
  else if k < 0xF0 then ofBool32 ((c.g.readM c.who (k - 0xE0)).getLsbD l)
  else if k = 0xF1 then BitVec.ofNat 32 l
  else 0

/-- The fourth operand in lane l: the prefix's selector, or the prior value of vd (R218). -/
def VCtx.fourth (c : VCtx) (d : BitVec 7) (l : Nat) : Word :=
  if c.hasPre then c.sel c.pre.fourth l else c.g.lane d.toNat l

/-- Selectors that a Form A word may name. -/
def selOkV (n : BitVec 8) : Bool := decide (n.toNat < 0xF2)

/-- The vector registers that a selector names. -/
def selRegs (n : BitVec 8) : List Nat := if n.toNat < 0x80 then [n.toNat] else []

def bRegs (i : BitVec 1) (b : BitVec 8) : List Nat := if i = 1 then [] else selRegs b

/-- R164, R65: a register at or above the budget raises REGBOUND; a poisoned source faults. -/
def checkRegs (named sources : List Nat) : M Unit := do
  let g ← curGroup
  match named.find? fun n => decide (g.budget ≤ n) with
  | some n => trapWord cRegbound (BitVec.ofNat 32 n)
  | none => if sources.any g.vPoison.contains then throw (.fault (plainFault cDataPoison 0))

/-- The bounds of named registers alone. -/
def checkBounds (named : List Nat) : M Unit := checkRegs named []

/-- The prefix checks of vector words (R219, Table 08-10): rounding 111, a permutation kind above 4, an amount
where it must be 0, and any permutation where `perm` is false. -/
def prefixOk (perm : Bool) (p : Prefix) : Bool :=
  p.rnd != 7 && decide (p.kind.toNat ≤ 4) &&
    (p.amount == 0 || p.kind == 1 || p.kind == 2 || p.kind == 3) && (perm || p.kind == 0)

/-- The context of a vector word after its prefix checks. -/
def vctx (perm : Bool := true) : M VCtx := do
  let s ← get
  let p := s.curPrefix.getD Prefix.absent
  if !prefixOk perm p then illegal
  pure { g := s.curGroup, who := s.cur.frag, consts := (s.launchOf s.cur.ctx).consts, act := s.active p.sel,
         z := p.zero == 1, pre := p, hasPre := s.curPrefix.isSome, mode := s.curMode }

/-- The prefix checks of the four words that read a fourth operand (R219). -/
def fourthOk (c : VCtx) : M Unit := if c.hasPre && !selOkV c.pre.fourth then illegal else pure ()

def VCtx.fourthRegs (c : VCtx) : List Nat := if c.hasPre then selRegs c.pre.fourth else []

/-- What R247 writes into lane l of a destination. -/
def VCtx.put (c : VCtx) (f : Nat → Word) (l : Nat) : Option Word :=
  if c.on l then some (f l) else if c.z then some 0 else none

/-- Write vd as R247 gives. -/
def VCtx.write (c : VCtx) (d : Nat) (f : Nat → Word) : M Unit := mapCur fun g => g.writeLanes d (c.put f)

/-- A two-source vector word: `f` of the lane values of a and b, b being `imm` when I = 1 (R247). -/
def vbin (imm : Word) (i : BitVec 1) (d a : BitVec 7) (b : BitVec 8) (f : Word → Word → Word) : M Unit := do
  let c ← vctx
  checkRegs (d.toNat :: a.toNat :: bRegs i b) (a.toNat :: bRegs i b)
  c.write d.toNat fun l => f (c.srcA a l) (if i = 1 then imm else c.sel b l)

end Sys2Proof.Machine
end

