-- ==== Sys2Proof/Machine/Pool.lean ====
section
/-!
DEFINITION. The elastic pool: windows and regions (R43 to R46), the pool map (R47), the allocator (R49 to R51),
register frames in memory (R55 to R62), retained regions and their backing (R62, R66), accumulator and
hypervector images (R300, R314), cluster sharing (R68, R69).
-/

namespace Sys2Proof.Machine

/-! ## Windows -/

/-- A team's granted size in bytes (R40, R45). -/
def Team.granted (t : Team) : Nat := 4096 * t.granules.length

/-- Granules of the shared region. -/
def Team.sharedCount (t : Team) : Nat := t.granules.length - t.sharedAt

/-- Whether a span of the window lies in the staging and shared regions (R46). -/
def Team.inData (t : Team) (off n : Nat) : Bool := decide (4096 * t.stagingAt ≤ off) && decide (off + n ≤ t.granted)

/-- The maximum window in granules (R169). -/
def State.maxWindow (s : State) (t : Team) : Nat := t.sharedAt + (s.launchAt t.launch).shMax

/-- The virtual address of a team's pool save area (R170). -/
def State.saveArea (s : State) (t : Team) : Nat :=
  (s.launchAt t.launch).saveVa + t.slot * (4096 * s.maxWindow t)

/-! ## The pool map (R47 to R49) -/

def State.setEntry (s : State) (core phys : Nat) (e : PoolEntry) : State :=
  { s with poolMap := ((core, phys), e) :: s.poolMap.filter fun x => x.1 != (core, phys) }

/-- A granule passes to the L1. -/
def State.dropEntry (s : State) (core phys : Nat) : State :=
  { s with poolMap := s.poolMap.filter fun x => x.1 != (core, phys) }

/-- L1 granules above the floor of 16 (R49). -/
def State.l1Spare (s : State) (core : Nat) : Nat := (s.l1Granules core).length - 16

/-- The 8 bytes of a pool map entry (Table 02-4). -/
def PoolEntry.encode (e : PoolEntry) (resident : Bool) : DWord :=
  let kind : Nat := if e.retired then 15 else match e.region with
    | .frame => 1 | .accumulator => 2 | .hypervector => 3 | .staging => 4 | .shared => 5
  if e.retired then BitVec.ofNat 64 (kind * 2 ^ 8)
  else
    BitVec.ofNat 64 (e.ctx * 2 ^ 48 + e.wg * 2 ^ 40 + kind * 2 ^ 8 + (if e.shared then 8 else 0) +
      (if resident then 0 else if e.dirty then 6 else 4))

/-- The region kind of a window granule. -/
def State.regionOf (s : State) (t : Team) (wg : Nat) : Region :=
  if t.sharedAt ≤ wg then .shared
  else if t.stagingAt ≤ wg then .staging
  else if wg < t.accAt then .frame
  else if wg < t.accAt + 8 * (s.launchAt t.launch).nAcc then .accumulator
  else .hypervector

/-! ## Forms of a register (R57, R58) -/

/-- The stored bytes of a register and its format: the form with the fewest bytes. -/
def storedForm (w : Nat) (lanes : List Word) : Nat × List Byte :=
  let base := lanes.getD 0 0
  let deltas := lanes.map fun x => (x - base).toInt
  let fits (b : Nat) : Bool := deltas.all fun x => decide (-(2 ^ (b - 1)) ≤ x) && decide (x < 2 ^ (b - 1))
  let head := leBytes 4 base.toNat
  if lanes.all (· == 0) then (4, [])
  else if lanes.all (· == base) then (1, head)
  else if fits 8 then (2, head ++ deltas.flatMap fun x => leBytes 1 (x % 256).toNat)
  else if fits 16 then (3, head ++ deltas.flatMap fun x => leBytes 2 (x % 65536).toNat)
  else (0, (lanes.take w).flatMap fun x => leBytes 4 x.toNat)

/-- How many bytes a format stores (Table 02-10); none for a reserved format. -/
def storedSize (w fmt : Nat) : Option Nat :=
  match fmt with
  | 0 => some (4 * w)
  | 1 => some 4
  | 2 => some (4 + w)
  | 3 => some (4 + 2 * w)
  | 4 => some 0
  | _ => none

/-- The lanes that stored bytes decode to (Table 02-10). -/
def decodeForm (w fmt : Nat) (bs : List Byte) : List Word :=
  let num (off n : Nat) : Nat := ofLe ((bs.drop off).take n)
  let base := num 0 4
  (upTo w).map fun l =>
    match fmt with
    | 0 => BitVec.ofNat 32 (num (4 * l) 4)
    | 1 => BitVec.ofNat 32 base
    | 2 => w32 (base + sextNat 8 (num (4 + l) 1))
    | 3 => w32 (base + sextNat 16 (num (4 + 2 * l) 2))
    | _ => 0

/-! ## The control area (Tables 02-8, 02-9) -/

def Frag.encode (start : DWord) (f : Frag) : List Byte :=
  leBytes 8 f.mask.toNat ++
    leBytes 4 (if f.v then 2 ^ 31 + f.token.toNat * 2 ^ 27 + (if f.j then 2 ^ 26 else 0) + woff start f.party.pc else 0)

/-- The PC that the control area names: the next header, or the header of the clause that a stopped party
re-executes (R283). -/
def Party.savedPc (p : Party) : DWord :=
  match p.wait, p.clause with
  | .none, _ | .header _, _ | .code _, _ | .exited, _ => p.pc
  | _, some c => c.addr
  | _, none => p.pc

def Group.control (g : Group) (start : DWord) : List Byte :=
  leBytes 8 g.main.savedPc.toNat ++ leBytes 4 g.mode.toNat ++ leBytes 4 g.fstat.toNat ++
  g.flags.map (fun n => BitVec.ofNat 8 n) ++ leBytes 4 g.tokens.toNat ++
  (g.frags.map fun f => f.encode start).flatten ++
  (g.m.map fun x => leBytes 8 x.toNat).flatten ++ (g.s.map fun x => leBytes 8 x.toNat).flatten

/-- The clause in which a party resumes runs on under the MODE that the save kept (R202). -/
def Party.inMode (p : Party) (mode : Word) : Party := { p with clause := p.clause.map fun c => { c with mode := mode } }

/-- A party as the control area names it: one whose PC is as the save left it goes on where it stopped, inside its
clause when it was parked there (R145). -/
def Party.atPc (p : Party) (pc : DWord) (mode : Word) : Party := if p.savedPc = pc then p.inMode mode else { Party.start pc with ready := p.ready }

/-- The control area read back from memory, with what operations have changed since it was written. Bits of masks at
and above W are dropped (R175); a main side whose PC is 0 has exited (R179). -/
def Group.setControl (g : Group) (start : DWord) (bs : List Byte) : Group :=
  let num (off n : Nat) : Nat := ofLe ((bs.drop off).take n)
  let d (off : Nat) : DWord := BitVec.ofNat 64 (num off 8)
  let mode : Word := BitVec.ofNat 32 (num 8 4) &&& 0xFFF
  { g with
    main := if d 0 = 0 then { Party.start 0 with wait := .exited } else g.main.atPc (d 0) mode
    mode := mode
    fstat := (BitVec.ofNat 32 (num 12 4) &&& 0xFFFFFF7F) ||| g.late.fstat
    flags := (upTo 12).map fun i => num (16 + i) 1 % 64 - (g.late.fell.filter (· == i)).length
    tokens := BitVec.ofNat 32 (num 28 4)
    frags := (upTo 8).map fun e =>
      let w := num (0x20 + 12 * e + 8) 4
      let p := (g.frags.getD e Frag.empty).party.atPc (start + BitVec.ofNat 64 (4 * field w 0 26)) mode
      if bitAt w 31 then
        { v := true, mask := d (0x20 + 12 * e) &&& onesBelow g.width, token := BitVec.ofNat 4 (field w 27 4), j := bitAt w 26,
          party := if bitAt w 26 then { p with clause := none, wait := .joined }
                   else if p.wait = .joined then { p with wait := .none } else p }
      else Frag.empty
    m := (upTo 16).map fun i => d (0x80 + 8 * i) &&& onesBelow g.width
    s := (upTo 32).map fun i => if g.late.regs.contains i then g.readS i else d (0x100 + 8 * i)
    ctlOut := false
    late := {} }

/-- Offsets in a frame (Table 02-7). -/
def Group.slotOff (g : Group) (n : Nat) : Nat := n * g.width * 4
def Group.fmtOff (g : Group) : Nat := g.budget * g.width * 4
def Group.ctlOff (g : Group) : Nat := g.fmtOff + 64 * ((g.budget + 63) / 64)

/-! ## Images of the other regions -/

/-- Bytes of an accumulator tile from an element on (R300). -/
def AccTile.image (a : AccTile) (first count : Nat) : List Byte :=
  (rangeFrom first count).flatMap fun i => leBytes 4 (look a.elems i 0).toNat

/-- Put an element; zero elements are not listed. -/
def AccTile.putElem (a : AccTile) (i : Nat) (v : Word) : AccTile :=
  { a with elems := if v = 0 then a.elems.filter (·.1 != i) else put a.elems i v }

def AccTile.load (a : AccTile) (first : Nat) (bs : List Byte) : AccTile :=
  (upTo (bs.length / 4)).foldl (fun a i => a.putElem (first + i) (BitVec.ofNat 32 (ofLe ((bs.drop (4 * i)).take 4)))) a

/-- The bytes of a group's hypervector region (Table 13-1). -/
def Group.hvImage (g : Group) : List Byte :=
  (g.h.map fun x => leBytes (g.hdim / 8) x).flatten ++
  (g.b.map fun c => (upTo g.hdim).flatMap fun i =>
    leBytes (g.bwidth / 8) ((c.getD i 0) % 2 ^ g.bwidth).toNat).flatten

def Group.hvLoad (g : Group) (bs : List Byte) : Group :=
  let num (off n : Nat) : Nat := ofLe ((bs.drop off).take n)
  let hb := g.hdim / 8
  let bb := g.bwidth / 8
  { g with
    h := (upTo g.h.length).map fun n => num (n * hb) hb
    b := (upTo g.b.length).map fun n => (upTo g.hdim).map fun i =>
      sextNat g.bwidth (num (g.h.length * hb + n * g.hdim * bb + i * bb) bb) }

def Group.hvSize (g : Group) : Nat := g.h.length * (g.hdim / 8) + g.b.length * g.hdim * (g.bwidth / 8)
def Group.hvGranules (g : Group) : Nat := (g.hvSize + 4095) / 4096

/-! ## Tender accesses -/

/-- Where a Tender access of a context goes, page by page: physical address, place in the run, bytes (R24, R62). -/
def tenderPages (ctx : Nat) (va : DWord) (bs : List Byte) (a : Access) : M (List (Nat × Nat × List Byte)) := do
  let s ← get
  (cutAt 4096 (bs.length / 4096 + 2) va.toNat bs).mapM fun (v, b) => do
    let x ← translate (s.tfOf ctx) (s.coreOf ctx) (some ctx) (BitVec.ofNat 64 v) a
    fabricAsk x (BitVec.ofNat 64 v) a.bits
    pure (x.pa, v - va.toNat, b)

/-- Bytes read at home for a context, and the places in the run whose sectors are poisoned. -/
def tenderFetch (ctx : Nat) (va : DWord) (n : Nat) : M (List Byte × List Nat) := do
  let ps ← tenderPages ctx va (List.replicate n 0) Access.tenderRead
  let parts ← ps.mapM fun (pa, o, v) => do
    let s ← get
    let (bs, poison, s') := s.homeRead pa v.length
    set s'
    pure (bs, if poison then (rangeFrom o v.length).filter fun i =>
        decide (Config.hbmBytes ≤ pa) || s.side.poison.contains (sectorNo (pa + (i - o))) else [])
  pure ((parts.map (·.1)).flatten, (parts.map (·.2)).flatten)

def tenderRead (ctx : Nat) (va : DWord) (n : Nat) : M (List Byte) := do
  let (bs, bad) ← tenderFetch ctx va n
  if !bad.isEmpty then throw (.fault (plainFault cDataPoison 0))
  pure bs

/-- A write carries the poison of what it writes, by place in the run, to the sectors of memory (R65, R85). -/
def tenderPut (ctx : Nat) (va : DWord) (bs : List Byte) (bad : List Nat) : M Unit := do
  let ps ← tenderPages ctx va bs Access.tenderWrite
  ps.forM fun (pa, o, v) => modify fun s =>
    let mine := bad.filter fun i => decide (o ≤ i) && decide (i < o + v.length)
    let s := s.homeWrite [s.writer ctx] pa (v.map some) (!mine.isEmpty)
    if pa < Config.hbmBytes then (dedup (mine.map fun i => sectorNo (pa + (i - o)))).foldl State.poisonHome s else s

def tenderWrite (ctx : Nat) (va : DWord) (bs : List Byte) : M Unit := tenderPut ctx va bs []

/-- Write a register to its slot, with its format byte (R58). A poisoned one is written raw, and its poison goes to
memory with it (R65). -/
def spillReg (g : Group) (n : Nat) : M Unit := do
  let lanes := (upTo g.width).map fun l => g.lane n l
  let bad := g.vPoison.contains n
  let (fmt, bs) := if bad then (0, lanes.flatMap fun x => leBytes 4 x.toNat) else storedForm g.width lanes
  if !bs.isEmpty then tenderPut g.ctx (g.frame + BitVec.ofNat 64 (g.slotOff n)) bs (if bad then upTo bs.length else [])
  tenderWrite g.ctx (g.frame + BitVec.ofNat 64 (g.fmtOff + n)) [BitVec.ofNat 8 fmt]

/-- Fill a register from its slot (R57, R63): a reserved format faults FRAME_CORRUPT, and poison stays with the data
(R65). -/
def fillReg (g : Group) (n : Nat) : M Unit := do
  let fmt := ofLe (← tenderRead g.ctx (g.frame + BitVec.ofNat 64 (g.fmtOff + n)) 1)
  match storedSize g.width fmt with
  | none => throw (.fault (plainFault cFrameCorrupt (BitVec.ofNat 32 (n + 256 * fmt))))
  | some k =>
    let (bs, bad) ← if k = 0 then pure ([], []) else tenderFetch g.ctx (g.frame + BitVec.ofNat 64 (g.slotOff n)) k
    modify fun s => s.mapGroup g.ctx g.idx fun g =>
      { g with
        v := g.v.set n (if k = 0 then .zero else .raw (decodeForm g.width fmt bs))
        vPoison := (g.vPoison.filter (· != n)) ++ (if bad.isEmpty then [] else [n]) }

/-- The group whose hypervector region holds a window granule (R45, R314). -/
def State.hvGroup (s : State) (ctx wg : Nat) : Option Group :=
  s.groups.find? fun g => g.ctx == ctx && decide (g.hvAt ≤ wg) && decide (wg < g.hvAt + g.hvGranules)

/-- The marks of poisoned registers of the region (R315). -/
def hMark (n : Nat) : Nat := n
def bMark (n : Nat) : Nat := 16 + n

def Group.hvBad (g : Group) (ms : List Nat) : Bool := ms.any g.hbPoison.contains

/-- Mark or clear a register of the region. -/
def Group.hvMark (g : Group) (m : Nat) (bad : Bool) : Group :=
  let rest := g.hbPoison.filter (· != m)
  { g with hbPoison := if bad then rest ++ [m] else rest }

/-- The register of a group's hypervector region that holds a byte: an h register, or a b register after them (R314). -/
def Group.hvRegAt (g : Group) (off : Nat) : Option Nat :=
  let hb := g.hdim / 8
  let bb := g.hdim * (g.bwidth / 8)
  if off < g.h.length * hb then some (hMark (off / hb))
  else if off < g.hvSize then some (bMark ((off - g.h.length * hb) / bb))
  else none

/-- The bytes of a granule of the region, from `lo`, that poisoned registers hold (R315). -/
def Group.hvBadBytes (g : Group) (lo : Nat) : List Nat :=
  if g.hbPoison.isEmpty then []
  else (upTo 4096).filter fun i => (g.hvRegAt (lo + i)).any g.hbPoison.contains

/-- The group whose frame region holds a window granule, and the granule's first offset in it. -/
def State.frameGroup (s : State) (ctx wg : Nat) : Option (Group × Nat) :=
  (s.groups.find? fun g => g.ctx == ctx && decide (g.frameAt ≤ wg) && decide (wg < g.frameAt + g.frameGranules)).map
    fun g => (g, 4096 * (wg - g.frameAt))

/-- The registers whose slots lie in a granule of a frame, and whether a part of the control area does. -/
def Group.slotsIn (g : Group) (lo : Nat) : List Nat :=
  (upTo g.budget).filter fun n => decide (g.slotOff n < lo + 4096) && decide (lo < g.slotOff n + 4 * g.width)

def Group.controlIn (g : Group) (lo : Nat) : Bool := decide (g.ctlOff < lo + 4096) && decide (lo < g.ctlOff + 512)

/-- The poisoned bytes of a window granule, by place in it. -/
def Team.badBytes (t : Team) (wg : Nat) : List Nat := (t.poison.filter fun a => a / 4096 == wg).map (· % 4096)

/-- Write one retained granule of a context to its backing (R51, R62, R66): of a frame, what does not lie only in memory
already. -/
def spillGranule (ctx wg : Nat) : M Unit := do
  let s ← get
  let t := s.teamAt ctx
  let save : DWord := BitVec.ofNat 64 (s.saveArea t + 4096 * wg)
  match s.regionOf t wg with
  | .frame =>
    match s.frameGroup ctx wg with
    | none => pure ()
    | some (g, lo) =>
      ((g.slotsIn lo).filter fun n => g.v.getD n .zero != .inFrame).forM (spillReg g)
      if g.controlIn lo && !g.ctlOut then
        tenderWrite ctx (g.frame + BitVec.ofNat 64 g.ctlOff) (g.control (s.codeStart ctx))
        modify fun s => s.mapGroup ctx g.idx fun g => { g with late := {} }
  | .accumulator =>
    let off := 4096 * (wg - t.accAt)
    let a := t.acc.getD (off / 32768) AccTile.reset
    if a.alloc then tenderPut ctx save (a.image (off % 32768 / 4) 1024) (t.badBytes wg)
  | .hypervector =>
    match s.hvGroup ctx wg with
    | none => pure ()
    | some g =>
      let bs := (g.hvImage.drop (4096 * (wg - g.hvAt))).take 4096
      tenderPut ctx save (bs ++ List.replicate (4096 - bs.length) 0) (g.hvBadBytes (4096 * (wg - g.hvAt)))
  | _ => tenderPut ctx save (s.poolBytes ctx (4096 * wg) 4096) (t.badBytes wg)

/-- Read a granule of a region other than a frame back from its backing (R66). What is poisoned there is poisoned in the
region, until it is consumed (R85, R315). -/
def refillGranule (ctx wg : Nat) : M Unit := do
  let s ← get
  let t := s.teamAt ctx
  let save : DWord := BitVec.ofNat 64 (s.saveArea t + 4096 * wg)
  match s.regionOf t wg with
  | .frame => pure ()
  | .accumulator =>
    let off := 4096 * (wg - t.accAt)
    let i := off / 32768
    if (t.acc.getD i AccTile.reset).alloc then
      let (bs, bad) ← tenderFetch ctx save 4096
      modify fun s => s.mapTeam ctx fun t =>
        { t with acc := modifyAt t.acc i fun a => a.load (off % 32768 / 4) bs, poison := t.poison ++ bad.map (4096 * wg + ·) }
  | .hypervector =>
    match s.hvGroup ctx wg with
    | none => pure ()
    | some g =>
      let (bs, bad) ← tenderFetch ctx save 4096
      let lo := 4096 * (wg - g.hvAt)
      let img := g.hvImage
      let k := min 4096 (img.length - lo)
      modify fun s => s.mapGroup ctx g.idx fun g =>
        (bad.filterMap fun i => g.hvRegAt (lo + i)).foldl (fun g m => g.hvMark m true)
          (g.hvLoad (img.take lo ++ bs.take k ++ img.drop (lo + k)))
  | _ =>
    let (bs, bad) ← tenderFetch ctx save 4096
    modify fun s =>
      let late := (s.teamAt ctx).late.filter fun a => a / 4096 == wg
      let kept := late.map fun a => (a, s.poolBytes ctx a 1)
      let s := (s.poolWrite ctx (4096 * wg) bs).mapTeam ctx fun t => { t with poison := t.poison ++ bad.map (4096 * wg + ·) }
      let s := kept.foldl (fun s x => s.poolWrite ctx x.1 x.2) s
      s.mapTeam ctx fun t => { t with late := t.late.filter fun a => a / 4096 != wg }

/-! ## The allocator (R51) -/

/-- Whether operations in flight keep a granule of a saved context from being written: steps on its tile (R312),
hypervector words of its group (R315). -/
def State.busyGranule (s : State) (ctx wg : Nat) : Bool :=
  let t := s.teamAt ctx
  let mine := s.ops.filter fun o => o.ctx == ctx
  match s.regionOf t wg with
  | .accumulator => mine.any fun o => match o.kind with | .mma _ _ tile _ _ => tile == 4096 * (wg - t.accAt) / 32768 | _ => false
  | .hypervector => mine.any fun o => match o.kind with
    | .hv _ | .hvld .. | .hvst .. | .hvnear .. => (match s.hvGroup ctx wg with | some g => g.idx == o.grp | none => false)
    | _ => false
  | _ => false

/-- Whether the write of a granule to its backing waits on a missing page. -/
def State.backingParked (s : State) (core : Nat) (g : Granule) : Bool :=
  match g with
  | .inPool p => match s.poolEntry core p with
    | some e => e.parked.isSome
    | none => false
  | .inBacking => false

/-- The retained granules of a core that may be taken, in the order of R51: the context saved longest ago, then
the highest window granule. Cluster-shared granules are passed over, and those whose write is parked. -/
def State.retainedOn (s : State) (core : Nat) : List (Nat × Nat) :=
  let ts := sortBy (fun (a b : Team) => decide (a.saveStamp ≤ b.saveStamp)) (s.teams.filter fun t => t.core == core && t.retained)
  ts.flatMap fun t =>
    ((upTo t.granules.length).reverse.filter fun wg =>
      t.granules.getD wg .inBacking != .inBacking && !t.shared.contains wg && !s.busyGranule t.ctx wg &&
        !s.backingParked core (t.granules.getD wg .inBacking)).map fun wg => (t.ctx, wg)

/-- Granules grantable at once (Table 11-6, index 7). -/
def State.grantable (s : State) (core : Nat) : Nat := s.l1Spare core + (s.retainedOn core).length

/-- The state of a saved context: 4 once no granule is retained (R367). -/
def Team.settleSaved (t : Team) : Team :=
  if t.state = .savedRetained ∧ t.granules.all (· == .inBacking) then { t with state := .savedNone, retained := false } else t

/-- A missing page of a Tender access for a whole context: its park (R51, R151), or none when the team ended instead. -/
def State.parkCtx (s : State) (ctx : Nat) (f : FaultInfo) : Option Park × State :=
  let t := s.tfOf ctx
  let core := s.coreOf ctx
  if s.parks t then
    let (k, s) := s.parkAt t (Config.sectorOf core) core f (s.ctxRecord ctx 0xFF f 0 true)
    (some k, s)
  else (none, s.faultCtx ctx 0xFF f)

/-- Every granule of a context passes to the L1 without write-back. -/
def State.freeGranules (s : State) (ctx : Nat) : State :=
  let s : State := { s with poolMap := s.poolMap.filter fun e => e.2.retired || e.2.ctx != ctx }
  s.mapTeam ctx fun t => { t with granules := [], leaving := [], shared := [], retained := false }

/-- A retained granule is written to its backing, where it is not yet, and stays retained (R51): false where a missing
page parks the write, or the saved team ended, and with it its granules. -/
def State.cleanGranule (s : State) (core ctx wg : Nat) : Bool × State :=
  match (s.teamAt ctx).granules.getD wg .inBacking with
  | .inBacking => (false, s)
  | .inPool phys =>
    match s.poolEntry core phys with
    | none => (false, s)
    | some e =>
      if !e.dirty then (true, s)
      else
        match spillGranule ctx wg s with
        | .ok _ s => (true, s.setEntry core phys { e with dirty := false })
        | .error (.miss f) s => match s.parkCtx ctx f with
          | (some k, s) => (false, s.setEntry core phys { e with parked := some k })
          | (none, s) => (false, s.freeGranules ctx)
        | .error (.fault f) s => (false, (s.faultCtx ctx 0xFF f).freeGranules ctx)
        | .error _ s => (false, s)

/-- The first `n` of a list of retained granules that are written to their backing. -/
def State.cleanSome (s : State) (core : Nat) : Nat → List (Nat × Nat) → List (Nat × Nat) × State
  | _, [] => ([], s)
  | 0, _ => ([], s)
  | n + 1, (ctx, wg) :: rest =>
    match s.cleanGranule core ctx wg with
    | (true, s) => let (ps, s) := State.cleanSome s core n rest; ((ctx, wg) :: ps, s)
    | (false, s) => State.cleanSome s core (n + 1) rest

/-- Whether a granule is still in the pool. -/
def State.keeps (s : State) (x : Nat × Nat) : Bool := (s.teamAt x.1).granules.getD x.2 .inBacking != .inBacking

/-- Retained granules written so that a request of `n` finds them beside the L1's, in the order of R51. A saved team that
a write ends passes its granules to the L1, and the search begins anew; `fuel` bounds it. -/
def State.gather (s : State) (core n : Nat) : Nat → List (Nat × Nat) × State
  | 0 => ([], s)
  | fuel + 1 =>
    let (gs, s') := s.cleanSome core (n - s.l1Spare core) (s.retainedOn core)
    if gs.all s'.keeps then (gs, s') else State.gather s' core n fuel

/-- A granule of a frame leaves the pool: its registers, and its control area, lie only in memory (R66). -/
def Group.leaveFrame (g : Group) (lo : Nat) : Group :=
  let ns := g.slotsIn lo
  { g with
    v := ns.foldl (fun v n => v.set n .inFrame) g.v
    vPoison := g.vPoison.filter fun n => !ns.contains n
    ctlOut := g.ctlOut || g.controlIn lo }

/-- A written retained granule is taken: its physical granule. -/
def State.takeRetained (s : State) (core ctx wg : Nat) : Option Nat × State :=
  let t := s.teamAt ctx
  match t.granules.getD wg .inBacking with
  | .inBacking => (none, s)
  | .inPool phys =>
    let s := match s.regionOf t wg, s.frameGroup ctx wg with
      | .frame, some (g, lo) => s.mapGroup ctx g.idx fun g => g.leaveFrame lo
      | _, _ => s
    (some phys, (s.dropEntry core phys).mapTeam ctx fun t => { t with granules := t.granules.set wg .inBacking }.settleSaved)

def State.takeAll (s : State) (core : Nat) (gs : List (Nat × Nat)) : List Nat × State :=
  gs.foldl (fun (ps, s) (ctx, wg) =>
    match s.takeRetained core ctx wg with
    | (some p, s) => (ps ++ [p], s)
    | (none, s) => (ps, s)) ([], s)

/-- Take `n` granules of a core, or none of them (R51). The L1 is written back and invalidated before it gives a
granule up. Retained granules that are written for a request that then stalls stay retained. -/
def State.takeGranules (s : State) (core n : Nat) : Option (List Nat) × State :=
  if s.grantable core < n then (none, s)
  else
    let (gs, s) := s.gather core n (s.teams.length + 1)
    let k := min n (s.l1Spare core)
    if k + gs.length < n then (none, s)
    else
      let s := if k = 0 then s else s.l1Flush core
      let low := (s.l1Granules core).take k
      let (ps, s) := s.takeAll core (gs.take (n - k))
      (some (low ++ ps), s)

/-- Give granules to a team as window granules from `wg` up, zeroed (R51). -/
def State.giveGranules (s : State) (ctx : Nat) (wgs phys : List Nat) : State :=
  let t := s.teamAt ctx
  (wgs.zip phys).foldl (fun s (wg, p) =>
    let s := s.setEntry t.core p
      { ctx := ctx, wg := wg, region := s.regionOf t wg, shared := false, retired := false, dirty := false, parked := none }
    s.mapTeam ctx fun t =>
      { t with
        granules := if wg < t.granules.length then t.granules.set wg (.inPool p) else t.granules ++ [.inPool p]
        pool := t.pool.filter fun c => c.1 / 4096 != wg
        poison := t.poison.filter fun a => a / 4096 != wg }) s

/-- The stalled PGROW requests of a core, oldest first (R50). -/
def State.stalled (s : State) (core : Nat) : List (PartyRef × Nat) :=
  let all := s.allParties.filterMap fun p =>
    if s.coreOf p.ctx = core ∧ (s.teamAt p.ctx).resident then
      match (s.partyOf p).wait with
      | .pgrow n arrival _ => if (s.partyOf p).stopped then none else some (p, n, arrival)
      | _ => none
    else none
  (sortBy (fun (a b : PartyRef × Nat × Nat) => decide (a.2.2 ≤ b.2.2)) all).map fun x => (x.1, x.2.1)

/-- Grow a team's shared region by `n` granules, at once or not at all. -/
def State.grow (s : State) (ctx n : Nat) : Bool × State :=
  let t := s.teamAt ctx
  match s.takeGranules t.core n with
  | (some ps, s) => (true, s.giveGranules ctx (rangeFrom t.granules.length n) ps)
  | (none, s) => (false, s)

/-- PSHRINK (R54): granules leave the window at once with what they hold, and pass to the L1 later. -/
def State.shrink (s : State) (ctx n : Nat) : State :=
  let t := s.teamAt ctx
  let k := min n t.sharedCount
  let keep := t.granules.length - k
  let out : List Leaving := ((t.granules.drop keep).zip (rangeFrom keep k)).filterMap fun (g, wg) => match g with
    | .inPool p =>
      some { phys := p, wg := wg, left := s.stamp, cells := t.pool.filter fun c => c.1 / 4096 == wg,
             poison := t.poison.filter fun a => a / 4096 == wg }
    | .inBacking => none
  let s := out.foldl (fun s x => match s.poolEntry t.core x.phys with
    | some e => s.setEntry t.core x.phys { e with shared := false }
    | none => s) s
  s.mapTeam ctx fun t =>
    { t with
      granules := t.granules.take keep
      pool := t.pool.filter fun c => decide (c.1 / 4096 < keep)
      poison := t.poison.filter fun a => decide (a / 4096 < keep)
      shared := t.shared.filter fun wg => decide (wg < keep)
      leaving := t.leaving ++ out }

/-! ## Cluster sharing (R41, R68, R69) -/

/-- The physical granules of a run of window granules, when all are in the pool. -/
def Team.physRun (t : Team) (wg n : Nat) : Option (List Nat) :=
  (rangeFrom wg n).mapM fun i => match t.granules.getD i .inBacking with
    | .inPool p => some p
    | .inBacking => none

def consecutive : List Nat → Bool
  | a :: b :: t => b == a + 1 && consecutive (b :: t)
  | _ => true

/-- The cluster pool address of a physical granule (R41). -/
def clusterAddr (core phys : Nat) : DWord := BitVec.ofNat 64 (core % 4 * 2 ^ 20 + phys * 4096)

/-- Mark a run of a team's window granules. -/
def State.markShared (s : State) (ctx wg n : Nat) (on : Bool) : State :=
  let t := s.teamAt ctx
  let run := rangeFrom wg n
  let s := run.foldl (fun s i => match t.granules.getD i .inBacking with
    | .inPool p => match s.poolEntry t.core p with
      | some e => s.setEntry t.core p { e with shared := on }
      | none => s
    | .inBacking => s) s
  s.mapTeam ctx fun t =>
    { t with shared := let rest := t.shared.filter fun i => !run.contains i; if on then rest ++ run else rest }

/-- The lowest run of `n` physical granules that a run may move to: L1 above the floor, retained, or its own. -/
def State.freeRun (s : State) (core n : Nat) (own : List Nat) : Option Nat :=
  let evictable := (s.retainedOn core).filterMap fun (c, wg) =>
    match (s.teamAt c).granules.getD wg .inBacking with | .inPool p => some p | .inBacking => none
  let l1 := s.l1Granules core
  firstBelow (257 - n) fun b =>
    let run := rangeFrom b n
    run.all (fun p => l1.contains p || evictable.contains p || own.contains p) &&
      decide ((run.filter l1.contains).length ≤ s.l1Spare core)

/-- Move a run of window granules to consecutive physical granules from `base` (R68): false, and nothing
moved, when a retained granule there cannot be written to its backing. -/
def State.moveRun (s : State) (ctx wg n base : Nat) : Bool × State :=
  let t := s.teamAt ctx
  let core := t.core
  let dest := rangeFrom base n
  let evict := (s.retainedOn core).filter fun (c, w) => match (s.teamAt c).granules.getD w .inBacking with
    | .inPool p => dest.contains p
    | .inBacking => false
  let (gs, s) := s.cleanSome core evict.length evict
  let old := (rangeFrom wg n).filterMap fun i => match t.granules.getD i .inBacking with
    | .inPool p => some p | .inBacking => none
  let freed := gs.filterMap fun (c, w) => match (s.teamAt c).granules.getD w .inBacking with
    | .inPool p => some p | .inBacking => none
  let l1 := s.l1Granules core
  if dest.all fun p => l1.contains p || old.contains p || freed.contains p then
    let s := (s.l1Flush core).takeAll core gs |>.2
    let s := old.foldl (fun s p => s.dropEntry core p) s
    (true, ((rangeFrom wg n).zip dest).foldl (fun s (i, p) =>
      (s.setEntry core p
        { ctx := ctx, wg := i, region := s.regionOf t i, shared := false, retired := false, dirty := false, parked := none }).mapTeam
        ctx fun t => { t with granules := t.granules.set i (.inPool p) }) s)
  else (false, s)

/-- The team and window offset that a cluster pool address reaches for a tenant function (R41). -/
def State.clusterTarget (s : State) (core t addr : Nat) : Option (Nat × Nat) :=
  if 2 ^ 22 ≤ addr then none
  else
    let owner := core / 4 * 4 + addr / 2 ^ 20
    match s.poolEntry owner (addr % 2 ^ 20 / 4096) with
    | some e => if e.shared && s.tfOf e.ctx == t then some (e.ctx, 4096 * e.wg + addr % 4096) else none
    | none => none

end Sys2Proof.Machine
end

