-- ==== Sys2Proof/Machine/Service.lean ====
section
/-!
DEFINITION. The service window (R34, Table 01-10): what each register reads and what a write to it does
(R35 to R37, R47, R136 to R148, R157 to R161, R347, R364, R389 to R400, R407, R411, R412).
-/

namespace Sys2Proof.Machine

/-! ## Keeper reads and writes of tenant memory -/

/-- The Keeper's own number in place of a core, for its translations (R32, R140). -/
def keeperCore : Nat := Config.cores

/-- Bytes read at home through a tenant function's page table, every page translated before any byte is read, and
whether a sector of them is poisoned. -/
def pagedRead (t core : Nat) (va : DWord) (n : Nat) (a : Access) : M (List Byte × Bool) := do
  let ps ← (cutAt 4096 (n / 4096 + 2) va.toNat (List.replicate n 0)).mapM fun (v, bs) => do
    let x ← translate t core none (BitVec.ofNat 64 v) a
    fabricAsk x (BitVec.ofNat 64 v) a.bits
    pure (x.pa, bs.length)
  let parts ← ps.mapM fun (pa, k) => do
    let (bs, p, s) := (← get).homeRead pa k
    set s
    pure (bs, p)
  pure ((parts.map (·.1)).flatten, parts.any (·.2))

/-- Bytes read for the Keeper. It is no group: poison does not stop it (R85). -/
def keeperLoad (t : Nat) (va : DWord) (n : Nat) (a : Access) : M (List Byte) := do
  return (← pagedRead t keeperCore va n a).1

/-- A word that the Keeper reads with an acquire (R123): a strong access, which its home slice records (R111). -/
def keeperAcquire (t : Nat) (va : DWord) (n : Nat) : M Nat := do
  let x ← translate t keeperCore none va Access.keeperRead
  fabricAsk x va Access.keeperRead.bits
  let (bs, _, s) := ((← get).strongUse x.pa n true false (allocOf x.cl x.ev.toNat)).homeRead x.pa n
  set s
  pure (ofLe bs)

/-- Bytes that the Keeper writes, a release where `strong` says so (R124), which its home slice records (R111). -/
def keeperStore (strong : Bool) (t : Nat) (va : DWord) (bs : List Byte) : M Unit := do
  let ps ← (cutAt 4096 (bs.length / 4096 + 2) va.toNat bs).mapM fun (v, b) => do
    let x ← translate t keeperCore none (BitVec.ofNat 64 v) Access.keeperWrite
    fabricAsk x (BitVec.ofNat 64 v) Access.keeperWrite.bits
    pure (x, b)
  ps.forM fun (x, b) => modify fun s =>
    (if strong then s.strongUse x.pa b.length true true (allocOf x.cl x.ev.toNat) else s).homeWrite [tfWriter t] x.pa (b.map some)

/-- An 8-byte or 2-byte field changed by an atomic of the Keeper at the home slice. The answer is the old
value. -/
def keeperAtomic (t : Nat) (va : DWord) (n : Nat) (f : Nat → Option Nat) : M Nat := do
  let x ← translate t keeperCore none va Access.keeperAtomic
  fabricAsk x va Access.keeperAtomic.bits
  let (bs, _, s) := ((← get).strongUse x.pa n true true (allocOf x.cl x.ev.toNat)).homeRead x.pa n
  set s
  match f (ofLe bs) with
  | some v => modify fun s => s.homeWrite [tfWriter t] x.pa ((leBytes n v).map some)
  | none => pure ()
  pure (ofLe bs)

/-- A Keeper access that meets a missing page takes a token of the lead sector's walker and a record (R139,
R140): its park, or none where it faults instead. -/
def State.parkKeeper (s : State) (t : Nat) (num : Word) (f : FaultInfo) : Option Park × State :=
  if s.parks t then
    let (k, s) := s.parkAt t (s.leadSector (s.tf t).part.toNat) keeperCore f (keeperRecord num f 0 true)
    (some k, s)
  else (none, s)

/-! ## Tenant translation blocks -/

/-- TTCTL (Table 01-11, R37, R395). -/
def State.writeTtctl (s : State) (t : Nat) (v : Nat) : State :=
  let b := s.tf t
  let en := bitAt v 0
  let asid : BitVec 12 := if b.en then b.asid else BitVec.ofNat 12 (field v 16 12)
  let taken := s.tfs.any fun (u, c) => u != t && c.en && c.asid == asid
  if en && !b.en && (taken || decide (s.parts ≤ b.part.toNat)) then s
  else s.mapTf t fun b => { b with asid := asid, vr := bitAt v 2, dp := bitAt v 1, en := en }

/-- TTROOT (Table 01-12, R37). -/
def State.writeTtroot (s : State) (t : Nat) (v : Nat) : State :=
  if (s.tf t).en then s else s.mapTf t fun b => { b with root := BitVec.ofNat 40 (field v 12 40) }

/-- FQCTL (Table 05-1): the plain fields; EN going to 1 restarts PROD (R142); EN going to 0 discards the records
held (R143). ERR is cleared by writing 1. Held records are written where there is room now. -/
def State.writeFqctl (s : State) (t : Nat) (v : Nat) : State :=
  let b := s.tf t
  let en := bitAt v 0
  let s := s.mapTf t fun b' =>
    { b' with
      fqLog2n := BitVec.ofNat 4 (field v 4 4)
      fqErr := b'.fqErr && !bitAt v 2
      fqEv := bitAt v 1
      fqEn := en
      fqProd := if en && !b.fqEn then 0 else b'.fqProd
      held := if !en then [] else b'.held }
  s.writeHeld t (s.tf t).held.length

/-- FQCONS: space frees and held records are written (R142). -/
def State.writeFqcons (s : State) (t : Nat) (v : Nat) : State :=
  let s := s.mapTf t fun b => { b with fqCons := BitVec.ofNat 32 v }
  s.writeHeld t (s.tf t).held.length

/-! ## Invalidation (R146 to R148) -/

def invOp (v : DWord) : Nat := field v.toNat 49 2

/-- The removal of INVCMD (R146): translations of the ASID that map a byte of the range, and Daymark entries
whose tiles overlap it; recordings of tasks whose tiles it covers are cancelled (R344). -/
def State.invalidate (s : State) (t : Nat) (v : DWord) : State :=
  let asid := (s.tf t).asid
  let size := 4096 * 2 ^ field v.toNat 45 4
  let vpn := field v.toNat 0 45
  let lo := vpn * 4096 / size * size
  let all := invOp v == 1
  let hits (a n : Nat) : Bool :=
    let b := a % 2 ^ 57
    all || (decide (b < lo + size) && decide (lo < b + n)) || decide (lo + 2 ^ 57 < b + n)
  let s := s.mapSide fun m =>
    { m with
      tlb := m.tlb.filter fun h => !(h.asid == asid && hits h.base h.size)
      daymark := m.daymark.filter fun e => !(e.tf.toNat == t && (all || e.spans.any fun (a, n) => hits a n)) }
  { s with
    launches := s.launches.map fun l =>
      match l.pure with
      | some p =>
        if l.tf.toNat == t && (((upTo 5).flatMap fun i => tileRows (l.tile i)).any fun (a, n) => hits a.toNat n) then
          { l with pure := some { p with clean := false } }
        else l
      | none => l }

/-- A command takes effect: the removal, and one more outstanding. -/
def State.startInv (s : State) (t : Nat) (v : DWord) : State :=
  (s.invalidate t v).mapTf t fun b => { b with invs := b.invs ++ [{ seq := v.extractLsb' 51 13 }] }

/-- A write to INVCMD: OP 2 and 3 change nothing; with eight outstanding it is held, with the store that gives it. -/
def State.writeInvcmd (s : State) (t : Nat) (v : DWord) (who : Option (Nat × Nat × Nat)) : State :=
  if 2 ≤ invOp v then s
  else if (s.tf t).invs.length < 8 ∧ (s.tf t).invHeld.isEmpty then s.startInv t v
  else s.mapTf t fun b => { b with invHeld := b.invHeld ++ [(v, who)] }

/-- Accesses of the tenant function through an aperture, its launches' and the Keeper's, have not all performed at their
peers: stores and atomics without an acknowledgement, and flits that a link still keeps. -/
def State.peersBusy (s : State) (t : Nat) : Bool :=
  let mine (own : List Writer) : Bool := own.any fun w => w.tf == t
  (s.ops.any fun o => s.tfOf o.ctx == t && o.peer.isSome) ||
    s.links.any fun l => (l.2.replay.any fun x => mine x.own) || l.2.waiting.any fun x => mine x.2

/-- What went through removed translations leaves for its home (R147). -/
def State.drainTf (s : State) (t : Nat) : State :=
  let s := (s.groups.filter fun g => s.tfOf g.ctx == t).foldl (fun s g => s.releaseActions g.ctx g.idx 5) s
  let s := s.drainBuffers fun b => s.tfOf b.ctx == t
  (dedup (s.side.l1.map (·.core))).foldl (fun s k => s.l1WriteBackAll k) s

/-- A held command takes effect (R148). -/
def State.releaseInv (s : State) (t : Nat) : State :=
  match (s.tf t).invHeld with
  | [] => s
  | (v, _) :: more => (s.mapTf t fun b => { b with invHeld := more }).startInv t v

/-- The first outstanding command completes (R147): once everything has performed at its home or its peer, SEQ is
written as a release, and a held command takes effect. -/
def State.completeInv (s : State) (t : Nat) : State :=
  match (s.tf t).invs with
  | [] => s
  | c :: rest =>
    let s := s.drainTf t
    if s.peersBusy t then s
    else
      let b := s.tf t
      let pa := 8 * b.invCw.toNat
      let s := if s.inPart b.part.toNat pa then (s.strongUse pa 8 true true (some 0)).homeWrite [tfWriter t] pa ((leBytes 8 c.seq.toNat).map some)
               else s.mapTf t fun b => { b with fqErr := true }
      (s.mapTf t fun b => { b with invs := rest }).releaseInv t

/-! ## Code slots (R157 to R161) -/

/-- The launches that have a context of a code slot's object. -/
def State.launchesOf (s : State) (t slot : Nat) : List Launch :=
  s.launches.filter fun l => l.tf.toNat == t && l.kind == 0 && l.codeSlot == slot && s.teams.any fun x => x.launch == l.id

/-- Every team of an object ends (R160, R161), with one record per team: `sec` and DETAIL as given. -/
def State.endObject (s : State) (t slot : Nat) (cause : Byte) (detail : Word) (sec : Bool) (skip : Option Nat) : State :=
  (s.launchesOf t slot).foldl (fun s l =>
    let s := s.mapLaunch l.id fun l =>
      { l with
        killed := some (l.killed.getD cause)
        next := l.teamCount
        stream := l.stream.map fun q => { q with queued := [] } }
    (s.teams.filter fun x => x.launch == l.id).foldl (fun s x =>
      let s := if skip = some x.ctx then s
               else s.addRecord t { s.secRecord x.ctx cause detail with sec := sec } (some l.id) true
      s.endContext x.ctx) s) s

/-- A slot without an object; emptying discards every verified page (R161). The spec does not say whether ERR is cleared:
it stays until the next LOAD (DESIGN CHOICE, log 149). -/
def CodeSlot.emptied (c : CodeSlot) : CodeSlot := { c with state := .empty, object := none, force := false, refs := 0 }

def State.mapSlot (s : State) (t slot : Nat) (f : CodeSlot → CodeSlot) : State :=
  s.mapTf t fun b => b.mapSlot slot f

/-- LOAD (R158): accepted in STATE 0 or 5. -/
def State.codeLoad (s : State) (t slot : Nat) : State :=
  match ((s.tf t).slot slot).state with
  | .empty | .failed => s.mapSlot t slot fun c => { c with state := .loading }
  | _ => s

/-- UNLOAD without force (R161). -/
def State.codeUnload (s : State) (t slot : Nat) : State :=
  let c := (s.tf t).slot slot
  match c.state with
  | .empty | .failed => s.mapSlot t slot CodeSlot.emptied
  | .ready | .poisoned => if c.refs = 0 then s.mapSlot t slot CodeSlot.emptied
                          else s.mapSlot t slot fun c => { c with state := .unloading }
  | _ => s

/-- UNLOAD with force (R161): every context of the object ends with CODE_GONE. -/
def State.codeUnloadForce (s : State) (t slot : Nat) : State :=
  let c := (s.tf t).slot slot
  match c.state with
  | .empty | .failed => s.mapSlot t slot CodeSlot.emptied
  | .ready | .poisoned | .unloading =>
    let s := s.mapSlot t slot fun c => { c with state := .unloading, force := true }
    let s := s.endObject t slot cCodeGone (BitVec.ofNat 32 slot) false none
    if c.refs = 0 then s.mapSlot t slot CodeSlot.emptied else s
  | .loading => s

/-- A write to CODECTL: CMD and F (Table 05-8). -/
def State.writeCodectl (s : State) (t slot v : Nat) : State :=
  match field v 0 2, bitAt v 2 with
  | 1, _ => s.codeLoad t slot
  | 2, false => s.codeUnload t slot
  | 2, true => s.codeUnloadForce t slot
  | _, _ => s

def SlotState.code : SlotState → Nat
  | .empty => 0 | .loading => 1 | .ready => 2 | .poisoned => 3 | .unloading => 4 | .failed => 5

/-! ## Queues (R393) -/

/-- BUSY: EN = 1, or a launch taken from the queue has not written its completion word (Table 20-3). -/
def State.queueBusy (s : State) (q : Nat) : Bool :=
  (s.queueAt q).en || s.launches.any fun l => l.taken && l.queue.toNat == q && l.done.isNone

/-- The tail word, read by the Keeper (R123, R393). -/
def readTail (q : Nat) : M Nat := do
  let x := (← get).queueAt q
  keeperAcquire x.tf.toNat x.qtail 8

/-- The %launch that the queue's next record would take (R174). -/
def LaunchQueue.nextNum (x : LaunchQueue) (q : Nat) : Word := BitVec.ofNat 32 (q * 2 ^ 20 + x.qhead.toNat % 2 ^ 20)

/-- A fault on a read of the tail word: ERR, EN cleared, a record (R393). -/
def State.tailFault (s : State) (q : Nat) (f : FaultInfo) : State :=
  let x := s.queueAt q
  let s := s.mapQueue q fun x => { x with err := true, en := false, opening := false }
  s.addRecord x.tf.toNat (keeperRecord (x.nextNum q) { f with acc := 0x41 } 0 false) none false

/-- A stop of a Keeper read for a queue: parked on a token (R139), or the tail fault. -/
def State.stopTail (s : State) (q : Nat) (st : Stop) : State :=
  let x := s.queueAt q
  match st with
  | .miss f => match s.parkKeeper x.tf.toNat (x.nextNum q) { f with acc := 0x41 } with
    | (some k, s) => s.mapQueue q fun x => { x with parked := some k }
    | (none, s) => s.tailFault q f
  | .fault f => s.tailFault q f
  | _ => s

/-- EN goes from 0 to 1: the tail word is read and QHEAD takes it. -/
def State.openQueue (s : State) (q : Nat) : State :=
  match readTail q s with
  | .ok n s => s.mapQueue q fun x => { x with qhead := BitVec.ofNat 64 n, opening := false, parked := none }
  | .error st s => s.stopTail q st

/-- The configuration word of a queue (Table 20-3, +0x10). TF and LOG2N are fixed while BUSY; ERR is cleared by
writing 1; while a partition change is in progress a write that sets EN is ignored (R397). -/
def State.writeQueueCfg (s : State) (q v : Nat) : State :=
  let x := s.queueAt q
  let busy := s.queueBusy q
  let en := bitAt v 0
  if en && s.ctl.pNext.isSome then s
  else
  let s := s.mapQueue q fun x =>
    { x with
      weight := BitVec.ofNat 8 (field v 48 8)
      tf := if busy then x.tf else BitVec.ofNat 8 (field v 40 8)
      log2n := if busy then x.log2n else BitVec.ofNat 4 (field v 36 4)
      cls := BitVec.ofNat 3 (field v 24 3)
      err := x.err && !bitAt v 2
      en := en
      opening := if en && !x.en then true else x.opening && en
      parked := if en then x.parked else none }
  if en && !x.en then s.openQueue q else s

/-! ## Tenant function blocks, partitions, fabric -/

/-- PART (R395): fixed while EN = 1 or a queue of the tenant function is busy. -/
def State.writePart (s : State) (t v : Nat) : State :=
  let fixed := (s.tf t).en || s.queues.any fun (q, x) => x.tf.toNat == t && s.queueBusy q
  s.mapTf t fun b =>
    { b with ceil := BitVec.ofNat 3 (field v 16 3), part := if fixed then b.part else BitVec.ofNat 2 v }

/-- A write to DMKEY0 or DMKEY1 invalidates every entry of the tenant function (R344). -/
def State.writeDmkey (s : State) (t : Nat) (half : Bool) (v : DWord) : State :=
  let s := s.mapSide fun m => { m with daymark := m.daymark.filter fun e => e.tf.toNat != t }
  s.mapTf t fun b => if half then { b with dmKey1 := v } else { b with dmKey0 := v }

/-- A write to PARTCTL (R397): ERR is cleared by writing 1; P is accepted only when every queue and context is
idle. An accepted write begins the change: translations, the Daymark, L1 and replica lines are removed and local
HBM is zero. -/
def State.writePartctl (s : State) (v : Nat) : State :=
  let s := if bitAt v 6 then { s with ctl := { s.ctl with pErr := false } } else s
  let p := v % 4
  let idle := (s.queues.all fun (q, x) => !x.en && !s.queueBusy q) && s.teams.isEmpty && s.ctl.pNext.isNone && p != 3
  if idle then
    { s with
      ctl := { s.ctl with pNext := some (BitVec.ofNat 2 p) }
      side := { s.side with
        mem := [], l2 := [], poison := [], strong := [], l1 := [], combine := [], replicas := [], tlb := [], daymark := [] } }
  else { s with ctl := { s.ctl with pErr := true } }

/-- STATUS of a collective descriptor, written by Kutil (Table 11-14). -/
def State.collectiveEnd (s : State) (o : Op) (desc status : Nat) : State :=
  (s.poolWriteFor o.ctx o.id (desc + 0x14) (leBytes 4 status)).finishOp o

/-- A release of a collective slot (R298, R400). A completion in its cycle stands: what is outstanding is aborted once
that cycle is over. -/
def State.releaseSlot (s : State) (slot : Nat) : State := { s with released := s.released ++ [(slot, s.stamp, s.clock)] }

/-- Every operation that a release of a slot found outstanding completes ABORTED, and the reduction in progress is
over. -/
def State.abortSlot (s : State) (slot before : Nat) : State :=
  let s : State := { s with taken := s.taken.filter fun x => x.1 % 4096 != slot }
  (s.ops.filter fun o => decide (o.id < before)).foldl (fun s o =>
    match o.kind with
    | .csend k _ _ _ _ desc => if k % 4096 = slot then s.collectiveEnd o desc 2 else s
    | .crecv k _ _ _ desc => if k % 4096 = slot then s.collectiveEnd o desc 2 else s
    | _ => s) s

/-- The releases of the cycles that are over abort what they found. -/
def State.abortReleased (s : State) : State :=
  (s.released.filter fun x => x.2.2 != s.clock).foldl (fun s x => s.abortSlot x.1 x.2.1)
    { s with released := s.released.filter fun x => x.2.2 == s.clock }

/-- A slot entry (Table 20-6). -/
def State.writeSlotEntry (s : State) (slot v : Nat) : State :=
  let old := look s.slotTab slot SlotEntry.reset
  let e : SlotEntry := { slot := BitVec.ofNat 24 (field v 32 24), tf := BitVec.ofNat 8 (field v 24 8), en := bitAt v 0 }
  let s := { s with slotTab := put s.slotTab slot e }
  if old.en && !e.en then s.releaseSlot slot else s

/-- HCTL (Table 21-3): ATT = 1 starts a report unless one is in progress (R411). -/
def State.writeHctl (s : State) (v : Nat) : State :=
  { s with
    health := { s.health with
      cethr := BitVec.ofNat 16 (field v 32 16)
      pcap := BitVec.ofNat 16 (field v 16 16)
      abusy := s.health.abusy || bitAt v 0 } }

/-! ## The registers by offset -/

/-- Cores and slices in service (Table 21-3). -/
def State.coresInService (s : State) : Nat := 512 - s.health.retiredCores.length
def State.slicesInService (s : State) : Nat := 768 - s.health.retiredSlices.length

def State.hstat (s : State) : Nat :=
  s.health.clk.toNat * 2 ^ 40 + s.coresInService * 2 ^ 30 + s.slicesInService * 2 ^ 20 +
    (if s.health.danger then 2 else 0) + (if s.health.ready then 1 else 0)

def State.partctl (s : State) : Nat :=
  (if s.ctl.pNext.isSome then 128 else 0) + (if s.ctl.pErr then 64 else 0) + s.ctl.p.toNat

def State.fabctl (s : State) : Nat := (if s.ctl.ven then 2 ^ 31 else 0) + s.ctl.devid.toNat

def CtxState.code : CtxState → Nat
  | .free => 0 | .resident => 1 | .stopping => 2 | .savedRetained => 3 | .savedNone => 4 | .migrating => 5

/-- CTXSTAT of a context (Table 16-4). -/
def State.ctxstat (s : State) (ctx : Nat) : Nat :=
  let t := s.teamAt ctx
  if t.state = .free then 0
  else
    (s.launchOf ctx).num.toNat * 2 ^ 32 + s.tfOf ctx * 2 ^ 24 +
      (if t.retained then (t.granules.filter (· != .inBacking)).length % 256 * 256 else 0) + t.state.code

def b2n (b : Bool) : Nat := if b then 1 else 0

/-- What a translation block register reads (Tables 01-11 to 01-13, 05-1, 05-8). -/
def State.readTtBlock (s : State) (t off : Nat) : Nat :=
  let b := s.tf t
  if off = 0 then b.asid.toNat * 2 ^ 16 + b2n b.vr * 4 + b2n b.dp * 2 + b2n b.en
  else if off = 8 then b.root.toNat * 4096
  else if off = 0x10 then b.fqBase.toNat * 64
  else if off = 0x18 then b.fqLog2n.toNat * 16 + b2n b.fqErr * 4 + b2n b.fqEv * 2 + b2n b.fqEn
  else if off = 0x20 then b.fqProd.toNat
  else if off = 0x28 then b.fqCons.toNat
  else if off = 0x30 then b.resAddr.toNat * 8
  else if off = 0x38 then b.invCw.toNat * 8
  else if 0x100 ≤ off ∧ off < 0x200 then
    let w := b.windows.getD ((off - 0x100) / 16) MemWindow.reset
    if off % 16 = 0 then w.base.toNat * 2 ^ 21 + b2n w.ro * 2 + b2n w.en else w.limit.toNat * 2 ^ 21
  else if 0x200 ≤ off ∧ off < 0x220 then (b.keyHash.getD ((off - 0x200) / 8) 0).toNat
  else if 0x800 ≤ off then
    let c := b.slot ((off - 0x800) / 16)
    if off % 16 = 0 then c.base.toNat
    else min c.refs 0xFFFF * 2 ^ 48 + c.err.toNat * 2 ^ 40 + c.state.code * 16
  else 0

def State.writeTtBlock (s : State) (t off : Nat) (v : DWord) (who : Option (Nat × Nat × Nat)) : State :=
  let n := v.toNat
  if off = 0 then s.writeTtctl t n
  else if off = 8 then s.writeTtroot t n
  else if off = 0x10 then s.mapTf t fun b => { b with fqBase := BitVec.ofNat 46 (field n 6 46) }
  else if off = 0x18 then s.writeFqctl t n
  else if off = 0x28 then s.writeFqcons t n
  else if off = 0x30 then s.mapTf t fun b => { b with resAddr := BitVec.ofNat 49 (field n 3 49) }
  else if off = 0x38 then s.mapTf t fun b => { b with invCw := BitVec.ofNat 49 (field n 3 49) }
  else if off = 0x40 then s.writeInvcmd t v who
  else if 0x100 ≤ off ∧ off < 0x200 then
    s.mapTf t fun b => { b with
      windows := modifyAt b.windows ((off - 0x100) / 16) fun w =>
        if off % 16 = 0 then { w with base := BitVec.ofNat 31 (field n 21 31), ro := bitAt n 1, en := bitAt n 0 }
        else { w with limit := BitVec.ofNat 31 (field n 21 31) } }
  else if 0x200 ≤ off ∧ off < 0x220 then s.mapTf t fun b => { b with keyHash := b.keyHash.set ((off - 0x200) / 8) v }
  else if 0x800 ≤ off then
    let k := (off - 0x800) / 16
    if off % 16 = 0 then s.mapSlot t k fun c => if c.state = .empty ∨ c.state = .failed then { c with base := v } else c
    else s.writeCodectl t k n
  else s

/-- A queue table entry (Table 20-3). -/
def State.readQueue (s : State) (q off : Nat) : Nat :=
  let x := s.queueAt q
  match off / 8 with
  | 0 => x.qbase.toNat
  | 1 => x.qtail.toNat
  | 2 => x.weight.toNat * 2 ^ 48 + x.tf.toNat * 2 ^ 40 + x.log2n.toNat * 2 ^ 36 + x.cls.toNat * 2 ^ 24 +
         b2n x.err * 4 + b2n (s.queueBusy q) * 2 + b2n x.en
  | _ => x.qhead.toNat

def State.writeQueue (s : State) (q off : Nat) (v : DWord) : State :=
  match off / 8 with
  | 0 => if s.queueBusy q then s else s.mapQueue q fun x => { x with qbase := v }
  | 1 => if s.queueBusy q then s else s.mapQueue q fun x => { x with qtail := v }
  | 2 => s.writeQueueCfg q v.toNat
  | _ => s

/-- A tenant function block (Table 20-4). -/
def State.readTfBlock (s : State) (t off : Nat) : Nat :=
  let b := s.tf t
  match off / 8 with
  | 0 => b.ceil.toNat * 2 ^ 16 + b.part.toNat
  | 1 => b2n b.evEn * 2 ^ 15 + b.evQp.toNat
  | 2 => b.dmKey0.toNat
  | 3 => b.dmKey1.toNat
  | 4 => b.quota.toNat
  | 5 => b.eDef.toNat
  | 6 => b.eLim.toNat
  | _ => 0

def State.writeTfBlock (s : State) (t off : Nat) (v : DWord) : State :=
  let n := v.toNat
  match off / 8 with
  | 0 => s.writePart t n
  | 1 => s.mapTf t fun b => { b with evEn := bitAt n 15, evQp := BitVec.ofNat 13 n }
  | 2 => s.writeDmkey t false v
  | 3 => s.writeDmkey t true v
  | 4 => s.mapTf t fun b => { b with quota := BitVec.ofNat 17 n }
  | 5 => s.mapTf t fun b => { b with eDef := BitVec.ofNat 48 n }
  | 6 => s.mapTf t fun b => { b with eLim := BitVec.ofNat 48 n }
  | _ => s

/-- A queue pair entry (Table 20-2). -/
def State.readQp (s : State) (q off : Nat) : Nat :=
  let x := s.qpAt q
  match off / 8 with
  | 0 => x.dqpn.toNat * 2 ^ 40 + x.pmtu.toNat * 2 ^ 36 + x.lq.toNat * 2 ^ 24 + x.tf.toNat * 2 ^ 16 + x.port.toNat * 256 +
         x.state.toNat * 2 + b2n x.en
  | 1 => x.rpsn.toNat * 2 ^ 32 + x.spsn.toNat
  | 2 => x.gid.toNat % 2 ^ 64
  | 3 => x.gid.toNat / 2 ^ 64
  | 4 => x.rkey.toNat
  | _ => 0

def State.writeQp (s : State) (q off : Nat) (v : DWord) : State :=
  let n := v.toNat
  s.mapQp q fun x =>
    match off / 8 with
    | 0 => { x with
        dqpn := BitVec.ofNat 24 (field n 40 24), pmtu := BitVec.ofNat 4 (field n 36 4), lq := BitVec.ofNat 12 (field n 24 12)
        tf := BitVec.ofNat 8 (field n 16 8), port := BitVec.ofNat 1 (field n 8 1), state := BitVec.ofNat 2 (field n 1 2)
        en := bitAt n 0 }
    | 1 => { x with rpsn := BitVec.ofNat 24 (field n 32 24), spsn := BitVec.ofNat 24 n }
    | 2 => { x with gid := BitVec.ofNat 128 (x.gid.toNat / 2 ^ 64 * 2 ^ 64 + n) }
    | 3 => { x with gid := BitVec.ofNat 128 (n * 2 ^ 64 + x.gid.toNat % 2 ^ 64) }
    | 4 => { x with rkey := BitVec.ofNat 32 n }
    | _ => x

/-- An import entry (Table 20-6). -/
def State.readImport (s : State) (i off : Nat) : Nat :=
  let x := look s.imports i Import.reset
  if off = 0 then x.base.toNat * 2 ^ 21 + b2n x.ro * 2 + b2n x.en else x.limit.toNat * 2 ^ 21 + x.src.toNat

def State.writeImport (s : State) (i off n : Nat) : State :=
  let x := look s.imports i Import.reset
  { s with
    imports := put s.imports i
      (if off = 0 then { x with base := BitVec.ofNat 31 (field n 21 31), ro := bitAt n 1, en := bitAt n 0 }
       else { x with limit := BitVec.ofNat 31 (field n 21 31), src := BitVec.ofNat 20 n }) }

/-- Keeper controls (Tables 15-1, 16-4, 02-4), offsets from 0x0200_0000. -/
def State.readKeeper (s : State) (off : Nat) : Nat :=
  let c := s.ctl
  if off = 0 then c.age.toNat * 2 ^ 32 + c.prewait.toNat * 2 ^ 16 + c.quantum.toNat
  else if off = 8 then c.static.toNat
  else if off = 0x10 then c.timeout.toNat
  else if 0x100 ≤ off ∧ off < 0x148 then (c.weights.getD ((off - 0x100) / 8) 0).toNat
  else if 0x10_0000 ≤ off ∧ off < 0x18_0000 then s.ctxstat ((off - 0x10_0000) / 8)
  else if 0x80_0000 ≤ off ∧ off < 0x90_0000 then
    match s.poolEntry ((off - 0x80_0000) / 0x800) (off % 0x800 / 8) with
    | some e => (e.encode (!(s.teamAt e.ctx).retained)).toNat
    | none => 0
  else 0

def State.writeKeeper (s : State) (off n : Nat) : State :=
  let c := s.ctl
  if off = 0 then
    { s with ctl := { c with age := BitVec.ofNat 16 (field n 32 16), prewait := BitVec.ofNat 16 (field n 16 16),
                             quantum := BitVec.ofNat 16 n } }
  else if off = 8 then { s with ctl := { c with static := BitVec.ofNat 32 n } }
  else if off = 0x10 then { s with ctl := { c with timeout := BitVec.ofNat 16 n } }
  else if 0x100 ≤ off ∧ off < 0x148 then { s with ctl := { c with weights := c.weights.set ((off - 0x100) / 8) (BitVec.ofNat 32 n) } }
  else s

/-- Health and identity registers (Tables 21-3, 21-6), offsets from 0x0300_0000. -/
def State.readHealth (s : State) (off : Nat) : Nat :=
  let bytes (f : Nat → Byte) (base n : Nat) : Nat :=
    ofLe ((upTo 8).map fun i => if off - base + i < n then f (off - base + i) else 0)
  if off = 0 then s.hstat
  else if off = 8 then s.health.cethr.toNat * 2 ^ 32 + s.health.pcap.toNat * 2 ^ 16 + b2n s.health.abusy * 2
  else if off = 0x10 then s.health.attAddr.toNat * 512
  else if 0x1000 ≤ off ∧ off < 0x1180 then bytes (fun i => (beBytes 384 identityModulus).getD i 0) 0x1000 384
  else if off = 0x1180 then Config.certificateLength % 3585
  else if 0x1200 ≤ off ∧ off < 0x2000 then bytes Config.certificate 0x1200 (Config.certificateLength % 3585)
  else 0

def State.writeHealth (s : State) (off n : Nat) : State :=
  if off = 8 then s.writeHctl n
  else if off = 0x10 then { s with health := { s.health with attAddr := BitVec.ofNat 43 (field n 9 43) } }
  else s

/-- A load of 8 bytes from the service window (R34): an offset that nothing is assigned to reads zero, and the
window answers only once READY = 1 (R403). -/
def State.svcRead (s : State) (off : Nat) : Nat :=
  if !s.health.ready then 0
  else if off < 0x10_0000 then s.readTtBlock (off / 4096) (off % 4096)
  else if off < 0x10_8000 then
    let e := look s.aperts ((off - 0x10_0000) / 8) Aperture.reset
    e.dev.toNat * 256 + b2n e.ro * 2 + b2n e.v
  else if 0x100_0000 ≤ off ∧ off < 0x102_0000 then s.readQueue ((off - 0x100_0000) / 32) (off % 32)
  else if 0x102_0000 ≤ off ∧ off < 0x102_4000 then s.readTfBlock ((off - 0x102_0000) / 64) (off % 64)
  else if off = 0x103_0000 then s.partctl
  else if off = 0x103_0008 then s.fabctl
  else if 0x103_1000 ≤ off ∧ off < 0x103_1400 then s.readImport ((off - 0x103_1000) / 16) (off % 16)
  else if 0x104_0000 ≤ off ∧ off < 0x104_8000 then
    let e := look s.slotTab ((off - 0x104_0000) / 8) SlotEntry.reset
    e.slot.toNat * 2 ^ 32 + e.tf.toNat * 2 ^ 24 + b2n e.en
  else if 0x108_0000 ≤ off ∧ off < 0x110_0000 then s.readQp ((off - 0x108_0000) / 64) (off % 64)
  else if 0x200_0000 ≤ off ∧ off < 0x300_0000 then s.readKeeper (off - 0x200_0000)
  else if 0x300_0000 ≤ off ∧ off < 0x400_0000 then s.readHealth (off - 0x300_0000)
  else 0

/-- A store of 8 bytes performs at the service window (R34), by an operation of a group or not. -/
def State.svcPut (s : State) (who : Option (Nat × Nat × Nat)) (off : Nat) (v : DWord) : State :=
  let n := v.toNat
  if !s.health.ready then s
  else if off < 0x10_0000 then s.writeTtBlock (off / 4096) (off % 4096) v who
  else if off < 0x10_8000 then
    { s with aperts := put s.aperts ((off - 0x10_0000) / 8) { dev := BitVec.ofNat 20 (field n 8 20), ro := bitAt n 1, v := bitAt n 0 } }
  else if 0x100_0000 ≤ off ∧ off < 0x102_0000 then s.writeQueue ((off - 0x100_0000) / 32) (off % 32) v
  else if 0x102_0000 ≤ off ∧ off < 0x102_4000 then s.writeTfBlock ((off - 0x102_0000) / 64) (off % 64) v
  else if off = 0x103_0000 then s.writePartctl n
  else if off = 0x103_0008 then
    { s with ctl := { s.ctl with ven := bitAt n 31, devid := if s.ctl.ven then s.ctl.devid else BitVec.ofNat 20 n } }
  else if 0x103_1000 ≤ off ∧ off < 0x103_1400 then s.writeImport ((off - 0x103_1000) / 16) (off % 16) n
  else if 0x104_0000 ≤ off ∧ off < 0x104_8000 then s.writeSlotEntry ((off - 0x104_0000) / 8) n
  else if 0x108_0000 ≤ off ∧ off < 0x110_0000 then s.writeQp ((off - 0x108_0000) / 64) (off % 64) v
  else if 0x200_0000 ≤ off ∧ off < 0x300_0000 then s.writeKeeper (off - 0x200_0000) n
  else if 0x300_0000 ≤ off ∧ off < 0x400_0000 then s.writeHealth (off - 0x300_0000) n
  else s

/-- A store to the service window: behind a held command of the same group it waits (R148). -/
def State.svcWriteBy (s : State) (who : Option (Nat × Nat × Nat)) (off : Nat) (v : DWord) : State :=
  match who with
  | some (ctx, grp, op) =>
    if s.serviceHeld ctx grp then { s with ctl := { s.ctl with behind := s.ctl.behind ++ [((ctx, grp, op), off, v)] } }
    else s.svcPut who off v
  | none => s.svcPut none off v

def State.svcWrite (s : State) (off : Nat) (v : DWord) : State := s.svcWriteBy none off v

/-- Once a held command has taken effect, the stores that waited behind it perform in their order, as far as none of
them is held in turn, and the words of those groups go on (R148). -/
def State.svcRelease (s : State) : State :=
  let s := s.ctl.behind.foldl (fun s x => s.svcWriteBy (some x.1) x.2.1 x.2.2) { s with ctl := { s.ctl with behind := [] } }
  s.teams.foldl (fun s t => s.unhold t.ctx) s

end Sys2Proof.Machine
end

