-- ==== Sys2Proof/Machine/Launch.lean ====
section
/-!
DEFINITION. Launch records: the layout of a team (R165, R169, R170), and the checks of Table 06-4 with those of
R295, R324, R329 and R341 (R173).
-/

namespace Sys2Proof.Machine

/-! ## The layout of a team (R165, R169) -/

/-- A role entry of zeros. -/
def Role.reset : Role :=
  { entry := 0, handler := 0, width := 16, vregs := 8, hdim := 4096, hregs := 0, bregs := 0, bwidth := 8 }

/-- Granules that hold a number of bytes. -/
def granulesOf (n : Nat) : Nat := (n + 4095) / 4096

/-- R55: the size of a frame of width w and budget b. -/
def frameBytes (w b : Nat) : Nat := b * w * 4 + 64 * ((b + 63) / 64) + 512

/-- R169: the bytes of a group's hypervector region. -/
def Role.hvBytes (x : Role) : Nat := x.hregs * (x.hdim / 8) + x.bregs * x.hdim * (x.bwidth / 8)

/-- The code object that a launch names. -/
def State.objectOf (s : State) (l : Launch) : Option CodeObject := ((s.tf l.tf.toNat).slot l.codeSlot).object

def Launch.roleOf (l : Launch) (o : CodeObject) (r : Nat) : Role := o.roles.getD (l.ridx r) Role.reset

/-- The vector register budget of role r (Table 06-2). -/
def Launch.budgetOf (l : Launch) (o : CodeObject) (r : Nat) : Nat :=
  if l.vbudget r = 0 then (l.roleOf o r).vregs else l.vbudget r

/-- The role of each group of a team, in group order. -/
def Launch.groupRoles (l : Launch) : List Nat := (upTo l.nRoles).flatMap fun r => List.replicate (l.roleGroups r) r

/-- Granules of each group's frame region, and of its hypervector region. -/
def Launch.frameSizes (l : Launch) (o : CodeObject) : List Nat :=
  l.groupRoles.map fun r => granulesOf (frameBytes (l.roleOf o r).width (l.budgetOf o r))

def Launch.hvSizes (l : Launch) (o : CodeObject) : List Nat :=
  l.groupRoles.map fun r => granulesOf (l.roleOf o r).hvBytes

/-- Where the regions after the frames begin, and the sizes of R169, in granules. -/
def Launch.accStart (l : Launch) (o : CodeObject) : Nat := (l.frameSizes o).sum
def Launch.hvStart (l : Launch) (o : CodeObject) : Nat := l.accStart o + 8 * l.nAcc
def Launch.stagingStart (l : Launch) (o : CodeObject) : Nat := l.hvStart o + (l.hvSizes o).sum
def Launch.fixedSize (l : Launch) (o : CodeObject) : Nat := l.stagingStart o + l.stage
def Launch.initialSize (l : Launch) (o : CodeObject) : Nat := l.fixedSize o + l.shInit
def Launch.maximumSize (l : Launch) (o : CodeObject) : Nat := l.fixedSize o + l.shMax

/-- Groups that stand in a quadrant (R165). -/
def quadNeed (n quad : Nat) : Nat := (n + 3 - quad) / 4

/-- The cores of a partition that are in service (R32, R410). A core whose matrix array is retired counts as
retired (R404: they fail together). -/
def State.partCores (s : State) (part : Nat) : List Nat :=
  (upTo Config.cores).filter fun c => s.partOfCore c == part && !s.health.retiredCores.contains c

/-! ## Tiles (Table 06-3) -/

/-- Whether two runs of bytes meet, modulo 2^64. -/
def runsMeet (a b : DWord × Nat) : Bool := decide ((a.1 - b.1).toNat < b.2) || decide ((b.1 - a.1).toNat < a.2)

/-- Whether two tiles share a byte. -/
def tilesMeet (d e : List Byte) : Bool := (tileRows d).any fun a => (tileRows e).any fun b => runsMeet a b

/-- The pages that a run of bytes touches, as va[56:12] (R140). -/
def runPages (a : DWord) (n : Nat) : List Nat :=
  if n = 0 then [] else (upTo ((a.toNat % 4096 + n - 1) / 4096 + 1)).map fun i => pageOf (a + BitVec.ofNat 64 (4096 * i))

def tilePages (d : List Byte) : List Nat := dedup ((tileRows d).flatMap fun (a, n) => runPages a n)

/-- The argument tiles of a pure launch, and its result tile. -/
def Launch.args (l : Launch) : List (List Byte) := (upTo l.nArgs).map l.tile
def Launch.result (l : Launch) : List Byte := l.tile 4

/-! ## Keeper reads that may fail -/

/-- A missing page of an access that cannot park is a fault (R139, R143). -/
def orFault {α : Type} (t : Nat) (m : M α) : M α := fun s =>
  match m s with
  | .error (.miss f) s' => if s'.parks t then .error (.miss f) s' else .error (.fault f) s'
  | r => r

/-- None where a read faults; a park goes on to the caller. -/
def tryRead {α : Type} (t : Nat) (m : M α) : M (Option α) := fun s =>
  match orFault t m s with
  | .ok x s' => .ok (some x) s'
  | .error (.fault _) s' => .ok none s'
  | .error st s' => .error st s'

/-! ## The checks (Table 06-4) -/

def canonicalN (n : Nat) : Bool := canonical (BitVec.ofNat 64 n)

/-- The first failing check of a list of (reason, passed). -/
def firstFail (cs : List (Nat × Bool)) : Option Nat := (cs.find? fun c => !c.2).map (·.1)

/-- Reason 0x03. -/
def Launch.rolesOk (l : Launch) (o : CodeObject) : Bool :=
  decide (1 ≤ l.nRoles) && decide (l.nRoles ≤ 4) &&
    (upTo l.nRoles).all (fun r =>
      decide (l.ridx r < o.roles.length) && decide (1 ≤ l.roleGroups r) && decide (l.roleGroups r ≤ 32)) &&
    decide (l.groupCount ≤ 32)

/-- Reason 0x04. -/
def Launch.rolesAgree (l : Launch) (o : CodeObject) : Bool :=
  let a := l.roleOf o 0
  (upTo l.nRoles).all fun r =>
    let b := l.roleOf o r
    b.width == a.width && b.hdim == a.hdim && b.bwidth == a.bwidth

/-- Reason 0x05. -/
def Launch.budgetsOk (l : Launch) : Bool :=
  (upTo l.nRoles).all fun r =>
    let v := l.vbudget r
    v == 0 || (decide (8 ≤ v) && decide (v ≤ 128) && v % 8 == 0)

/-- Reason 0x06, with R329's part for a stream node. -/
def Launch.gridOk (l : Launch) : Bool :=
  decide (1 ≤ l.gridX) && decide (l.gridX < 2 ^ 31) && decide (1 ≤ l.gridY) && decide (1 ≤ l.gridZ) &&
    (l.inq == 0 || (l.nRoles == 1 && l.teamCount == 1))

/-- Reason 0x07. -/
def Launch.sizesOk (l : Launch) (o : CodeObject) : Bool :=
  decide (l.nAcc ≤ 8) && decide (l.shInit ≤ l.shMax) && decide (l.maximumSize o ≤ 240)

/-- Reason 0x08 but for the successors themselves. NSUCC above 64 breaks Table 06-1 and is taken here. -/
def Launch.graphAddrsOk (l : Launch) : Bool :=
  l.compl % 8 == 0 && l.succVa % 8 == 0 && canonicalN l.compl && canonicalN l.succVa && decide (l.nSucc ≤ 64)

def Launch.addrsOk (l : Launch) : Bool :=
  decide (l.constLen ≤ 512) && l.constLen % 8 == 0 && l.constVa % 8 == 0 && l.frameVa % 4096 == 0 && l.saveVa % 4096 == 0 &&
    canonicalN l.constVa && canonicalN l.frameVa && canonicalN l.saveVa && l.graphAddrsOk

/-- R324: an entry of a successor list. -/
def succOk (a : DWord) : Bool := canonical a && a.toNat % 512 == 0

/-- How many teams of a launch an empty core of the partition holds (R166). -/
def State.coreHolds (s : State) (l : Launch) (o : CodeObject) (core : Nat) : Nat :=
  let dead := (s.poolMap.filter fun e => e.1.1 == core && e.2.retired).length
  min (32 / quadNeed l.groupCount 0) ((240 - dead) / l.initialSize o)

/-- Reason 0x09, with R329's part. TSLOTS = 0 is refused (Table 06-4) though Table 19-7 lists no TSLOTS and makes unlisted
fields zero (DESIGN CHOICE, log 137). -/
def State.slotsOk (s : State) (l : Launch) (o : CodeObject) : Bool :=
  decide (1 ≤ l.tSlots) &&
    (!l.cosched ||
      (l.inq == 0 && decide (l.teamCount ≤ l.tSlots) &&
        decide (l.teamCount ≤ ((s.partCores (s.tf l.tf.toNat).part.toNat).map (s.coreHolds l o)).sum)))

/-- Reason 0x0A, with R329's and R341's parts. -/
def Launch.pureOk (l : Launch) : Bool :=
  !l.isPure ||
    (l.nRoles == 1 && decide (l.nArgs ≤ 4) && l.num8 0x70 8 == 0 && l.teamCount == 1 && !(l.args.any fun d => tilesMeet d l.result))

/-- Fields that Tables 06-1 to 06-3 mark zero. -/
def Launch.zerosOk (l : Launch) : Bool :=
  let zero (off n : Nat) : Bool := ((l.bytes.drop off).take n).all (· == 0)
  l.num8 1 1 < 128 && l.lflags < 64 &&
    (upTo 4).all (fun r => if r < l.nRoles then field (l.roleEntry r) 24 8 == 0 && field (l.roleEntry r) 6 2 == 0
                           else l.roleEntry r == 0) &&
    zero 0x56 2 && zero 0x64 4 && zero 0x78 8 && zero 0x80 64 && zero 0x160 160 &&
    (upTo 5).all fun i => zero (0xC0 + 32 * i + 0x18) 8

/-- Reason 0x0B but for the input queue descriptor, with R341's part. -/
def Launch.fieldsOk (l : Launch) : Bool :=
  decide (l.prio ≤ 7) && l.zerosOk &&
    (if l.isPure then (rangeFrom l.nArgs (4 - l.nArgs)).all fun i => (l.tile i).all (· == 0) else l.nArgs == 0)

/-- Table 14-1. -/
def inqOk (d : List Byte) : Bool :=
  let num (off n : Nat) : Nat := ofLe ((d.drop off).take n)
  num 0 8 % 256 == 0 && [16, 32, 64, 128, 256].contains (num 8 2) && decide (num 0xA 1 ≤ 20) && num 0xB 1 == 0 &&
    decide (1 ≤ num 0xC 4) && decide (num 0xC 4 ≤ 2 ^ num 0xA 1) && (d.drop 0x28).all (· == 0)

/-- R295: the descriptor of a copy node. Fields lie as in Table 11-9, which leaves FR (CTL[4]) open. -/
def copyNodeOk (d : List Byte) : Bool :=
  let num (off n : Nat) : Nat := ofLe ((d.drop off).take n)
  num 0x28 4 == 0 && num 0x2C 1 == 1 && (num 0x2D 1 == 0 || num 0x2D 1 == 0x10) && num 0x2E 18 == 0 && decide (num 0x10 4 * num 0x14 4 ≤ 16777216)

/-- What the Keeper reads of a record with KIND = 1 (R168); the other bytes are ignored. -/
def copyNodeBytes (b : List Byte) : List Byte :=
  (b.zip (upTo b.length)).map fun (x, i) =>
    if i = 2 then x &&& 0x30
    else if i = 0 ∨ i = 4 ∨ (0x58 ≤ i ∧ i < 0x64) ∨ (0x68 ≤ i ∧ i < 0x78) ∨ (0x80 ≤ i ∧ i < 0xC0) then x else 0

/-- The outcome of the checks: a refusal, or the launch with its constant table and successors. -/
inductive Vetted where
  | refuse (reason : Byte)
  | accept (l : Launch)
  deriving DecidableEq, Repr

/-- The successor list: none where its read faults. -/
def readSucc (l : Launch) : M (Option (List DWord)) := do
  let n := min l.nSucc 64
  match ← tryRead l.tf.toNat (keeperLoad l.tf.toNat (BitVec.ofNat 64 l.succVa) (8 * n) Access.keeperRead) with
  | some bs => return some ((chunksOf 8 n bs).map fun b => BitVec.ofNat 64 (ofLe b))
  | none => return none

/-- The checks of a copy node. INQ is one of its graph fields, and a stream node is a compute launch (R329). -/
def vetCopy (l : Launch) : M Vetted := do
  match firstFail [(0x06, l.inq == 0), (0x08, l.graphAddrsOk)] with
  | some r => return .refuse (BitVec.ofNat 8 r)
  | none =>
    let succ ← readSucc l
    let d := (l.bytes.drop 0x80).take 64
    match firstFail
        [(0x08, (succ.getD []).all succOk), (0x0B, decide (l.prio ≤ 7) && copyNodeOk d), (0x0C, succ.isSome)] with
    | some r => return .refuse (BitVec.ofNat 8 r)
    | none => return .accept { l with succ := succ.getD [] }

/-- R171: k0 to k63 from the launch's table, then the object's image, then zero. -/
def constWords (table image : List Byte) : List DWord :=
  let bs := table ++ image.drop table.length
  (upTo 64).map fun i => BitVec.ofNat 64 (ofLe ((bs.drop (8 * i)).take 8))

/-- The input queue descriptor of a stream node: none where its read faults; an address that is not 64-byte
aligned is read as a descriptor of zeros, which breaks Table 14-1. -/
def readInq (l : Launch) : M (Option (List Byte)) :=
  if l.inq = 0 ∨ l.inq % 64 ≠ 0 then pure (some (List.replicate 64 0))
  else tryRead l.tf.toNat (keeperLoad l.tf.toNat (BitVec.ofNat 64 l.inq) 64 Access.keeperRead)

/-- A stream node's queue as it opens (R330). -/
def openStream (l : Launch) (d : List Byte) : Option Stream :=
  let num (off n : Nat) : Nat := ofLe ((d.drop off).take n)
  if l.inq = 0 then none
  else some { inq := BitVec.ofNat 64 l.inq, base := BitVec.ofNat 64 (num 0 8), recSize := num 8 2, log2n := num 0xA 1,
              thresh := num 0xC 4, head := 0, issued := 0, freed := 0, batch := 0, queued := [], running := [],
              ended := l.preds == 0, stale := false }

/-- The checks of a compute launch. R42 and R171 take the constants at team start, R173 has the Keeper read the table
before it accepts: the bytes read at acceptance serve every team (DESIGN CHOICE, log 107), with the image of the object
that the slot holds then, also when the slot is loaded anew before a team starts (DESIGN CHOICE, log 151). -/
def vetCompute (l : Launch) : M Vetted := do
  let s ← get
  let c := (s.tf l.tf.toNat).slot l.codeSlot
  match c.state, c.object with
  | .ready, some o =>
    match firstFail
        [(0x03, l.rolesOk o), (0x04, l.rolesAgree o), (0x05, l.budgetsOk), (0x06, l.gridOk), (0x07, l.sizesOk o),
         (0x08, l.addrsOk)] with
    | some r => return .refuse (BitVec.ofNat 8 r)
    | none =>
      let succ ← readSucc l
      let early := firstFail [(0x08, (succ.getD []).all succOk), (0x09, s.slotsOk l o), (0x0A, l.pureOk), (0x0B, l.fieldsOk)]
      match early with
      | some r => return .refuse (BitVec.ofNat 8 r)
      | none =>
        let d ← readInq l
        let table ← tryRead l.tf.toNat (keeperLoad l.tf.toNat (BitVec.ofNat 64 l.constVa) l.constLen Access.keeperRead)
        match firstFail
            [(0x0B, l.inq == 0 || d.isNone || inqOk (d.getD [])), (0x0C, succ.isSome && d.isSome && table.isSome)] with
        | some r => return .refuse (BitVec.ofNat 8 r)
        | none =>
          return .accept
            { l with succ := succ.getD [], consts := constWords (table.getD []) o.consts, stream := openStream l (d.getD []) }
  | _, _ => return .refuse 0x02

def vet (l : Launch) : M Vetted :=
  if l.kind = 0 then vetCompute l else if l.kind = 1 then vetCopy l else pure (.refuse 0x01)

end Sys2Proof.Machine
end

