-- ==== Sys2Proof/Machine/Code.lean ====
section
/-!
DEFINITION. Code objects: the checks of LOAD (R152 to R158, Table 05-9), the hash of a code page at its first
fetch (R153, R159, R160), and the commands of a code slot (R157, R161).
-/

namespace Sys2Proof.Machine

/-! ## LOAD (R158) -/

/-- Little-endian fields of an image. -/
def imgNum (b : List Byte) (off n : Nat) : Nat := ofLe ((b.drop off).take n)

/-- The header's fields (Table 05-6). -/
def hSigned (b : List Byte) : Bool := bitAt (imgNum b 7 1) 0
def hCodeOff (b : List Byte) : Nat := imgNum b 8 8
def hCodeSize (b : List Byte) : Nat := imgNum b 0x10 4
def hPages (b : List Byte) : Nat := (hCodeSize b + 65535) / 65536
def hSafeCount (b : List Byte) : Nat := imgNum b 0x1C 4
def hRoleCount (b : List Byte) : Nat := imgNum b 0x24 4
def hConstSize (b : List Byte) : Nat := imgNum b 0x2C 4

/-- The metadata sections as (offset, size): page hashes, safe points, roles, constants, key, signature. -/
def hSections (b : List Byte) : List (Nat × Nat) :=
  let k := if hSigned b then 384 else 0
  [(imgNum b 0x14 4, 32 * hPages b), (imgNum b 0x18 4, 8 * hSafeCount b), (imgNum b 0x20 4, 16 * hRoleCount b),
   (imgNum b 0x28 4, hConstSize b), (imgNum b 0x30 4, k), (imgNum b 0x34 4, k)]

/-- No two runs of a list meet. -/
def runsApart : List (Nat × Nat) → Bool
  | [] => true
  | (a, n) :: t => t.all (fun (b, m) => decide (a + n ≤ b) || decide (b + m ≤ a)) && runsApart t

/-- R152: sections that are not empty lie inside the metadata, aligned, apart. -/
def sectionsOk (b : List Byte) : Bool :=
  let used := (hSections b).filter fun x => x.2 != 0
  used.all (fun (a, n) => decide (0x40 ≤ a) && decide (a + n ≤ hCodeOff b) && a % 8 == 0) && runsApart used

/-- Safe-point entries ascend strictly, with bits [31:26] zero (R154). -/
def safeAscend : List (Nat × Word) → Bool
  | (a, _) :: (b, m) :: t => decide (a < 2 ^ 26) && decide (a < b) && safeAscend ((b, m) :: t)
  | [(a, _)] => decide (a < 2 ^ 26)
  | [] => true

def imgSafe (b : List Byte) : List (Nat × Word) :=
  (upTo (hSafeCount b)).map fun i =>
    let off := imgNum b 0x18 4 + 8 * i
    (imgNum b off 4, BitVec.ofNat 32 (imgNum b (off + 4) 4))

/-- A role table entry (Table 05-7). -/
def imgRole (b : List Byte) (i : Nat) : Role :=
  let off := imgNum b 0x20 4 + 16 * i
  { entry := imgNum b off 4, handler := BitVec.ofNat 32 (imgNum b (off + 4) 4), width := imgNum b (off + 8) 1,
    vregs := imgNum b (off + 9) 1, hdim := 4096 * 2 ^ imgNum b (off + 10) 1, hregs := imgNum b (off + 11) 1,
    bregs := imgNum b (off + 12) 1, bwidth := imgNum b (off + 13) 1 }

def roleOk (b : List Byte) (i : Nat) : Bool :=
  let x := imgRole b i
  let words := hCodeSize b / 4
  decide (x.entry < words) && (x.handler == 0xFFFFFFFF || decide (x.handler.toNat < words)) &&
    [16, 32, 64].contains x.width && decide (8 ≤ x.vregs) && decide (x.vregs ≤ 128) && x.vregs % 8 == 0 &&
    decide (imgNum b (imgNum b 0x20 4 + 16 * i + 10) 1 ≤ 2) && decide (x.hregs ≤ 16) && decide (x.bregs ≤ 4) &&
    [8, 16].contains x.bwidth && imgNum b (imgNum b 0x20 4 + 16 * i + 14) 2 == 0

/-- R156: the key's hash where the tenant fixes one, and the signature over the image with its own bytes zero. -/
def signatureOk (b : List Byte) (keyHash : List DWord) : Bool :=
  let modulus := (b.drop (imgNum b 0x30 4)).take 384
  let at' := imgNum b 0x34 4
  let signature := (b.drop at').take 384
  let message := b.take at' ++ List.replicate 384 0 ++ (b.take (hCodeOff b)).drop (at' + 384)
  (keyHash.all (· == 0) || sha256 modulus == keyHash.flatMap fun k => leBytes 8 k.toNat) &&
    rsaVerify modulus signature (sha256 message)

/-- The checks that need the header alone (ERR 0x02 to 0x05). A safe-point count above its bound is taken with the
entries. -/
def headerFail (h : List Byte) : Option Nat :=
  firstFail
    [(0x02, imgNum h 0 4 == 0x4F434E47 && imgNum h 4 2 == 1 && decide (imgNum h 7 1 < 2) && imgNum h 0x38 8 == 0 &&
        (hSigned h || (imgNum h 0x30 4 == 0 && imgNum h 0x34 4 == 0))),
     (0x03, imgNum h 6 1 == 1 || imgNum h 6 1 == 2),
     (0x04, hCodeOff h % 65536 == 0 && decide (65536 ≤ hCodeOff h) && hCodeSize h % 4 == 0 && decide (4 ≤ hCodeSize h) &&
        decide (hCodeSize h ≤ 268435456)),
     (0x05, sectionsOk h)]

/-- The checks of the whole metadata (ERR 0x06 to 0x0B); `b` is none where the reads fault. -/
def imageFail (h : List Byte) (b : Option (List Byte)) (keyHash : List DWord) : Option Nat :=
  firstFail
    [(0x06, decide (hSafeCount h ≤ 1048576) && (match b with | some b => safeAscend (imgSafe b) | none => true)),
     (0x07, decide (1 ≤ hRoleCount h) && decide (hRoleCount h ≤ 64) &&
        (match b with | some b => (upTo (hRoleCount h)).all (roleOk b) | none => true)),
     (0x08, decide (hConstSize h ≤ 512) && hConstSize h % 8 == 0),
     (0x09, keyHash.all (· == 0) || hSigned h),
     (0x0A, !hSigned h || (match b with | some b => signatureOk b keyHash | none => true)),
     (0x0B, b.isSome)]

/-- What the slot keeps of an image that passes. -/
def imgObject (b : List Byte) : CodeObject :=
  { mmrev := imgNum b 6 1, codeOff := hCodeOff b, codeSize := hCodeSize b
    hashes := chunksOf 32 (hPages b) ((b.drop (imgNum b 0x14 4)).take (32 * hPages b))
    safe := imgSafe b, roles := (upTo (hRoleCount b)).map (imgRole b)
    consts := (b.drop (imgNum b 0x28 4)).take (hConstSize b), verified := [], hash := none }

/-- The reads and checks of LOAD: the object, or ERR. -/
def loadObject (t : Nat) (base : DWord) : M (Except Nat CodeObject) := do
  if !canonical base || base.toNat % 65536 != 0 then return .error 0x01
  match ← tryRead t (keeperLoad t base 64 Access.keeperRead) with
  | none => return .error 0x0B
  | some h =>
    match headerFail h with
    | some e => return .error e
    | none =>
      let b ← tryRead t (keeperLoad t base (hCodeOff h) Access.keeperRead)
      match imageFail h b ((← get).tf t).keyHash with
      | some e => return .error e
      | none => return .ok (imgObject (b.getD []))

/-- LOAD's reads complete; or they park, and the slot stays loading (R139). -/
def State.loadEnd (s : State) (t slot : Nat) : State :=
  let c := (s.tf t).slot slot
  match loadObject t c.base s with
  | .ok (.ok o) s => s.mapSlot t slot fun c => { c with state := .ready, err := 0, object := some o }
  | .ok (.error e) s => s.mapSlot t slot fun c => { c with state := .failed, err := BitVec.ofNat 8 e, object := none }
  | .error (.miss f) s => match s.parkKeeper t 0 f with
    | (some k, s) => s.mapSlot t slot fun c => { c with parked := some k }
    | (none, s) => s
  | .error _ s => s

def execCodeLoadVerify (tf : BitVec 8) (slot : BitVec 7) (s : State) : Out :=
  let c := (s.tf tf.toNat).slot slot.toNat
  .next (if c.state == .loading && c.parked.isNone then s.loadEnd tf.toNat slot.toNat else s)

/-! ## Code pages (R153, R159, R160) -/

/-- The SHA-256 of a page, with the bytes at or beyond CODE_SIZE as zero. -/
def pageHash (bs : List Byte) : List Byte := sha256 (bs ++ List.replicate (65536 - bs.length) 0)

/-- A code page's bytes below CODE_SIZE, and whether one is poisoned. -/
def readCodePage (t core : Nat) (base : DWord) (o : CodeObject) (page : Nat) (a : Access) : M (List Byte × Bool) :=
  pagedRead t core (base + BitVec.ofNat 64 (o.codeOff + 65536 * page)) (min 65536 (o.codeSize - 65536 * page)) a

/-- The parties that wait for a page of a slot. -/
def State.pageWaiters (s : State) (t slot page : Nat) : List PartyRef :=
  s.allParties.filter fun p =>
    (s.partyOf p).wait == .code page && s.tfOf p.ctx == t && (s.launchOf p.ctx).codeSlot == slot

/-- DETAIL of CODE_INTEGRITY (Table 05-3). -/
def codeDetail (slot page : Nat) : Word := BitVec.ofNat 32 (slot + page * 256)

/-- A mismatch (R160): the object is poisoned and every team of it ends; `skip` has a record of its own. -/
def State.poisonObject (s : State) (t slot : Nat) (skip : Option Nat) : State :=
  (s.mapSlot t slot fun c => { c with state := .poisoned }).endObject t slot cCodeIntegrity 0 true skip

/-- The first waiting party's page has been read. The spec does not say which VA and word the record of a mismatch
names: VA 0 and word 0, the header (DESIGN CHOICE, log 108). -/
def State.pageRead (s : State) (t slot page : Nat) (p : PartyRef) (o : CodeObject) (bs : List Byte) (bad : Bool) : State :=
  if bad then s.faultParty p { plainFault cDataPoison 0 with acc := 0x04 }
  else if pageHash bs == o.hashes.getD page [] then
    let s := s.mapSlot t slot fun c =>
      { c with object := c.object.map fun o => { o with verified := o.verified ++ [page] } }
    (s.pageWaiters t slot page).foldl (fun s p => s.mapPartyOf p s.readyParty) s
  else
    let f := { plainFault cCodeIntegrity (codeDetail slot page) with acc := 0x04 }
    let s := s.addRecord t (s.partyRecord p f 0 false) (some (s.launchOf p.ctx).id) true
    (s.poisonObject t slot (some p.ctx)).retireParty p

/-- The first fetch from a page: its bytes are read for the first party that waits, and hashed. -/
def State.verifyPage (s : State) (t slot page : Nat) : State :=
  match s.pageWaiters t slot page, ((s.tf t).slot slot).object with
  | p :: _, some o =>
    match readCodePage t (s.coreOf p.ctx) ((s.tf t).slot slot).base o page Access.fetch s with
    | .ok (bs, bad) s => s.pageRead t slot page p o bs bad
    | .error (.miss f) s => s.parkParty p f
    | .error (.fault f) s => s.faultParty p f
    | .error _ s => s
  | _, _ => s

def execCodePageVerify (tf : BitVec 8) (slot : BitVec 7) (page : Nat) (s : State) : Out :=
  .next (s.verifyPage tf.toNat slot.toNat page)

/-- The object of a slot that is being unloaded has no context left (R161). -/
def execCodeObjectEmpty (tf : BitVec 8) (slot : BitVec 7) (s : State) : Out :=
  let c := (s.tf tf.toNat).slot slot.toNat
  .next (if c.state == .unloading && c.refs == 0 then s.mapSlot tf.toNat slot.toNat CodeSlot.emptied else s)

/-! ## Commands (R157, R161) -/

/-- A write of 8 bytes to a service register, when it is the one that an event names. -/
def State.svcEvent (s : State) (off : Nat) (v : DWord) (ok : Bool) : State := if ok then s.svcWrite off v else s

def codectlOff (tf : BitVec 8) (slot : BitVec 7) : Nat := 4096 * tf.toNat + 0x808 + 16 * slot.toNat

def codeCmd (v : DWord) : Nat := field v.toNat 0 2
def codeForce (v : DWord) : Bool := v.getLsbD 2

/-- Whether a slot in a state accepts a command: LOAD, UNLOAD, or UNLOAD with force. -/
def SlotState.accepts (x : SlotState) (cmd : Nat) (force : Bool) : Bool :=
  match cmd, x with
  | 1, .empty => true
  | 1, .failed => true
  | 2, .loading => false
  | 2, .unloading => force
  | 2, _ => true
  | _, _ => false

def State.slotAccepts (s : State) (tf : BitVec 8) (slot : BitVec 7) (v : DWord) : Bool :=
  ((s.tf tf.toNat).slot slot.toNat).state.accepts (codeCmd v) (codeForce v)

def execCodeLoad (tf : BitVec 8) (slot : BitVec 7) (v : DWord) (s : State) : Out :=
  .next (s.svcEvent (codectlOff tf slot) v (codeCmd v == 1 && s.slotAccepts tf slot v))

def execCodeUnload (tf : BitVec 8) (slot : BitVec 7) (v : DWord) (s : State) : Out :=
  .next (s.svcEvent (codectlOff tf slot) v (codeCmd v == 2 && !codeForce v && s.slotAccepts tf slot v))

def execCodeUnloadForce (tf : BitVec 8) (slot : BitVec 7) (v : DWord) (s : State) : Out :=
  .next (s.svcEvent (codectlOff tf slot) v (codeCmd v == 2 && codeForce v && s.slotAccepts tf slot v))

/-- A command of 3, or in a state that does not accept it, changes nothing. -/
def execCodeCmdIgnored (tf : BitVec 8) (slot : BitVec 7) (v : DWord) (s : State) : Out :=
  .next (s.svcEvent (codectlOff tf slot) v (codeCmd v != 0 && !s.slotAccepts tf slot v))

end Sys2Proof.Machine
end

