-- ==== Sys2Proof/Machine/Daymark.lean ====
section
/-!
DEFINITION. The Daymark: the code hash and the key of a pure launch (R341, R342, Table 14-4), lookup (R343), the
watch on its tiles (R344, R89), recording and replacement (R344), and the loss of entries (R88, R146).
-/

namespace Sys2Proof.Machine

/-! ## The key (R341, R342) -/

/-- The pages of an object's code section. -/
def CodeObject.pages (o : CodeObject) : Nat := (o.codeSize + 65535) / 65536

/-- The code section's bytes, each page verified as a first fetch verifies it: a reason to refuse the launch where a
read faults or a page fails; the object is then poisoned, and the Keeper takes the record (R160). -/
def codeBytes (l : Launch) (base : DWord) (o : CodeObject) : List Nat → M (Except Byte (List Byte))
  | [] => pure (.ok [])
  | p :: rest => do
    let t := l.tf.toNat
    match ← tryRead t (readCodePage t keeperCore base o p Access.keeperCode) with
    | none => return .error 0x0C
    | some (bs, _) =>
      let c := ((← get).tf t).slot l.codeSlot
      let known := (match c.object with | some o => o.verified.contains p | none => true)
      if !known && pageHash bs != o.hashes.getD p [] then
        modify fun s => (s.addRecord t
          (keeperRecord l.num { plainFault cCodeIntegrity (codeDetail l.codeSlot p) with acc := 0x44 } 0 false) none
          false).poisonObject t l.codeSlot none
        return .error 0x02
      else
        if !known then modify fun s => s.mapSlot t l.codeSlot fun c =>
          { c with object := c.object.map fun o => { o with verified := o.verified ++ [p] } }
        match ← codeBytes l base o rest with
        | .ok more => return .ok (bs ++ more)
        | e => return e

/-- The hash of the code section, kept with the slot (R342). -/
def codeHash (l : Launch) (o : CodeObject) : M (Except Byte (List Byte)) := do
  match o.hash with
  | some h => return .ok h
  | none =>
    let t := l.tf.toNat
    match ← codeBytes l (((← get).tf t).slot l.codeSlot).base o (upTo o.pages) with
    | .error e => return .error e
    | .ok bs =>
      let h := sha256 bs
      modify fun s => s.mapSlot t l.codeSlot fun c => { c with object := c.object.map fun o => { o with hash := some h } }
      return .ok h

/-- HDIM as the role table codes it (Table 05-7). -/
def hdimCode (d : Nat) : Nat := if d = 4096 then 0 else if d = 8192 then 1 else 2

/-- Table 14-4. -/
def Launch.keyMessage (l : Launch) (o : CodeObject) (hash : List Byte) : List Byte :=
  let r := l.roleOf o 0
  hash ++ leBytes 4 r.entry ++
    [r.width, l.budgetOf o 0, hdimCode r.hdim, r.hregs, r.bregs, r.bwidth, l.nAcc, l.roleGroups 0, l.stage, l.shInit, l.shMax,
     0].map (BitVec.ofNat 8) ++
    l.consts.flatMap (fun k => leBytes 8 k.toNat) ++ (l.bytes.drop 0xC0).take 128 ++ leBytes 8 l.seed.toNat

/-- The key of a launch under its tenant function's Daymark key. -/
def State.keyOf (s : State) (l : Launch) (o : CodeObject) (hash : List Byte) : Nat :=
  sipHash128 (s.tf l.tf.toNat).dmKey0 (s.tf l.tf.toNat).dmKey1 (l.keyMessage o hash)

/-! ## Sets (R87) -/

def State.setsOf (s : State) : Nat := 4096 / s.parts

/-- The global number of the slice that homes a set of a partition's Daymark. -/
def State.setSlice (s : State) (part set : Nat) : Nat := 768 / s.parts * part + set % (768 / s.parts)

/-- An entry of a key. -/
def State.keyed (s : State) (tf : BitVec 8) (key : Nat) (e : DaymarkEntry) : Bool :=
  e.part == (s.tf tf.toNat).part.toNat && e.set == key % s.setsOf && e.tag == key / s.setsOf && e.tf == tf

def State.dropKey (s : State) (tf : BitVec 8) (key : Nat) : State :=
  s.mapSide fun m => { m with daymark := m.daymark.filter fun e => !s.keyed tf key e }

/-! ## Lookup (R343) -/

/-- ROWBYTES and ROWS of a tile descriptor. -/
def tileShape (d : List Byte) : Nat × Nat := (ofLe ((d.drop 8).take 4), ofLe ((d.drop 12).take 4))

/-- A hit: equal key and shape, and a result span that is the new one or does not meet it. -/
def State.lookup (s : State) (l : Launch) (key : Nat) : Option DaymarkEntry :=
  s.side.daymark.find? fun e =>
    s.keyed l.tf key e && tileShape e.result == tileShape l.result &&
      (decide (tileRows e.result = tileRows l.result) || !tilesMeet e.result l.result)

/-- The entry becomes the most recently used. -/
def State.touchKey (s : State) (tf : BitVec 8) (key : Nat) : State :=
  { (s.mapSide fun m =>
      { m with daymark := m.daymark.map fun e => if s.keyed tf key e then { e with stamp := s.stamp } else e }) with
    stamp := s.stamp + 1 }

/-! ## The watch (R89, R344) -/

/-- The pages of a pure launch's tiles, each with an address on it. -/
def Launch.watchPages (l : Launch) : List Nat := dedup ((l.args ++ [l.result]).flatMap tilePages)

/-- The frame of a resident page of a tenant function. -/
def State.pageFrame (s : State) (t page : Nat) : Option Nat :=
  match translate t keeperCore none (pageVa page) Access.control s with
  | .ok x _ => some (frameNo x.pa)
  | .error _ _ => none

/-- The pending watch of a launch that misses: the frames of its resident tile pages, where they can be watched, and
the pages that are not resident. -/
def State.beginWatch (s : State) (l : Launch) (key : Nat) : Pure :=
  let found := l.watchPages.map fun p => (p, s.pageFrame l.tf.toNat p)
  let pairs := found.filterMap fun x => x.2.map fun f => (x.1, f)
  { key := key, clean := true, frames := s.takeWatches (pairs.map (·.2))
    missing := (found.filter fun x => x.2.isNone).map (·.1), result := pairs }

/-- A hit whose copy faulted runs as a miss, without its entry (R343). -/
def State.runAsMiss (s : State) (id : Nat) : State :=
  let l := s.launchAt id
  match l.pure with
  | none => s
  | some p =>
    let s := s.dropKey l.tf p.key
    s.mapLaunch id fun l => { l with reuse := false, copy := none, pure := some (s.beginWatch l p.key) }

/-! ## Recording (R344) -/

/-- Remove the least recently used of the entries that `p` chooses. -/
def State.dropOldest (s : State) (p : DaymarkEntry → Bool) : State :=
  match leastBy (·.stamp) (s.side.daymark.filter p) with
  | some e => s.mapSide fun m => { m with daymark := m.daymark.filter fun x => x != e }
  | none => s

/-- Entries of a tenant function leave until it holds less than its quota; `n` bounds them. -/
def State.makeQuota (s : State) (part quota : Nat) (tf : BitVec 8) : Nat → State
  | 0 => s
  | n + 1 =>
    let mine (e : DaymarkEntry) : Bool := e.part == part && e.tf == tf
    if (s.side.daymark.filter mine).length < quota then s else State.makeQuota (s.dropOldest mine) part quota tf n

/-- A free way of the set: the tenant function's oldest entry of it leaves, or the set's, when it is full. -/
def State.makeWay (s : State) (part set : Nat) (tf : BitVec 8) : State :=
  let here (e : DaymarkEntry) : Bool := e.part == part && e.set == set
  if (s.side.daymark.filter here).length < 16 then s
  else if s.side.daymark.any (fun e => here e && e.tf == tf) then s.dropOldest fun e => here e && e.tf == tf
  else s.dropOldest here

/-- The frames of a launch's tile pages: none while a page is not resident. -/
def State.tileFrames (s : State) (l : Launch) : Option (List Nat) :=
  l.watchPages.mapM fun p => s.pageFrame l.tf.toNat p

/-- The entry of a clean pure task that completes DONE is recorded, when every tile page is resident and every
frame is watched. -/
def State.recordPure (s : State) (l : Launch) : State :=
  match l.pure, s.tileFrames l with
  | some p, some frames =>
    let b := s.tf l.tf.toNat
    let part := b.part.toNat
    if p.clean && frames.all p.frames.contains && b.quota != 0 then
      let s := s.dropKey l.tf p.key
      let s := s.makeQuota part b.quota.toNat l.tf s.side.daymark.length
      let s := s.makeWay part (p.key % s.setsOf) l.tf
      let e : DaymarkEntry :=
        { part := part, set := p.key % s.setsOf, tag := p.key / s.setsOf, tf := l.tf, result := l.result
          spans := (l.args ++ [l.result]).flatMap fun d => (tileRows d).map fun (a, n) => (a.toNat, n)
          frames := dedup frames, stamp := s.stamp }
      { (s.mapSide fun m => { m with daymark := m.daymark ++ [e] }) with stamp := s.stamp + 1 }
    else s
  | _, _ => s

/-! ## Slices that retire (R88) -/

/-- Entries whose set or whose watch records lie in a slice that retires are invalidated; so is the pending watch of
a running task. -/
def State.retireWatches (s : State) (slice : Nat) : State :=
  let lost (frames : List Nat) : Bool := frames.any fun f => (s.frameSlices f).contains slice
  let s := s.mapSide fun m =>
    { m with daymark := m.daymark.filter fun e => !(s.setSlice e.part e.set == slice || lost e.frames) }
  { s with
    launches := s.launches.map fun l =>
      { l with pure := l.pure.map fun p => if lost p.frames then { p with clean := false } else p } }

end Sys2Proof.Machine
end

