-- ==== Sys2Proof/Machine/Float.lean ====
section
/-!
DEFINITION. Number formats and arithmetic (R183 to R203, R413): decoding to exact values, exact sums, products,
quotients and roots, rounding in every mode, LG8, conversion to integers, and the special functions.
-/

namespace Sys2Proof.Machine

/-- A floating-point format (Table 07-1): exponent and mantissa bits, bias, whether it has infinities and NaNs
of the IEEE kind; E4M3 has the NaN code alone and E2M1 has neither. -/
structure Fmt where
  ebits : Nat
  mbits : Nat
  bias  : Nat
  ieee  : Bool
  nan   : Bool
  deriving DecidableEq, Repr

def Fmt.fp32 : Fmt := { ebits := 8, mbits := 23, bias := 127, ieee := true, nan := true }
def Fmt.fp16 : Fmt := { ebits := 5, mbits := 10, bias := 15, ieee := true, nan := true }
def Fmt.bf16 : Fmt := { ebits := 8, mbits := 7, bias := 127, ieee := true, nan := true }
def Fmt.e4m3 : Fmt := { ebits := 4, mbits := 3, bias := 7, ieee := false, nan := true }
def Fmt.e5m2 : Fmt := { ebits := 5, mbits := 2, bias := 15, ieee := true, nan := true }
def Fmt.e2m1 : Fmt := { ebits := 2, mbits := 1, bias := 1, ieee := false, nan := false }

def Fmt.width (f : Fmt) : Nat := 1 + f.ebits + f.mbits

/-- The canonical NaN (Table 07-1); 0 for E2M1, which has none. -/
def Fmt.canonNan (f : Fmt) : Nat :=
  if f.ieee then (2 ^ f.ebits - 1) * 2 ^ f.mbits + 2 ^ (f.mbits - 1)
  else if f.nan then 2 ^ (f.ebits + f.mbits) - 1 else 0

/-- The largest finite code without its sign: 0x7E for E4M3, 7 for E2M1. -/
def Fmt.maxCode (f : Fmt) : Nat :=
  if f.ieee then (2 ^ f.ebits - 1) * 2 ^ f.mbits - 1
  else if f.nan then 2 ^ (f.ebits + f.mbits) - 2 else 2 ^ (f.ebits + f.mbits) - 1

/-- The exponent of the last place of subnormals. -/
def Fmt.qmin (f : Fmt) : Int := 1 - (f.bias : Int) - f.mbits

/-- A value: a NaN, signalling or quiet; an infinity; or (-1)^neg × m × 2^e. -/
inductive FVal where
  | nan (signalling : Bool)
  | inf (neg : Bool)
  | fin (neg : Bool) (m : Nat) (e : Int)
  deriving DecidableEq, Repr

/-- The value of a code (R184), with DAZ applied when `daz` (R192). -/
def Fmt.decode (f : Fmt) (daz : Bool) (bits : Nat) : FVal :=
  let neg := bitAt bits (f.ebits + f.mbits)
  let e := field bits f.mbits f.ebits
  let m := field bits 0 f.mbits
  let top := 2 ^ f.ebits - 1
  if f.ieee && e == top then
    if m = 0 then .inf neg else .nan (!bitAt m (f.mbits - 1))
  else if !f.ieee && f.nan && e == top && m == 2 ^ f.mbits - 1 then .nan false
  else if e = 0 then .fin neg (if daz then 0 else m) f.qmin
  else .fin neg (2 ^ f.mbits + m) ((e : Int) - 1 + f.qmin)

/-! ## Flags (Table 07-8) and the rounding environment -/

def fIV : Nat := 1
def fDZ : Nat := 2
def fOF : Nat := 4
def fUF : Nat := 8
def fPR : Nat := 16
def fSAT : Nat := 32
def fBSAT : Nat := 64

/-- A result: its code and the FSTAT flags that it sets. -/
structure FRes where
  bits  : Nat
  flags : Nat
  deriving DecidableEq, Repr

/-- The rounding environment of one element: the effective mode (Table 07-3), the random word (R190), FTZ for
the destination, DAZ and SATC. -/
structure FEnv where
  rm   : Nat
  rand : Nat
  ftz  : Bool
  daz  : Bool
  satc : Bool
  deriving DecidableEq, Repr

def FEnv.rne : FEnv := { rm := 1, rand := 0, ftz := false, daz := false, satc := false }

def signBit (f : Fmt) (neg : Bool) : Nat := if neg then 2 ^ (f.ebits + f.mbits) else 0

/-- The length of a number in bits: 0 for 0. -/
def bitLen (n : Nat) : Nat := if n = 0 then 0 else Nat.log2 n + 1

/-- An overflow (Table 07-4). -/
def overflow (f : Fmt) (v : FEnv) (neg : Bool) : FRes :=
  let largest := signBit f neg + f.maxCode
  if !f.ieee then { bits := largest, flags := fOF + fPR + fSAT }
  else if v.satc then { bits := largest, flags := fOF + fPR + fSAT }
  else if v.rm = 2 ∨ (v.rm = 3 ∧ !neg) ∨ (v.rm = 4 ∧ neg) then { bits := largest, flags := fOF + fPR }
  else { bits := signBit f neg + (2 ^ f.ebits - 1) * 2 ^ f.mbits, flags := fOF + fPR }

/-- Whether a magnitude between `a` and `a + 1` last places rounds up (Table 07-3): `r` of `2^sh` parts above
`a`, and a little more when `sticky`. -/
def roundsUp (rm rand : Nat) (neg : Bool) (a r sh : Nat) (sticky : Bool) : Bool :=
  let inexact := r != 0 || sticky
  let half := 2 ^ sh / 2
  match rm with
  | 2 => false
  | 3 => neg && inexact
  | 4 => !neg && inexact
  | 5 => decide (0 < sh) && decide (half ≤ r)
  | 6 => inexact && decide (2 ^ 32 ≤ r * 2 ^ 32 / 2 ^ sh + rand)
  | _ => decide (0 < sh) && (decide (half < r) || (r == half && (sticky || a % 2 == 1)))

/-- Round (-1)^neg × m × 2^e, or a little more in magnitude when `sticky`, to a format (R189, R191, R192, R195). -/
def Fmt.round (f : Fmt) (v : FEnv) (neg : Bool) (m : Nat) (e : Int) (sticky : Bool) : FRes :=
  if m = 0 ∧ !sticky then { bits := signBit f neg, flags := 0 }
  else
    let p := f.mbits + 1
    let q := max ((bitLen m : Int) + e - p) f.qmin
    let sh := (q - e).toNat
    let (a, r) : Nat × Nat := if q ≤ e then (m * 2 ^ (e - q).toNat, 0) else (m / 2 ^ sh, m % 2 ^ sh)
    let inexact := r != 0 || sticky
    let a := if roundsUp v.rm v.rand neg a r sh sticky then a + 1 else a
    let (a, q) : Nat × Int := if a = 2 ^ p then (2 ^ (p - 1), q + 1) else (a, q)
    let pr := if inexact then fPR else 0
    if a < 2 ^ (p - 1) then
      if v.ftz then { bits := signBit f neg, flags := fUF + fPR }
      else { bits := signBit f neg + a, flags := pr + (if inexact then fUF else 0) }
    else
      let code := (q - f.qmin + 1).toNat * 2 ^ f.mbits + (a - 2 ^ (p - 1))
      if f.maxCode < code then overflow f v neg
      else { bits := signBit f neg + code, flags := pr }

/-- A NaN result (R193): canonical, or +0 with IV in a format without NaN. -/
def Fmt.nanRes (f : Fmt) (flags : Nat) : FRes :=
  if f.nan then { bits := f.canonNan, flags := flags } else { bits := 0, flags := fIV }

/-- An infinite result: into a format without infinity the largest finite (R195). -/
def Fmt.infRes (f : Fmt) (neg : Bool) (flags : Nat) : FRes :=
  if f.ieee then { bits := signBit f neg + (2 ^ f.ebits - 1) * 2 ^ f.mbits, flags := flags }
  else { bits := signBit f neg + f.maxCode, flags := flags ||| (fOF + fPR + fSAT) }

/-- A value rounded to a format. -/
def Fmt.ofVal (f : Fmt) (v : FEnv) : FVal → FRes
  | .nan sig => f.nanRes (if sig then fIV else 0)
  | .inf neg => f.infRes neg 0
  | .fin neg m e => f.round v neg m e false

def FVal.isSnan : FVal → Bool
  | .nan true => true
  | _ => false

def FVal.isNan : FVal → Bool
  | .nan _ => true
  | _ => false

/-- IV for signalling operands (R191). -/
def snanFlag (l : List FVal) : Nat := if l.any FVal.isSnan then fIV else 0

def FVal.negate : FVal → FVal
  | .nan sig => .nan sig
  | .inf neg => .inf (!neg)
  | .fin neg m e => .fin (!neg) m e

/-- The signed mantissa at a common exponent. -/
def scaled (neg : Bool) (m : Nat) (e e0 : Int) : Int :=
  let n : Int := (m * 2 ^ (e - e0).toNat : Nat)
  if neg then -n else n

/-- The exact sum of two finite values, with the sign of a zero sum (R413). -/
def exactAdd (rm : Nat) (n1 : Bool) (m1 : Nat) (e1 : Int) (n2 : Bool) (m2 : Nat) (e2 : Int) : Bool × Nat × Int :=
  let e0 := min e1 e2
  let t := scaled n1 m1 e1 e0 + scaled n2 m2 e2 e0
  if t = 0 then
    if m1 = 0 ∧ m2 = 0 ∧ n1 = n2 then (n1, 0, e0) else (rm == 3, 0, e0)
  else (decide (t < 0), t.natAbs, e0)

/-- x + y rounded (R191, R413). -/
def fAdd (f : Fmt) (v : FEnv) (x y : FVal) : FRes :=
  match x, y with
  | .nan _, _ | _, .nan _ => f.nanRes (snanFlag [x, y])
  | .inf a, .inf b => if a = b then f.infRes a 0 else f.nanRes fIV
  | .inf a, _ => f.infRes a 0
  | _, .inf b => f.infRes b 0
  | .fin a m e, .fin b n g =>
    let (neg, t, e0) := exactAdd v.rm a m e b n g
    f.round v neg t e0 false

def fSub (f : Fmt) (v : FEnv) (x y : FVal) : FRes := fAdd f v x y.negate

/-- The exact product, with the flags of an invalid one. -/
def exactMul (x y : FVal) : FVal × Nat :=
  match x, y with
  | .nan _, _ | _, .nan _ => (.nan false, snanFlag [x, y])
  | .inf a, .inf b => (.inf (a != b), 0)
  | .inf a, .fin b n _ => if n = 0 then (.nan false, fIV) else (.inf (a != b), 0)
  | .fin a m _, .inf b => if m = 0 then (.nan false, fIV) else (.inf (a != b), 0)
  | .fin a m e, .fin b n g => (.fin (a != b) (m * n) (e + g), 0)

def fMul (f : Fmt) (v : FEnv) (x y : FVal) : FRes :=
  let (r, fl) := exactMul x y
  match r with
  | .nan _ => f.nanRes fl
  | _ => f.ofVal v r

/-- x × y + z rounded once (R194, R413). -/
def fFma (f : Fmt) (v : FEnv) (x y z : FVal) : FRes :=
  let (r, fl) := exactMul x y
  match r with
  | .nan _ => f.nanRes (fl ||| snanFlag [z])
  | _ =>
    let s := fAdd f v r z
    { s with flags := s.flags ||| fl }

/-- The order of R194: −0 below +0. -/
def fLess (x y : FVal) : Bool :=
  match x, y with
  | .inf a, .inf b => a && !b
  | .inf a, .fin .. => a
  | .fin .., .inf b => !b
  | .fin a m e, .fin b n g =>
    if m = 0 ∧ n = 0 then a && !b
    else decide (scaled a m e (min e g) < scaled b n g (min e g))
  | _, _ => false

/-- VFMIN and VFMAX (R194). They answer an operand, so that no result is flushed: the spec does not say whether FTZ
acts on one that is subnormal (DESIGN CHOICE, log 111). -/
def fMinMax (f : Fmt) (isMax : Bool) (x y : FVal) : FRes :=
  let fl := snanFlag [x, y]
  let pick (r : FVal) : FRes := { (f.ofVal FEnv.rne r) with flags := fl }
  match x, y with
  | .nan _, .nan _ => f.nanRes fl
  | .nan _, _ => pick y
  | _, .nan _ => pick x
  | _, _ => if isMax then pick (if fLess x y then y else x) else pick (if fLess y x then y else x)

/-! ## Division and roots -/

/-- x / y correctly rounded. -/
def fDiv (f : Fmt) (v : FEnv) (x y : FVal) : FRes :=
  match x, y with
  | .nan _, _ | _, .nan _ => f.nanRes (snanFlag [x, y])
  | .inf _, .inf _ => f.nanRes fIV
  | .inf a, .fin b _ _ => f.infRes (a != b) 0
  | .fin a _ _, .inf b => { bits := signBit f (a != b), flags := 0 }
  | .fin a m e, .fin b n g =>
    if n = 0 then (if m = 0 then f.nanRes fIV else f.infRes (a != b) fDZ)
    else
      let t := m * 2 ^ 120
      f.round v (a != b) (t / n) (e - g - 120) (t % n != 0)

/-- The integer square root, bit by bit from bit `k - 1`. -/
def isqrtFrom : Nat → Nat → Nat → Nat
  | 0, _, r => r
  | k + 1, n, r => isqrtFrom k n (if (r + 2 ^ k) * (r + 2 ^ k) ≤ n then r + 2 ^ k else r)

def isqrt (n : Nat) : Nat := isqrtFrom (bitLen n / 2 + 1) n 0

/-- √x correctly rounded. -/
def fSqrt (f : Fmt) (v : FEnv) (x : FVal) : FRes :=
  match x with
  | .nan sig => f.nanRes (if sig then fIV else 0)
  | .inf neg => if neg then f.nanRes fIV else f.infRes false 0
  | .fin neg m e =>
    if m = 0 then { bits := signBit f neg, flags := 0 }
    else if neg then f.nanRes fIV
    else
      let (m, e) : Nat × Int := if e % 2 = 0 then (m, e) else (2 * m, e - 1)
      let t := m * 2 ^ 160
      let r := isqrt t
      f.round v false r (e / 2 - 80) (r * r != t)

/-! ## Special functions (R198) -/

/-- Results of the six functions that set neither UF nor PR. -/
def FRes.quiet (r : FRes) : FRes := { r with flags := r.flags &&& (fIV + fDZ + fOF + fSAT) }

/-- RNE whatever the effective mode (R198). -/
def FEnv.near (v : FEnv) : FEnv := { v with rm := 1 }

def fRcp (v : FEnv) (x : FVal) : FRes :=
  match x with
  | .fin neg 0 _ => Fmt.fp32.infRes neg fDZ
  | _ => (fDiv .fp32 v.near (.fin false 1 0) x).quiet

def fRsq (v : FEnv) (x : FVal) : FRes :=
  match x with
  | .nan sig => Fmt.fp32.nanRes (if sig then fIV else 0)
  | .inf neg => if neg then Fmt.fp32.nanRes fIV else { bits := 0, flags := 0 }
  | .fin neg m e =>
    if m = 0 then Fmt.fp32.infRes neg fDZ
    else if neg then Fmt.fp32.nanRes fIV
    else
      let (m, e) : Nat × Int := if e % 2 = 0 then (m, e) else (2 * m, e - 1)
      let t := 2 ^ 240 / m
      let r := isqrt t
      (Fmt.fp32.round v.near false r (-(e / 2) - 120) (r * r * m != 2 ^ 240)).quiet

/-- Fixed point: numbers over 2^fixBits. -/
def fixBits : Nat := 400

/-- The arctangent of 1/k in fixed point of `p` bits: terms from `i` on. -/
def atanInv (p k : Nat) : Nat → Nat → Int
  | 0, _ => 0
  | fuel + 1, i =>
    let t : Int := (2 ^ p / ((2 * i + 1) * k ^ (2 * i + 1)) : Nat)
    (if i % 2 = 0 then t else -t) + atanInv p k fuel (i + 1)

/-- π in fixed point of 640 bits, by Machin's formula. -/
def piFix : Int := 16 * atanInv 640 5 140 0 - 4 * atanInv 640 239 45 0

/-- ln 2 in fixed point: the sum of 1 / (k 2^k). -/
def ln2From : Nat → Nat → Nat
  | 0, _ => 0
  | fuel + 1, k => 2 ^ fixBits / (k * 2 ^ k) + ln2From fuel (k + 1)

def ln2Fix : Nat := ln2From 400 1

/-- The sum of x^i / i! from a term on, `t` = x^i / i! and `i` its index; with `step` 1 the exponential, with
step 2 and sign -1 the sine or cosine. -/
def taylor (x : Int) (step : Nat) (alternate : Bool) : Nat → Nat → Int → Int
  | 0, _, _ => 0
  | fuel + 1, i, t =>
    let u := if step = 1 then t * x / 2 ^ fixBits / (i + 1)
             else t * x / 2 ^ fixBits * x / 2 ^ fixBits / ((i + 1) * (i + 2))
    t + taylor x step alternate fuel (i + step) (if alternate then -u else u)

/-- An inexact fixed-point value rounded to FP32 by RNE. -/
def roundFix (v : FEnv) (x : Int) (shift : Int) : FRes :=
  (Fmt.fp32.round v.near (decide (x < 0)) x.natAbs (shift - fixBits) true).quiet

/-- 2^x. -/
def fExp2 (v : FEnv) (x : FVal) : FRes :=
  match x with
  | .nan sig => Fmt.fp32.nanRes (if sig then fIV else 0)
  | .inf neg => if neg then { bits := 0, flags := 0 } else Fmt.fp32.infRes false 0
  | .fin neg m e =>
    let big (k : Nat) : Bool := if 0 ≤ e then decide (k ≤ m * 2 ^ (min e 20).toNat) else decide (k * 2 ^ (-e).toNat ≤ m)
    if m = 0 then Fmt.fp32.round v.near false 1 0 false
    else if neg && big 150 then { bits := 0, flags := 0 }
    else if !neg && big 128 then (overflow .fp32 v.near false).quiet
    else
      let fx : Int := (if 0 ≤ e then (m * 2 ^ e.toNat * 2 ^ fixBits : Nat) else (m * 2 ^ fixBits / 2 ^ (-e).toNat : Nat))
      let fx := if neg then -fx else fx
      let n := fx / 2 ^ fixBits
      let r := fx % 2 ^ fixBits
      if r = 0 then (Fmt.fp32.round v.near false 1 n false).quiet
      else roundFix v (taylor (r * ln2Fix / 2 ^ fixBits) 1 false 90 0 (2 ^ fixBits)) n

/-- The sum of z^(2i+1) / (2i+1). -/
def atanhFrom (z : Nat) : Nat → Nat → Nat → Nat
  | 0, _, _ => 0
  | fuel + 1, i, t => t / (2 * i + 1) + atanhFrom z fuel (i + 1) (t * z / 2 ^ fixBits * z / 2 ^ fixBits)

/-- log2 x. -/
def fLog2 (v : FEnv) (x : FVal) : FRes :=
  match x with
  | .nan sig => Fmt.fp32.nanRes (if sig then fIV else 0)
  | .inf neg => if neg then Fmt.fp32.nanRes fIV else Fmt.fp32.infRes false 0
  | .fin neg m e =>
    if m = 0 then Fmt.fp32.infRes true fDZ
    else if neg then Fmt.fp32.nanRes fIV
    else
      let k := bitLen m - 1
      let n : Int := e + k
      if m = 2 ^ k then (Fmt.fp32.round v.near (decide (n < 0)) n.natAbs 0 false).quiet
      else
        let z := (m - 2 ^ k) * 2 ^ fixBits / (m + 2 ^ k)
        let ln : Int := (2 * atanhFrom z 130 0 z : Nat)
        roundFix v (n * 2 ^ fixBits + ln * 2 ^ fixBits / ln2Fix) 0

/-- sin x or cos x of an exact number of radians: reduce by multiples of π/2, then the series. -/
def fTrig (cos : Bool) (v : FEnv) (x : FVal) : FRes :=
  match x with
  | .nan sig => Fmt.fp32.nanRes (if sig then fIV else 0)
  | .inf _ => Fmt.fp32.nanRes fIV
  | .fin neg m e =>
    if m = 0 then (if cos then Fmt.fp32.round v.near false 1 0 false else { bits := signBit .fp32 neg, flags := 0 })
    else
      let h := piFix / 2
      let fx : Int := (if 0 ≤ e then (m * 2 ^ e.toNat * 2 ^ 640 : Nat) else (m * 2 ^ 640 / 2 ^ (-e).toNat : Nat))
      let fx := if neg then -fx else fx
      let n := (fx + h / 2) / h
      let r := (fx - n * h) / 2 ^ 240
      let k := ((n + (if cos then 1 else 0)) % 4).toNat
      let val := if k % 2 = 0 then taylor r 2 true 60 1 r else taylor r 2 true 60 0 (2 ^ fixBits)
      roundFix v (if k < 2 then val else -val) 0

/-! ## Rounding to integers (VFRND, conversions) -/

/-- The magnitude of a finite value rounded to an integer, and whether it is inexact. -/
def roundInt (v : FEnv) (neg : Bool) (m : Nat) (e : Int) : Nat × Bool :=
  if 0 ≤ e then (m * 2 ^ e.toNat, false)
  else
    let sh := (-e).toNat
    let a := m / 2 ^ sh
    let r := m % 2 ^ sh
    (if roundsUp v.rm v.rand neg a r sh false then a + 1 else a, r != 0)

/-- VFRND (R259): an integral value in its own format; IV only. -/
def fRnd (f : Fmt) (v : FEnv) (x : FVal) : FRes :=
  match x with
  | .nan sig => f.nanRes (if sig then fIV else 0)
  | .inf neg => f.infRes neg 0
  | .fin neg m e => { (f.round { v with ftz := false, satc := false } neg (roundInt v neg m e).1 0 false) with flags := 0 }

/-- A value converted to a signed integer of `w` bits (R193, Table 07-4). -/
def fToInt (w : Nat) (v : FEnv) (x : FVal) : FRes :=
  let lo : Int := -(2 ^ (w - 1))
  let hi : Int := 2 ^ (w - 1) - 1
  let put (n : Int) : Nat := (n % 2 ^ w).toNat
  match x with
  | .nan _ => { bits := 0, flags := fIV }
  | .inf neg => { bits := put (if neg then lo else hi), flags := fIV + fSAT }
  | .fin neg m e =>
    if 0 ≤ e ∧ 64 < (bitLen m : Int) + e ∧ m ≠ 0 then { bits := put (if neg then lo else hi), flags := fIV + fSAT }
    else
      let (a, inexact) := roundInt v neg m e
      let n : Int := if neg then -(a : Int) else a
      if n < lo then { bits := put lo, flags := fIV + fSAT }
      else if hi < n then { bits := put hi, flags := fIV + fSAT }
      else { bits := put n, flags := if inexact then fPR else 0 }

/-- An integer clamped to `w` bits, which sets SAT (R260). -/
def clampInt (w : Nat) (n : Int) : FRes :=
  let lo : Int := -(2 ^ (w - 1))
  let hi : Int := 2 ^ (w - 1) - 1
  if n < lo then { bits := (lo % 2 ^ w).toNat, flags := fSAT }
  else if hi < n then { bits := (hi % 2 ^ w).toNat, flags := fSAT }
  else { bits := (n % 2 ^ w).toNat, flags := 0 }

/-! ## LG8 (R186 to R188) -/

/-- Table 07-2. -/
def lgTable : List Nat := [4096, 4467, 4871, 5312, 5793, 6317, 6889, 7512]

/-- t_lin(L) as a mantissa and an exponent, with mathematical floor and mod. -/
def tLin (l : Int) : Nat × Int := (lgTable.getD (l % 8).toNat 0, l / 8 - 20)

/-- The linear value of an LG8 code. -/
def lgDecode (code : Nat) : FVal :=
  let l := code % 128
  if l = 0 then .fin (bitAt code 7) 0 0 else .fin (bitAt code 7) (tLin l).1 (tLin l).2

/-- The exact product of two LG8 codes (R187). -/
def lgMul (a b : Nat) : FVal :=
  let neg := bitAt a 7 != bitAt b 7
  if a % 128 = 0 ∨ b % 128 = 0 then .fin neg 0 0
  else
    let t := tLin (min ((a % 128 : Nat) + (b % 128 : Nat) - 64 : Int) 127)
    .fin neg t.1 t.2

/-- lg8_enc (R188). With k = floor(16 log2 |x|), the nearest code is 64 + floor((k + 1) / 2). -/
def lgEncode (x : FVal) : FRes :=
  match x with
  | .nan _ => { bits := 0, flags := fIV }
  | .inf neg => { bits := 127 + (if neg then 128 else 0), flags := fSAT + fPR }
  | .fin neg m e =>
    let s := if neg then 128 else 0
    if m = 0 then { bits := s, flags := 0 }
    else
      let k : Int := ((bitLen (m ^ 16) : Nat) : Int) - 1 + 16 * e
      if k < -127 then { bits := s, flags := fPR }
      else if 127 ≤ k then { bits := s + 127, flags := fSAT + fPR }
      else
        let j := (k + 1) / 2
        let exact := decide (m = 2 ^ (bitLen m - 1)) && j % 8 == 0
        { bits := s + (64 + j).toNat, flags := if exact then 0 else fPR }

/-! ## Blocks (R196) -/

/-- The scale code of a block: amax = m × 2^e over maxnorm of the element format. -/
def e8m0Code (f : Fmt) (m : Nat) (e : Int) : Nat :=
  if m = 0 then 0
  else
    match f.decode false f.maxCode with
    | .fin _ n g =>
      -- the least c with m 2^e ≤ n 2^(g + c)
      let c0 : Int := (bitLen m : Int) + e - (bitLen n : Int) - g
      let fits (c : Int) : Bool := decide (scaled false m e (min e (g + c)) ≤ scaled false n (g + c) (min e (g + c)))
      let c := if fits (c0 - 1) then c0 - 1 else if fits c0 then c0 else c0 + 1
      (min 254 (max 0 (127 + c))).toNat
    | _ => 0

/-! ## Formats by code (Table 08-13) -/

/-- A number format of VCVT: a floating-point format, LG8, or an integer of a width. -/
inductive NumFmt where
  | flt (f : Fmt)
  | lg8
  | int (w : Nat)
  deriving DecidableEq, Repr

def numFmt : Nat → NumFmt
  | 0 => .flt .fp32
  | 1 => .flt .fp16
  | 2 => .flt .bf16
  | 3 => .flt .e4m3
  | 4 => .flt .e5m2
  | 5 => .flt .e2m1
  | 6 => .lg8
  | 7 => .int 32
  | 8 => .int 8
  | _ => .int 4

def NumFmt.width : NumFmt → Nat
  | .flt f => f.width
  | .lg8 => 8
  | .int w => w

/-- Whether DAZ and FTZ of R192 apply to a format. -/
def NumFmt.wide : NumFmt → Bool
  | .flt f => f == .fp32 || f == .fp16 || f == .bf16
  | _ => false

/-- Whether DAZ applies in a conversion to a format: not into FP8, FP4 or LG8 (R192). -/
def NumFmt.dazTo : NumFmt → Bool
  | .flt f => (NumFmt.flt f).wide
  | .lg8 => false
  | .int _ => true

/-- One element converted (R260). -/
def convert (v : FEnv) (src dst : NumFmt) (bits : Nat) : FRes :=
  match src, dst with
  | .int w, .int u => clampInt u (sextNat w bits)
  | _, _ =>
    let x : FVal := match src with
      | .flt f => f.decode (v.daz && src.wide && dst.dazTo) bits
      | .lg8 => lgDecode bits
      | .int w => let n := sextNat w bits; .fin (decide (n < 0)) n.natAbs 0
    match dst with
    | .flt f => f.ofVal v x
    | .lg8 => lgEncode x
    | .int u => fToInt u v x

/-! ## RSTOCH (R190) -/

/-- xs32. -/
def xs32 (x : Word) : Word :=
  let x := x ^^^ (x <<< 13)
  let x := x ^^^ (x >>> 17)
  x ^^^ (x <<< 5)

/-- xs32 applied `n` times. -/
def xs32n : Nat → Word → Word
  | 0, x => x
  | n + 1, x => xs32n n (xs32 x)

/-- lane_word for a global lane index g, element j. -/
def laneWord (seed : DWord) (g : Word) (rseq : Word) (j : Nat) : Word :=
  let x := seed.setWidth 32 ^^^ (seed >>> 32).setWidth 32 ^^^ g * 0x9E3779B9 ^^^ rseq * 0x85EBCA6B
  xs32n (j + 2) (if x = 0 then 0x6D2B79F5 else x)

end Sys2Proof.Machine
end

