-- ==== Sys2Proof/Machine/Flags.lean ====
section
/-!
DEFINITION. FSTAT and MODE (R199 to R201): sticky flags, enabled exceptions, the effective rounding mode (R189),
the random words (R190) and RSEQ.
-/

namespace Sys2Proof.Machine

/-- Flags ORed into FSTAT. -/
def Group.orFlags (g : Group) (fl : Nat) : Group := { g with fstat := g.fstat ||| BitVec.ofNat 32 (fl % 128) }

/-- RSEQ in FSTAT[31:8]. -/
def Group.rseq (g : Group) : Word := g.fstat >>> 8

/-- RSEQ increased by 1, mod 2^24. -/
def Group.stepRseq (g : Group) : Group :=
  { g with fstat := g.fstat + 0x100 }

/-- MODE.RM as a mode: 000 and a saved 111 act as RNE (R189, R199). -/
def modeRm (mode : Word) : Nat :=
  let r := (mode.extractLsb' 0 3).toNat
  if r = 0 ∨ r = 7 then 1 else r

/-- The effective mode (R189). -/
def VCtx.rm (c : VCtx) : Nat := if c.pre.rnd = 0 then modeRm c.mode else c.pre.rnd.toNat

def modeDaz (mode : Word) : Bool := mode.getLsbD 5
def modeSatc (mode : Word) : Bool := mode.getLsbD 6
def modeFtz32 (mode : Word) : Bool := mode.getLsbD 3
def modeFtz16 (mode : Word) : Bool := mode.getLsbD 4

/-- Whether MODE flushes the results of a format (R192). -/
def modeFtz (mode : Word) (f : Fmt) : Bool :=
  if f = .fp32 then modeFtz32 mode else if f = .fp16 ∨ f = .bf16 then modeFtz16 mode else false

/-- The flags that MODE enables as exceptions, in FSTAT's order. -/
def modeEnabled (mode : Word) : Nat := (mode.extractLsb' 7 5).toNat

/-- lane_word(l, j) for the issuing group (R190). -/
def State.randWord (s : State) (l j : Nat) : Nat :=
  let t := s.teamAt s.cur.ctx
  let g := BitVec.ofNat 32 (l + 64 * (s.cur.grp + 32 * t.linear))
  (laneWord (s.launchOf s.cur.ctx).seed g s.curGroup.rseq j).toNat

/-- The rounding environment of element j of lane l for results of a format. -/
def State.fenv (s : State) (c : VCtx) (f : Fmt) (l j : Nat) : FEnv :=
  { rm := c.rm, rand := if c.rm = 6 then s.randWord l j else 0, ftz := modeFtz c.mode f, daz := modeDaz c.mode,
    satc := modeSatc c.mode }

/-- FSTAT after a floating-point word: its flags, and RSEQ when it rounds by RSTOCH with an active lane (R190). -/
def fpCommit (c : VCtx) (rounds : Bool) (flags : Nat) : M Unit :=
  mapCur fun g =>
    let g := g.orFlags flags
    if rounds && c.rm == 6 && c.act != 0 then g.stepRseq else g

/-- R201: with the flags of every active lane, `lanes` giving (lane, flags): FSTAT takes them and RSEQ
advances; an enabled exception traps FP_EXCEPTION with the enabled flags raised and the lanes that raised. -/
def fpFlags (c : VCtx) (rounds : Bool) (lanes : List (Nat × Nat)) : M Unit := do
  let all := lanes.foldl (fun a x => a ||| x.2) 0
  fpCommit c rounds all
  let en := modeEnabled c.mode
  let raised := all &&& en
  if raised != 0 then
    throw (.trap cFpException (BitVec.ofNat 32 raised) 0 (maskOf ((lanes.filter fun x => x.2 &&& en != 0).map (·.1))))

/-- The active lanes, in order. -/
def VCtx.lanes (c : VCtx) : List Nat := bitsOf c.w c.act

/-- Elements of `w` bits of a lane value (R183). -/
def elems (w : Nat) (x : Word) : List Nat := (upTo (32 / w)).map fun i => field x.toNat (w * i) w

/-- A lane value of elements of `w` bits. -/
def packElems (w : Nat) (l : List Nat) : Word :=
  BitVec.ofNat 32 (l.foldr (fun e acc => e % 2 ^ w + 2 ^ w * acc) 0)

/-- A floating-point word that computes each element of each active lane by `f`, given the lane and the element
index, with results of `w` bits (R256). -/
def fpWord (c : VCtx) (d : Nat) (rounds : Bool) (w : Nat) (f : Nat → Nat → FRes) : M Unit := do
  let res := c.lanes.map fun l => (l, (upTo (32 / w)).map (f l))
  fpFlags c rounds (res.map fun (l, rs) => (l, rs.foldl (fun a r => a ||| r.flags) 0))
  c.write d fun l => packElems w ((look res l []).map (·.bits))

/-- Element j of a lane value decoded in a format under DAZ. -/
def elemVal (c : VCtx) (f : Fmt) (x : Word) (j : Nat) : FVal :=
  f.decode (modeDaz c.mode && (NumFmt.flt f).wide) (field x.toNat (f.width * j) f.width)

end Sys2Proof.Machine
end

