-- ==== Sys2Proof/Machine/Access.lean ====
section
/-!
DEFINITION. The accesses of a group's words (R267 to R274): prefixes of memory words (R221), the plan of one
access a lane, checks in the order of R267, and plain and strong accesses to tenant memory, the pool window
and the cluster pool (R97, R108, R111, R112, R121); serial records (R180) and writes to m0 (R245).
-/

namespace Sys2Proof.Machine

/-! ## Prefixes on memory words (R221) -/

/-- What a memory word's prefix asks for (Table 08-11), strengthened for MM1 (Table 04-5). `free` is a plain
access that MM1 made strong: it raises no MISALIGNED. `nt` is the word's non-temporal hint (R19). -/
structure MemForm where
  ord   : Nat
  scope : Nat
  w16   : Bool
  sx    : Bool
  free  : Bool
  nt    : Bool := false
  deriving DecidableEq, Repr

/-- The eviction priority of an access (R19, R79), and that at which it allocates at the home slice. -/
def MemForm.prio (f : MemForm) (t : Trans) : Nat := if f.nt then 0 else t.ev.toNat
def MemForm.alloc (f : MemForm) (t : Trans) : Option Nat := allocOf t.cl (f.prio t)

def MemForm.strong (f : MemForm) : Bool := f.ord != 0
def MemForm.acq (f : MemForm) : Bool := f.ord == 1 || f.ord == 3
def MemForm.rel (f : MemForm) : Bool := f.ord == 2 || f.ord == 3

/-- The kinds of memory word: loads, stores and atomics. -/
inductive MemKind where
  | load | store | atomic
  deriving DecidableEq, Repr

/-- Where a memory word accesses: tenant memory, the team's pool window, the cluster pool. -/
inductive Space where
  | tenant | pool | cluster
  deriving DecidableEq, Repr

/-- Table 04-3: the orderings that a word accepts. -/
def ordOk (k : MemKind) (ord : Nat) : Bool :=
  match k with
  | .load => ord == 0 || ord == 1
  | .store => ord == 0 || ord == 2
  | .atomic => true

/-- Whether a context runs under MM1 (R121). -/
def State.mm1 (s : State) (ctx : Nat) : Bool :=
  match (s.slotOf ctx).object with
  | some o => o.mmrev == 1
  | none => false

/-- Table 04-5. Pool loads and stores keep their meaning unless they name an ordering. -/
def MemForm.strengthen (f : MemForm) (k : MemKind) (sp : Space) : MemForm :=
  if f.ord = 0 then
    match k with
    | .load => if sp = .pool then f else { f with ord := 1, scope := 4, free := true }
    | .store => if sp = .pool then f else { f with ord := 2, scope := 4, free := true }
    | .atomic => { f with ord := 3, scope := 4 }
  else { f with scope := max f.scope 4 }

/-- The prefix of a memory word, checked: `wide` says whether W16 may stand, `ext` whether SX may, `party`
whether the word acts once for the party (LDS, STS). -/
def memCtx (k : MemKind) (sp : Space) (wide ext party : Bool) (nt : BitVec 1) : M (VCtx × MemForm) := do
  let c ← vctx (perm := false)
  let x := c.pre.fourth
  let f : MemForm :=
    if c.hasPre then
      { ord := (x.extractLsb' 6 2).toNat, scope := (x.extractLsb' 3 3).toNat, w16 := x.getLsbD 2, sx := x.getLsbD 1, free := false, nt := nt == 1 }
    else { ord := 0, scope := 4, w16 := false, sx := false, free := false, nt := nt == 1 }
  if c.pre.fourth.getLsbD 0 && c.hasPre then illegal
  if party && (c.pre.sel != 0 || c.pre.zero != 0) then illegal
  if !ordOk k f.ord || decide (5 < f.scope) || (f.w16 && !wide) || (f.sx && !ext) then illegal
  let s ← get
  pure (c, if s.mm1 s.cur.ctx then f.strengthen k sp else f)

/-- Bytes of a size field (Table 11-1) and the registers of its run. -/
def sizeBytes (z : Nat) (w16 : Bool) : Nat := if w16 then 16 else 2 ^ z
def sizeRegs (z : Nat) (w16 : Bool) : Nat := if w16 then 4 else if z = 3 then 2 else 1

/-! ## Addresses -/

/-- R217: the address of a lane. -/
def laneAddr (c : VCtx) (b : BitVec 5) (o : BitVec 7) (k : Nat) (l : Nat) : DWord :=
  c.g.readS b.toNat + ((c.g.lane o.toNat l).signExtend 64 <<< k)

/-- The active lanes with their addresses. -/
def laneAddrs (c : VCtx) (b : BitVec 5) (o : BitVec 7) (k : Nat) : List (Nat × DWord) :=
  c.lanes.map fun l => (l, laneAddr c b o k l)

/-- A trap that some lanes raise (Table 16-2): ADDR of the lowest, LANES of all. -/
def trapLanes {α : Type} (cause : Byte) (detail : Word) (bad : List (Nat × DWord)) : M α :=
  throw (.trap cause detail ((bad.map (·.2)).headD 0) (maskOf (bad.map (·.1))))

/-! ## Purity (R345, R346) -/

/-- Accesses that a pure task may not make: the task is demoted, and PURITY comes before every other check with PV =
1. -/
def pureLanes (bad : List (Nat × DWord)) : M Unit := do
  let s ← get
  let l := s.launchOf s.cur.ctx
  if l.isPure && !bad.isEmpty then
    modify fun s => s.mapLaunch l.id fun l => { l with pure := l.pure.map fun p => { p with clean := false } }
    if l.pv then trapLanes cPurity 0 bad

/-- ATOM and ATOMC violate purity whenever they execute (R345). With no active lane they raise nothing (R267). -/
def atomPure (lanes : List (Nat × DWord)) : M Unit := do
  if lanes.isEmpty then
    modify fun s => s.mapLaunch (s.launchOf s.cur.ctx).id fun l => { l with pure := l.pure.map fun p => { p with clean := false } }
  else pureLanes lanes

/-- The tenant accesses of a word that a pure task may not make. -/
def State.badTenant (s : State) (write : Bool) (n : Nat) (lanes : List (Nat × DWord)) : List (Nat × DWord) :=
  if (s.launchOf s.cur.ctx).isPure then
    lanes.filter fun x => (upTo n).any fun i => !s.pureMayTouch s.cur.ctx write (x.2 + BitVec.ofNat 64 i)
  else []

/-! ## Plans: every lane translated before any lane accesses (R12) -/

/-- One lane's access: the lane, its address, and its pieces by page. -/
structure Plan where
  lane  : Nat
  ea    : DWord
  parts : List (Trans × Nat × Nat)
  deriving DecidableEq, Repr

/-- Plan one lane: `asks` says whether the access waits for a peer's answer (R29). A plain load that finds every sector
in the L1 asks nothing. Where lanes differ, the spec does not say whether a peer's refusal of a lower one stands before a
park or fault of a higher one's translation, or before MISALIGNED: it does here (DESIGN CHOICE, log 141). -/
def planLane (acc : DWord → Access) (asks strong : Bool) (n : Nat) (x : Nat × DWord) : M Plan := do
  let s ← get
  let parts ← translateRun (s.tfOf s.cur.ctx) (s.coreOf s.cur.ctx) (some s.cur.ctx) x.2 n (acc x.2)
  parts.forM fun (t, _, k) => do
    let s ← get
    if asks then
      let core := s.coreOf s.cur.ctx
      if !strong && t.cl == 0 && (sectorsOf t.pa k).all (s.l1Has core) then fabricUp t x.2 (acc x.2).bits
      else fabricAsk t x.2 (acc x.2).bits
  pure { lane := x.1, ea := x.2, parts := parts }

def inSvc (pa : Nat) : Bool := decide (Config.svcBase ≤ pa) && decide (pa < Config.svcEnd)

/-- R34: the service window takes aligned accesses of 8 bytes. -/
def svcFits (n : Nat) (va : DWord) : Bool := n == 8 && va.toNat % 8 == 0

/-! ## MIXCHK (R111) -/

/-- The units that a plan touches in local HBM. -/
def Plan.units (p : Plan) (n : Nat) : List (Nat × Nat × Nat) :=
  p.parts.flatMap fun (t, _, k) =>
    if t.pa < Config.hbmBytes then strongUnits t.pa k (p.ea.toNat % n == 0) else []

/-- The checks of a strong word after translation: alignment (R93) and MIXCHK. -/
def strongChecks (aligned : Bool) (n : Nat) (ps : List Plan) : M Unit := do
  let mis := ps.filter fun p => p.ea.toNat % n != 0
  if aligned && !mis.isEmpty then trapLanes cMisaligned (BitVec.ofNat 32 n) (mis.map fun p => (p.lane, p.ea))
  let s ← get
  if (s.launchOf s.cur.ctx).mixchk then
    let bad := ps.filter fun p => s.mixed (p.units n)
    if !bad.isEmpty then trapLanes cMixedSize 0 (bad.map fun p => (p.lane, p.ea))

/-! ## Tenant memory -/

/-- The release side of a word (Table 04-4). At .SYS it has first to wait until the peers have acknowledged the group's
stores and atomics: the word holds until then. -/
def releaseWord (scope : Nat) : M Unit := do
  let s ← get
  if decide (scope = 5) && s.awaitsPeers s.cur.ctx s.cur.grp then throw (.hold .peers)
  set (s.releaseActions s.cur.ctx s.cur.grp scope)

/-- What a strong access does first (R108, R78): the group's queue drains, then combining buffers of the group's
line, or for an atomic those of every group that lie in its page, and the core gives up its L1 copy of the line. -/
def State.strongPrep (s : State) (atomic : Bool) (t : Trans) (n : Nat) : State :=
  let core := s.coreOf s.cur.ctx
  let lines := dedup [lineOf t.pa, lineOf (t.pa + n - 1)]
  let s := s.drainQueue s.cur.ctx s.cur.grp none
  let s := s.drainBuffers fun b =>
    b.core == core && (if atomic then 256 * b.line / t.size == t.pa / t.size else b.ctx == s.cur.ctx && b.grp == s.cur.grp && lines.contains b.line)
  if t.pa < Config.hbmBytes ∨ Config.aperBase ≤ t.pa then lines.foldl (fun s l => s.l1EvictLine core l) s else s

/-- Bytes of one piece of a load; `whole` says that its lane's access is aligned. -/
def readPart (f : MemForm) (vr whole : Bool) (va : DWord) (t : Trans) (n : Nat) : M (List Byte) := do
  let s ← get
  if inSvc t.pa then pure (leBytes n (s.svcRead (t.pa - Config.svcBase)))
  else
    let (bs, p, s) :=
      if f.strong then ((s.strongPrep false t n).strongUse t.pa n whole false (f.alloc t)).homeRead t.pa n
      else s.coreRead (s.coreOf s.cur.ctx) t.cl vr (f.prio t) t.pa n
    set s
    let own := s.ownBytes s.cur.ctx s.cur.grp false t.pa bs
    if p then throw (.fault (addrFault cDataPoison va 0x01))
    pure own

/-- The bytes that planned loads read, by lane. -/
def readPlans (f : MemForm) (n : Nat) (ps : List Plan) : M (List (Nat × List Byte)) := do
  let s ← get
  let vr := (s.tf (s.tfOf s.cur.ctx)).vr
  ps.mapM fun p => do
    let parts ← p.parts.mapM fun (t, _, k) => readPart f vr (p.ea.toNat % n == 0) p.ea t k
    pure (p.lane, parts.flatten)

/-- A service access waits while an earlier store of the group is held at the service window (R148). -/
def serviceOrder (ps : List Plan) : M Unit := do
  let s ← get
  if (ps.any fun p => p.parts.any fun x => inSvc x.1.pa) && s.serviceHeld s.cur.ctx s.cur.grp then throw (.hold .service)

/-- Loads of `n` bytes from tenant memory under an access each. -/
def loadUnder (acc : DWord → Access) (f : MemForm) (n : Nat) (lanes : List (Nat × DWord)) : M (List (Nat × List Byte)) := do
  let ps ← lanes.mapM (planLane acc true f.strong n)
  if f.strong then strongChecks (!f.free) n ps
  serviceOrder ps
  let vals ← readPlans f n ps
  if f.acq then modify fun s => s.acquireActions s.cur.ctx f.scope
  pure vals

/-- The loads of a memory word (R267). -/
def tenantLoad (f : MemForm) (n : Nat) (lanes : List (Nat × DWord)) : M (List (Nat × List Byte)) :=
  loadUnder (fun va => Access.load (svcFits n va)) f n lanes

/-- A plain store joins its word's last entry of the queue where the page's attributes agree, else it is a new entry. -/
def Group.queueStore (g : Group) (op : Nat) (cl wp : BitVec 2) (prio : Nat) (w : Nat × List Byte) : Group :=
  let e : QueuedStore := { op := op, pool := false, cl := cl, wp := wp, prio := prio, writes := [w] }
  match g.sq.getLast? with
  | some q =>
    if { q with writes := [w] } = e then { g with sq := g.sq.dropLast ++ [{ q with writes := q.writes ++ [w] }] }
    else { g with sq := g.sq ++ [e] }
  | none => { g with sq := [e] }

/-- One piece of a store: to the service window, at the home slice when strong, else into the store queue. -/
def writePart (f : MemForm) (whole : Bool) (t : Trans) (bs : List Byte) : M Unit := do
  if inSvc t.pa then
    modify fun s => s.svcWriteBy (some (s.cur.ctx, s.cur.grp, s.stamp)) (t.pa - Config.svcBase) (BitVec.ofNat 64 (ofLe bs))
  else if f.strong then
    modify fun s =>
      ((s.strongPrep false t bs.length).strongUse t.pa bs.length whole true (f.alloc t)).homeWrite [s.writer s.cur.ctx] t.pa
        (bs.map some)
  else modify fun s => s.mapCur fun g => g.queueStore s.stamp t.cl t.wp (f.prio t) (t.pa, bs)

/-- The first address of a word's lanes that reaches an aperture, with its page. -/
def firstPeer (ps : List Plan) : Option (DWord × Trans) :=
  (ps.flatMap fun p => p.parts.map fun x => (p.ea, x.1)).find? fun x => decide (Config.aperBase ≤ x.2.pa)

/-- What a store is until it completes: where it reaches a peer, and whether it performs in the L1 or in a combining
buffer (Table 03-3). A strong one that VEN = 0 keeps from the peer is refused already (R29, R398). -/
def storeKind (ven strong : Bool) (ps : List Plan) : OpKind :=
  match firstPeer ps with
  | some (va, t) =>
    if strong && !ven then .refused va 0x02 else .store (some va) (!strong && (t.wp == 2 || (t.cl == 0 && t.wp == 0)))
  | none => .store none false

/-- Stores of bytes to tenant memory by lane, under an access each: the operation that they start. -/
def storeUnder (acc : DWord → Access) (f : MemForm) (n : Nat) (lanes : List (Nat × DWord)) (data : Nat → List Byte) :
    M OpKind := do
  let ps ← lanes.mapM (planLane acc false f.strong n)
  if f.strong then strongChecks (!f.free) n ps
  serviceOrder ps
  if f.rel then releaseWord f.scope
  ps.forM fun p => p.parts.forM fun (t, o, k) => writePart f (p.ea.toNat % n == 0) t (((data p.lane).drop o).take k)
  pure (storeKind (← get).ctl.ven f.strong ps)

/-- The stores of a memory word (R267). -/
def tenantStore (f : MemForm) (n : Nat) (lanes : List (Nat × DWord)) (data : Nat → List Byte) : M OpKind :=
  storeUnder (fun va => Access.store (svcFits n va)) f n lanes data

/-- The bytes of a fabric atomic's message: its code, size and operands. -/
def atomicMessage (code n : Nat) (ops : List Nat) : List Byte :=
  leBytes 1 code ++ leBytes 1 n ++ (ops.map (leBytes n)).flatten

/-- One lane's atomic at the home slice (R72, R273): `f` gives the new value, or none where it writes nothing.
Through an aperture the peer performs it, and the old value is free. -/
def atomicHome (m : MemForm) (code n : Nat) (ops : List Nat) (f : Nat → Option Nat) (va : DWord) (t : Trans) : M Nat := do
  let s := ((← get).strongPrep true t n).strongUse t.pa n true true (m.alloc t)
  let (bs, p, s) := s.homeRead t.pa n
  set s
  if Config.hbmBytes ≤ t.pa then
    modify fun s => s.toPeer (.peerAtomic (s.aperture t.pa).dev (aperOffset t.pa) (atomicMessage code n ops)) [s.writer s.cur.ctx]
  if p then throw (.fault (addrFault cDataPoison va 0x0B))
  if t.pa < Config.hbmBytes then
    match f (ofLe bs) with
    | some v => modify fun s => s.homeWrite [s.writer s.cur.ctx] t.pa ((leBytes n v).map some)
    | none => pure ()
  pure (ofLe bs)

/-- Atomics of every active lane in ascending order (R94): the old values. -/
def tenantAtomic (m : MemForm) (code n : Nat) (lanes : List (Nat × DWord)) (ops : Nat → List Nat)
    (f : Nat → Nat → Option Nat) : M (List (Nat × Nat)) := do
  let ps ← lanes.mapM (planLane (fun _ => Access.atomic) true true n)
  strongChecks true n ps
  if m.rel then releaseWord m.scope
  let olds ← ps.mapM fun p => do
    let t := (p.parts.map (·.1)).headD { pa := 0, cl := 0, wp := 0, ev := 0, size := 4096 }
    let old ← atomicHome m code n (ops p.lane) (f p.lane) p.ea t
    pure (p.lane, old)
  if m.acq then modify fun s => s.acquireActions s.cur.ctx m.scope
  pure olds

/-! ## The pool window (R40, R46, R97, R112) -/

/-- Whether a span lies in the staging and shared regions. -/
def State.poolSpan (s : State) (off : DWord) (n : Nat) : Bool := (s.teamAt s.cur.ctx).inData off.toNat n

/-- The checks of a pool word in lane order: its span, then alignment when strong. Tables 05-2 and 05-3 have no field
that names the pool space: the record gives the window offset as VA, LEVEL 0xFF and DETAIL 0 (DESIGN CHOICE, log 105).
-/
def poolChecks (strong : Bool) (n : Nat) (bits : Byte) (lanes : List (Nat × DWord)) : M Unit := do
  let s ← get
  match lanes.find? fun x => !s.poolSpan x.2 n with
  | some x => throw (.fault (addrFault cProtection x.2 bits))
  | none => pure ()
  let mis := lanes.filter fun x => x.2.toNat % n != 0
  if strong && !mis.isEmpty then trapLanes cMisaligned (BitVec.ofNat 32 n) mis
  if s.moving s.cur.ctx then throw (.hold .moving)

def readPool (off n : Nat) : M (List Byte) := do
  let s ← get
  if (s.teamAt s.cur.ctx).poison.any fun a => decide (off ≤ a) && decide (a < off + n) then
    throw (.fault (addrFault cDataPoison (BitVec.ofNat 64 off) 0x01))
  pure (s.ownBytes s.cur.ctx s.cur.grp true off (s.poolBytes s.cur.ctx off n))

def poolLoad (f : MemForm) (n : Nat) (lanes : List (Nat × DWord)) : M (List (Nat × List Byte)) := do
  poolChecks f.strong n 0x01 lanes
  let vals ← lanes.mapM fun x => do pure (x.1, ← readPool x.2.toNat n)
  if f.acq then modify fun s => s.acquireActions s.cur.ctx f.scope
  pure vals

def poolStore (f : MemForm) (n : Nat) (lanes : List (Nat × DWord)) (data : Nat → List Byte) : M Unit := do
  poolChecks f.strong n 0x02 lanes
  if f.rel then releaseWord f.scope
  modify fun s => s.mapCur fun g =>
    { g with
      sq := g.sq ++ [{ op := s.stamp, pool := true, cl := 0, wp := 0, prio := 0
                       writes := lanes.map fun x => (x.2.toNat, (data x.1).take n) }] }
  if f.strong then modify fun s => s.drainQueue s.cur.ctx s.cur.grp none

def poolAtomic (m : MemForm) (n : Nat) (lanes : List (Nat × DWord)) (f : Nat → Nat → Option Nat) :
    M (List (Nat × Nat)) := do
  poolChecks true n 0x0B lanes
  if m.rel then releaseWord m.scope
  modify fun s => s.drainQueue s.cur.ctx s.cur.grp none
  let olds ← lanes.mapM fun x => do
    let old := ofLe (← readPool x.2.toNat n)
    match f x.1 old with
    | some v => modify fun s => s.poolWrite s.cur.ctx x.2.toNat (leBytes n v)
    | none => pure ()
    pure (x.1, old)
  if m.acq then modify fun s => s.acquireActions s.cur.ctx m.scope
  pure olds

/-! ## The cluster pool (R41, R112) -/

/-- Where each byte of a cluster pool access of a core lies: none if some byte does not succeed. -/
def State.clusterReach (s : State) (core t : Nat) (a : DWord) (n : Nat) : Option (List (Nat × Nat)) :=
  (upTo n).mapM fun i => s.clusterTarget core t (a.toNat + i)

def State.clusterRun (s : State) (ctx : Nat) (a : DWord) (n : Nat) : Option (List (Nat × Nat)) :=
  s.clusterReach (s.coreOf ctx) (s.tfOf ctx) a n

def State.clusterByte (s : State) (x : Nat × Nat) : Byte := Memory.get (s.teamAt x.1).pool x.2

/-- Loads from the cluster pool. Table 05-2 has no field that names this space: the record gives the cluster pool
address as VA, LEVEL 0xFF and DETAIL 0 (DESIGN CHOICE, log 106). -/
def clusterLoad (f : MemForm) (n : Nat) (lanes : List (Nat × DWord)) : M (List (Nat × List Byte)) := do
  let s ← get
  let runs := lanes.map fun x => (x, s.clusterRun s.cur.ctx x.2 n)
  match runs.find? fun r => r.2.isNone with
  | some r => throw (.fault (addrFault cProtection r.1.2 0x01))
  | none => pure ()
  let mis := lanes.filter fun x => x.2.toNat % n != 0
  if f.strong && !f.free && !mis.isEmpty then trapLanes cMisaligned (BitVec.ofNat 32 n) mis
  let vals ← runs.mapM fun (x, r) => do
    let bs ← (r.getD []).mapM fun (ctx, off) => do
      if (s.teamAt ctx).poison.contains off then throw (.fault (addrFault cDataPoison x.2 0x01))
      let b := s.clusterByte (ctx, off)
      pure (if ctx = s.cur.ctx then (s.ownBytes ctx s.cur.grp true off [b]).headD b else b)
    pure (x.1, bs)
  if f.acq then modify fun s => s.acquireActions s.cur.ctx f.scope
  pure vals

/-! ## Serial records (R180) -/

def Group.serialAddr (g : Group) (t : Nat) : DWord :=
  g.frame + BitVec.ofNat 64 (4096 * g.frameGranules - 384 + 24 * t)

def plainForm : MemForm := { ord := 0, scope := 0, w16 := false, sx := false, free := false, nt := false }

/-- A plain load of the issuing party's serial area, with a frame's permissions (R55, R180). -/
def frameLoad (va : DWord) (n : Nat) : M (List Byte) := do
  let vals ← loadUnder (fun _ => Access.serialRead) plainForm n [(0, va)]
  pure ((vals.map (·.2)).headD [])

/-- A plain store of the issuing party's serial area, taken out of the store queue at once. Through an aperture it awaits
the peer like any store (R29). -/
def frameStore (va : DWord) (bs : List Byte) : M Unit := do
  match ← storeUnder (fun _ => Access.serialWrite) plainForm bs.length [(0, va)] fun _ => bs with
  | .store (some a) _ => modify fun s => s.addOp s.cur.ctx s.cur.grp none (.posted a) ({}, {})
  | _ => pure ()
  modify fun s => s.drainQueue s.cur.ctx s.cur.grp none

/-- A serial record (Table 06-7), with its token. -/
structure SerialRec where
  token : Nat
  pmask : DWord
  ppc   : Nat
  jpc   : Nat
  v     : Bool
  ph    : Bool
  owner : Nat
  depth : Nat
  deriving DecidableEq, Repr

def SerialRec.state (r : SerialRec) : Nat :=
  (if r.v then 2 ^ 31 else 0) + (if r.ph then 2 ^ 30 else 0) + r.owner % 16 * 2 ^ 26 + r.depth % 16 * 2 ^ 22

def SerialRec.encode (r : SerialRec) : List Byte :=
  leBytes 8 r.pmask.toNat ++ leBytes 4 r.ppc ++ leBytes 4 r.jpc ++ leBytes 4 r.state ++ leBytes 4 0

def SerialRec.decode (t : Nat) (bs : List Byte) : SerialRec :=
  let num (off n : Nat) : Nat := ofLe ((bs.drop off).take n)
  let st := num 16 4
  { token := t, pmask := BitVec.ofNat 64 (num 0 8), ppc := num 8 4, jpc := num 12 4, v := bitAt st 31, ph := bitAt st 30,
    owner := field st 26 4, depth := field st 22 4 }

def readSerial (t : Nat) : M SerialRec := do
  let g ← curGroup
  pure (SerialRec.decode t (← frameLoad (g.serialAddr t) 24))

def writeSerial (r : SerialRec) : M Unit := do
  let g ← curGroup
  frameStore (g.serialAddr r.token) r.encode

/-- OWNER of the issuing party. -/
def ownerCode (who : Option Nat) : Nat := who.getD 15

/-- Whether a token is live, and whether a fragment carries it (R178). -/
def Group.tokenLive (g : Group) (t : Nat) : Bool := g.tokens.getLsbD (2 * t)
def Group.carried (g : Group) (t : Nat) : Bool := g.frags.any fun f => f.v && f.token.toNat == t

/-- The serial records of the issuing party with V = 1. Each SPLIT writes its record, so that every live token has one
to read (R178, R180). The spec gives the area no start value, and a token that another party's JOIN frees may leave its
record with V = 1: only the records of live tokens are read (DESIGN CHOICE, log 152). -/
def ownSerials : M (List SerialRec) := do
  let s ← get
  let g := s.curGroup
  let rs ← ((upTo 16).filter g.tokenLive).mapM readSerial
  pure (rs.filter fun r => r.v && r.owner == ownerCode s.cur.frag)

/-! ## Writes to mask registers (R245) -/

/-- The value that the party's own mask takes. -/
def ownMask (v : DWord) : M DWord := do
  let s ← get
  let g := s.curGroup
  let rs ← ownSerials
  pure (rs.foldl (fun v r => v &&& ~~~ r.pmask) (v &&& onesBelow g.width &&& ~~~ g.otherLanes s.cur.frag))

/-- Write a mask register: m0 is the party's own mask. -/
def writeMask (n : Nat) (v : DWord) : M Unit := do
  if n = 0 then
    let w ← ownMask v
    modify fun s => s.mapCur fun g => g.setMask s.cur.frag w
  else mapCur fun g => { g with m := g.m.set n (v &&& onesBelow g.width) }

end Sys2Proof.Machine
end

