-- ==== Sys2Proof/Machine/VecInt.lean ====
section
/-!
DEFINITION. The vector integer words, compares and selects, moves, indirect access and VDEAD (R247 to R255).
-/

namespace Sys2Proof.Machine

/-! ## Elements (R183, R248) -/

/-- The immediate of a vector word, extended to elements of `w` bits. -/
def immLane (e : ImmExt) (w : Nat) (b : BitVec 8) : Word :=
  packElems w (List.replicate (32 / w) (match e with
    | .s => (b.signExtend 32).toNat
    | .z => b.toNat))

/-- An operation on each element of `w` bits of two lane values. -/
def zipElems (w : Nat) (f : Nat → Nat → Nat) (x y : Word) : Word := packElems w (List.zipWith f (elems w x) (elems w y))

/-- A two-source word of elements of `w` bits (R247, R248). -/
def velem (e : ImmExt) (w : Nat) (i : BitVec 1) (d a : BitVec 7) (b : BitVec 8) (f : Nat → Nat → Nat) (s : State) : Out :=
  .next (runWord ⟨1, true⟩ (vbin (immLane e w b) i d a b (zipElems w f)) s)

/-- A word of source a alone. -/
def vunary (d a : BitVec 7) (f : Word → Word) (s : State) : Out :=
  .next (runWord ⟨1, true⟩ (vbin 0 1 d a 0xF0 fun x _ => f x) s)

/-! ## Element arithmetic (Table 10-1) -/

def eAdd (_ x y : Nat) : Nat := x + y
def eSub (w x y : Nat) : Nat := x + 2 ^ w - y
def eMul (_ x y : Nat) : Nat := x * y
def eMin (w x y : Nat) : Nat := if sextNat w x ≤ sextNat w y then x else y
def eMax (w x y : Nat) : Nat := if sextNat w y ≤ sextNat w x then x else y
def eMinU (_ x y : Nat) : Nat := if x ≤ y then x else y
def eMaxU (_ x y : Nat) : Nat := if y ≤ x then x else y
def vMulHi (x y : Nat) : Nat := (sextNat 32 x * sextNat 32 y / 2 ^ 32 % 2 ^ 32).toNat
def vMulHiU (x y : Nat) : Nat := x * y / 2 ^ 32
def vAbsD (x y : Nat) : Nat := (sextNat 32 x - sextNat 32 y).natAbs
def vAbsDU (x y : Nat) : Nat := ((x : Int) - y).natAbs

def execVadd (i : BitVec 1) (d a : BitVec 7) (b : BitVec 8) (s : State) : Out :=
  velem .s 32 i d a b (eAdd 32) s

def execVaddI16 (i : BitVec 1) (d a : BitVec 7) (b : BitVec 8) (s : State) : Out :=
  velem .s 16 i d a b (eAdd 16) s

def execVaddI8 (i : BitVec 1) (d a : BitVec 7) (b : BitVec 8) (s : State) : Out :=
  velem .s 8 i d a b (eAdd 8) s

def execVsub (i : BitVec 1) (d a : BitVec 7) (b : BitVec 8) (s : State) : Out :=
  velem .s 32 i d a b (eSub 32) s

def execVsubI16 (i : BitVec 1) (d a : BitVec 7) (b : BitVec 8) (s : State) : Out :=
  velem .s 16 i d a b (eSub 16) s

def execVsubI8 (i : BitVec 1) (d a : BitVec 7) (b : BitVec 8) (s : State) : Out :=
  velem .s 8 i d a b (eSub 8) s

def execVmullo (i : BitVec 1) (d a : BitVec 7) (b : BitVec 8) (s : State) : Out :=
  velem .s 32 i d a b (eMul 32) s

def execVmulloI16 (i : BitVec 1) (d a : BitVec 7) (b : BitVec 8) (s : State) : Out :=
  velem .s 16 i d a b (eMul 16) s

def execVmulloI8 (i : BitVec 1) (d a : BitVec 7) (b : BitVec 8) (s : State) : Out :=
  velem .s 8 i d a b (eMul 8) s

def execVmin (i : BitVec 1) (d a : BitVec 7) (b : BitVec 8) (s : State) : Out :=
  velem .s 32 i d a b (eMin 32) s

def execVminI16 (i : BitVec 1) (d a : BitVec 7) (b : BitVec 8) (s : State) : Out :=
  velem .s 16 i d a b (eMin 16) s

def execVminI8 (i : BitVec 1) (d a : BitVec 7) (b : BitVec 8) (s : State) : Out :=
  velem .s 8 i d a b (eMin 8) s

def execVminU (i : BitVec 1) (d a : BitVec 7) (b : BitVec 8) (s : State) : Out :=
  velem .z 32 i d a b (eMinU 32) s

def execVminUI16 (i : BitVec 1) (d a : BitVec 7) (b : BitVec 8) (s : State) : Out :=
  velem .z 16 i d a b (eMinU 16) s

def execVminUI8 (i : BitVec 1) (d a : BitVec 7) (b : BitVec 8) (s : State) : Out :=
  velem .z 8 i d a b (eMinU 8) s

def execVmax (i : BitVec 1) (d a : BitVec 7) (b : BitVec 8) (s : State) : Out :=
  velem .s 32 i d a b (eMax 32) s

def execVmaxI16 (i : BitVec 1) (d a : BitVec 7) (b : BitVec 8) (s : State) : Out :=
  velem .s 16 i d a b (eMax 16) s

def execVmaxI8 (i : BitVec 1) (d a : BitVec 7) (b : BitVec 8) (s : State) : Out :=
  velem .s 8 i d a b (eMax 8) s

def execVmaxU (i : BitVec 1) (d a : BitVec 7) (b : BitVec 8) (s : State) : Out :=
  velem .z 32 i d a b (eMaxU 32) s

def execVmaxUI16 (i : BitVec 1) (d a : BitVec 7) (b : BitVec 8) (s : State) : Out :=
  velem .z 16 i d a b (eMaxU 16) s

def execVmaxUI8 (i : BitVec 1) (d a : BitVec 7) (b : BitVec 8) (s : State) : Out :=
  velem .z 8 i d a b (eMaxU 8) s

def execVmulhi (i : BitVec 1) (d a : BitVec 7) (b : BitVec 8) (s : State) : Out :=
  velem .s 32 i d a b (vMulHi) s

def execVmulhiU (i : BitVec 1) (d a : BitVec 7) (b : BitVec 8) (s : State) : Out :=
  velem .z 32 i d a b (vMulHiU) s

def execVabsd (i : BitVec 1) (d a : BitVec 7) (b : BitVec 8) (s : State) : Out :=
  velem .s 32 i d a b (vAbsD) s

def execVabsdU (i : BitVec 1) (d a : BitVec 7) (b : BitVec 8) (s : State) : Out :=
  velem .z 32 i d a b (vAbsDU) s

def execVand (i : BitVec 1) (d a : BitVec 7) (b : BitVec 8) (s : State) : Out :=
  velem .z 32 i d a b (fun x y => x &&& y) s

def execVor (i : BitVec 1) (d a : BitVec 7) (b : BitVec 8) (s : State) : Out :=
  velem .z 32 i d a b (fun x y => x ||| y) s

def execVxor (i : BitVec 1) (d a : BitVec 7) (b : BitVec 8) (s : State) : Out :=
  velem .z 32 i d a b (fun x y => x ^^^ y) s

def execVandn (i : BitVec 1) (d a : BitVec 7) (b : BitVec 8) (s : State) : Out :=
  velem .z 32 i d a b (fun x y => x &&& (2 ^ 32 - 1 - y)) s

def execVshl (i : BitVec 1) (d a : BitVec 7) (b : BitVec 8) (s : State) : Out :=
  velem .z 32 i d a b (fun x y => x <<< (y % 32)) s

def execVshr (i : BitVec 1) (d a : BitVec 7) (b : BitVec 8) (s : State) : Out :=
  velem .z 32 i d a b (fun x y => x >>> (y % 32)) s

def execVsar (i : BitVec 1) (d a : BitVec 7) (b : BitVec 8) (s : State) : Out :=
  velem .z 32 i d a b (fun x y => (sextNat 32 x / 2 ^ (y % 32) % 2 ^ 32).toNat) s

def execVrot (i : BitVec 1) (d a : BitVec 7) (b : BitVec 8) (s : State) : Out :=
  velem .z 32 i d a b (fun x y => ((BitVec.ofNat 32 x).rotateLeft (y % 32)).toNat) s

/-! ## Multiply-add: the fourth operand (R218) -/

/-- A word of three sources: a, b and the fourth operand, elements of `w` bits. -/
def vthree (imm : Word) (i : BitVec 1) (d a : BitVec 7) (b : BitVec 8) (f : Word → Word → Word → Word) : M Unit := do
  let c ← vctx
  fourthOk c
  checkRegs (d.toNat :: a.toNat :: bRegs i b ++ c.fourthRegs)
    (a.toNat :: bRegs i b ++ (if c.hasPre then c.fourthRegs else [d.toNat]))
  c.write d.toNat fun l => f (c.srcA a l) (if i = 1 then imm else c.sel b l) (c.fourth d l)

def mad (w : Nat) (x y z : Word) : Word := zipElems w (eAdd w) (zipElems w (eMul w) x y) z

def execVmad (i : BitVec 1) (d a : BitVec 7) (b : BitVec 8) (s : State) : Out :=
  .next (runWord ⟨1, true⟩ (vthree (immLane .s 32 b) i d a b (mad 32)) s)

def execVmadI16 (i : BitVec 1) (d a : BitVec 7) (b : BitVec 8) (s : State) : Out :=
  .next (runWord ⟨1, true⟩ (vthree (immLane .s 16 b) i d a b (mad 16)) s)

def execVmadI8 (i : BitVec 1) (d a : BitVec 7) (b : BitVec 8) (s : State) : Out :=
  .next (runWord ⟨1, true⟩ (vthree (immLane .s 8 b) i d a b (mad 8)) s)

/-! ## Saturating words (R185, R250) -/

/-- The signed value of an element, or its unsigned one. -/
def elemInt (signed : Bool) (w x : Nat) : Int := if signed then sextNat w x else (x % 2 ^ w : Nat)

/-- An exact sum or difference clamped to the element range, and whether it clamped. -/
def satElem (signed sub : Bool) (w x y : Nat) : Nat × Bool :=
  let r := if sub then elemInt signed w x - elemInt signed w y else elemInt signed w x + elemInt signed w y
  let lo : Int := if signed then -(2 ^ (w - 1)) else 0
  let hi : Int := if signed then 2 ^ (w - 1) - 1 else 2 ^ w - 1
  let k := max lo (min hi r)
  ((k % 2 ^ w).toNat, k != r)

def satWord (signed sub : Bool) (w : Nat) (x y : Word) : Word := zipElems w (fun x y => (satElem signed sub w x y).1) x y

def satAny (signed sub : Bool) (w : Nat) (x y : Word) : Bool :=
  (List.zipWith (fun x y => (satElem signed sub w x y).2) (elems w x) (elems w y)).any id

/-- VADDSAT and VSUBSAT: FSTAT.SAT when an active element clamps. -/
def vsat (signed sub : Bool) (w : Nat) (i : BitVec 1) (d a : BitVec 7) (b : BitVec 8) : M Unit := do
  let imm := immLane (if signed then .s else .z) w b
  let c ← vctx
  checkRegs (d.toNat :: a.toNat :: bRegs i b) (a.toNat :: bRegs i b)
  let y (l : Nat) : Word := if i = 1 then imm else c.sel b l
  c.write d.toNat fun l => satWord signed sub w (c.srcA a l) (y l)
  if c.lanes.any fun l => satAny signed sub w (c.srcA a l) (y l) then mapCur fun g => g.orFlags fSAT

def execVaddsat (i : BitVec 1) (d a : BitVec 7) (b : BitVec 8) (s : State) : Out :=
  .next (runWord ⟨1, true⟩ (vsat true false 32 i d a b) s)

def execVaddsatI16 (i : BitVec 1) (d a : BitVec 7) (b : BitVec 8) (s : State) : Out :=
  .next (runWord ⟨1, true⟩ (vsat true false 16 i d a b) s)

def execVaddsatI8 (i : BitVec 1) (d a : BitVec 7) (b : BitVec 8) (s : State) : Out :=
  .next (runWord ⟨1, true⟩ (vsat true false 8 i d a b) s)

def execVaddsatU8 (i : BitVec 1) (d a : BitVec 7) (b : BitVec 8) (s : State) : Out :=
  .next (runWord ⟨1, true⟩ (vsat false false 8 i d a b) s)

def execVsubsat (i : BitVec 1) (d a : BitVec 7) (b : BitVec 8) (s : State) : Out :=
  .next (runWord ⟨1, true⟩ (vsat true true 32 i d a b) s)

def execVsubsatI16 (i : BitVec 1) (d a : BitVec 7) (b : BitVec 8) (s : State) : Out :=
  .next (runWord ⟨1, true⟩ (vsat true true 16 i d a b) s)

def execVsubsatI8 (i : BitVec 1) (d a : BitVec 7) (b : BitVec 8) (s : State) : Out :=
  .next (runWord ⟨1, true⟩ (vsat true true 8 i d a b) s)

def execVsubsatU8 (i : BitVec 1) (d a : BitVec 7) (b : BitVec 8) (s : State) : Out :=
  .next (runWord ⟨1, true⟩ (vsat false true 8 i d a b) s)

/-! ## Bit words -/

def execVpopc (d a : BitVec 7) (s : State) : Out := vunary d a (fun x => BitVec.ofNat 32 (popcount 32 x.toNat)) s

def execVclz (d a : BitVec 7) (s : State) : Out := vunary d a (fun x => BitVec.ofNat 32 (leadingZeros 32 x.toNat)) s

def execVbrev (d a : BitVec 7) (s : State) : Out := vunary d a BitVec.reverse s

/-- Position and width of R251's field. -/
def fieldPos (b : Word) : Nat := b.toNat % 32
def fieldLen (b : Word) : Nat := min (if field b.toNat 8 5 = 0 then 32 else field b.toNat 8 5) (32 - fieldPos b)

def extrU (x b : Word) : Word := BitVec.ofNat 32 (x.toNat / 2 ^ fieldPos b % 2 ^ fieldLen b)
def extrS (x b : Word) : Word := w32 (sextNat (fieldLen b) (x.toNat / 2 ^ fieldPos b))

/-- VBFI: the field of c replaced from a. -/
def insertField (x b c : Word) : Word :=
  let m : Word := BitVec.ofNat 32 ((2 ^ fieldLen b - 1) * 2 ^ fieldPos b)
  (c &&& ~~~ m) ||| ((x <<< fieldPos b) &&& m)

def execVbfe (i : BitVec 1) (d a : BitVec 7) (b : BitVec 8) (s : State) : Out :=
  .next (runWord ⟨1, true⟩ (vbin (immLane .z 32 b) i d a b extrU) s)

def execVbfeS (i : BitVec 1) (d a : BitVec 7) (b : BitVec 8) (s : State) : Out :=
  .next (runWord ⟨1, true⟩ (vbin (immLane .z 32 b) i d a b extrS) s)

def execVbfi (i : BitVec 1) (d a : BitVec 7) (b : BitVec 8) (s : State) : Out :=
  .next (runWord ⟨1, true⟩ (vthree (immLane .z 32 b) i d a b insertField) s)

/-! ## Compare and select (R252, R253) -/

/-- A mask written lane by lane under the active set (R253). -/
def VCtx.maskWrite (c : VCtx) (m : Nat) (f : Nat → Bool) : M Unit :=
  let old := c.g.readM c.who m
  writeMask m (maskOf ((upTo c.w).filter fun l => if c.on l then f l else !c.z && old.getLsbD l))

/-- VCMP's conditions (Table 08-14). -/
def vcmpHolds (code : Nat) (x y : Word) : Bool :=
  match code with
  | 0 => x == y
  | 1 => x != y
  | 2 => decide (x.toInt < y.toInt)
  | 3 => decide (x.toInt ≤ y.toInt)
  | 4 => decide (x.toNat < y.toNat)
  | _ => decide (x.toNat ≤ y.toNat)

def vcmpWord (i : BitVec 1) (cc : BitVec 3) (m : BitVec 4) (a : BitVec 7) (b : BitVec 8) : M Unit := do
  let c ← vctx
  checkRegs (a.toNat :: bRegs i b) (a.toNat :: bRegs i b)
  let imm := immLane (if cc.toNat < 4 then .s else .z) 32 b
  c.maskWrite m.toNat fun l => vcmpHolds cc.toNat (c.srcA a l) (if i = 1 then imm else c.sel b l)

def execVcmp (i : BitVec 1) (c : BitVec 3) (m : BitVec 4) (a : BitVec 7) (b : BitVec 8) (s : State) : Out :=
  .next (runWord ⟨1, true⟩ (vcmpWord i c m a b) s)

def execVsel (i : BitVec 1) (d a : BitVec 7) (b : BitVec 8) (s : State) : Out :=
  .next (runWord ⟨1, true⟩ (vthree (immLane .s 32 b) i d a b fun x y c => if c = 0 then y else x) s)

/-! ## Moves, indirect access, VDEAD (R254, R255) -/

def vmovWord (i : BitVec 1) (d : BitVec 7) (b : BitVec 8) : M Unit := do
  let c ← vctx (perm := false)
  checkRegs (d.toNat :: bRegs i b) (bRegs i b)
  c.write d.toNat fun l => if i = 1 then immLane .s 32 b else c.sel b l

def execVmov (i : BitVec 1) (d : BitVec 7) (b : BitVec 8) (s : State) : Out :=
  .next (runWord ⟨1, true⟩ (vmovWord i d b) s)

/-- The index that each active lane of VRDX and VWRX forms; REGBOUND when one reaches the budget. -/
def laneIndex (c : VCtx) (i : BitVec 1) (a : BitVec 7) (b : BitVec 8) (l : Nat) : Nat :=
  (c.srcA a l + (if i = 1 then immLane .z 32 b else c.sel b l)).toNat

def checkIndices (c : VCtx) (idx : Nat → Nat) : M Unit := do
  let bad := c.lanes.filter fun l => decide (c.g.budget ≤ idx l)
  if !bad.isEmpty then
    throw (.trap cRegbound (BitVec.ofNat 32 ((bad.map idx).headD 0)) 0 (maskOf bad))

def vrdxWord (i : BitVec 1) (d a : BitVec 7) (b : BitVec 8) : M Unit := do
  let c ← vctx
  checkRegs (d.toNat :: a.toNat :: bRegs i b) (a.toNat :: bRegs i b)
  let idx := laneIndex c i a b
  checkIndices c idx
  checkRegs [] (c.lanes.map idx)
  c.write d.toNat fun l => c.g.lane (idx l) l

def execVrdx (i : BitVec 1) (d a : BitVec 7) (b : BitVec 8) (s : State) : Out :=
  .next (runWord ⟨1, true⟩ (vrdxWord i d a b) s)

def vwrxWord (i : BitVec 1) (v a : BitVec 7) (b : BitVec 8) : M Unit := do
  let c ← vctx
  checkRegs (v.toNat :: a.toNat :: bRegs i b) (v.toNat :: a.toNat :: bRegs i b)
  let idx := laneIndex c i a b
  checkIndices c idx
  mapCur fun g =>
    (dedup (c.lanes.map idx)).foldl (fun g n =>
      g.writeLanes n fun l => if c.on l && idx l == n then some (c.g.lane v.toNat l) else none) g

def execVwrx (i : BitVec 1) (v a : BitVec 7) (b : BitVec 8) (s : State) : Out :=
  .next (runWord ⟨1, true⟩ (vwrxWord i v a b) s)

def vdeadWord (d : BitVec 7) (n : BitVec 8) : M Unit := do
  let _ ← vctx (perm := false)
  let run := rangeFrom d.toNat (n.toNat + 1)
  checkRegs run []
  mapCur fun g => run.foldl Group.killReg g

def execVdead (d : BitVec 7) (n : BitVec 8) (s : State) : Out := .next (runWord ⟨1, true⟩ (vdeadWord d n) s)

end Sys2Proof.Machine
end

