-- ==== Sys2Proof/Machine/CrossLane.lean ====
section
/-!
DEFINITION. The cross-lane words (R263 to R265).
-/

namespace Sys2Proof.Machine

/-- One value for the whole word (R263): an immediate, or a selector read as an unsigned 32-bit value. -/
def uniform (c : VCtx) (i : BitVec 1) (b : BitVec 8) : Nat := if i = 1 then b.toNat else (c.sel b 0).toNat

/-- A cross-lane word that writes lane l of vd from the context. -/
def cross (d a : BitVec 7) (more : List Nat) (f : VCtx → Nat → Word) (s : State) : Out :=
  .next (runWord ⟨1, true⟩ (do
    let c ← vctx
    checkRegs (d.toNat :: a.toNat :: more) (a.toNat :: more)
    c.write d.toNat (f c)) s)

def execVperm (d a : BitVec 7) (b : BitVec 8) (s : State) : Out :=
  cross d a (selRegs b) (fun c l => c.srcA a ((c.sel b l).toNat % c.w)) s

def execVbcast (i : BitVec 1) (d a : BitVec 7) (b : BitVec 8) (s : State) : Out :=
  cross d a [] (fun c _ => c.srcA a (uniform c i b % c.w)) s

def execVlshiftUp (i : BitVec 1) (d a : BitVec 7) (b : BitVec 8) (s : State) : Out :=
  cross d a [] (fun c l => if uniform c i b ≤ l then c.srcA a (l - uniform c i b) else 0) s

def execVlshiftDn (i : BitVec 1) (d a : BitVec 7) (b : BitVec 8) (s : State) : Out :=
  cross d a [] (fun c l => if l + uniform c i b < c.w then c.srcA a (l + uniform c i b) else 0) s

/-! ## Reductions and scans (R264) -/

/-- The identity of a reduction code (Table 08-14). -/
def redIdentity (code : Nat) : Word :=
  match code with
  | 1 => 0x7FFFFFFF
  | 2 => 0x80000000
  | 3 | 5 => 0xFFFFFFFF
  | 8 => 0x80000000
  | 9 => 0x7F800000
  | 10 => 0xFF800000
  | _ => 0

/-- One step of the fold at lane l, with its flags. -/
def redStep (s : State) (c : VCtx) (code l : Nat) (acc x : Word) : Word × Nat :=
  let fp (r : FRes) : Word × Nat := (BitVec.ofNat 32 r.bits, r.flags)
  let v (x : Word) : FVal := elemVal c .fp32 x 0
  match code with
  | 0 => (acc + x, 0)
  | 1 => (if acc.toInt ≤ x.toInt then acc else x, 0)
  | 2 => (if x.toInt ≤ acc.toInt then acc else x, 0)
  | 3 => (if acc.toNat ≤ x.toNat then acc else x, 0)
  | 4 => (if x.toNat ≤ acc.toNat then acc else x, 0)
  | 5 => (acc &&& x, 0)
  | 6 => (acc ||| x, 0)
  | 7 => (acc ^^^ x, 0)
  | 8 => fp (fAdd .fp32 (s.fenv c .fp32 l 0) (v acc) (v x))
  | 9 => fp (fMinMax .fp32 false (v acc) (v x))
  | _ => fp (fMinMax .fp32 true (v acc) (v x))

/-- The fold over the active lanes: for each lane the accumulator before and after it, and the flags. -/
def redFold (s : State) (c : VCtx) (code : Nat) (a : BitVec 7) :
    List Nat → Option Word → List (Nat × Option Word × Word × Nat)
  | [], _ => []
  | l :: t, acc =>
    let x := c.srcA a l
    let r : Word × Nat := match acc with
      | none => (x, 0)
      | some v => redStep s c code l v x
    (l, acc, r.1, r.2) :: redFold s c code a t (some r.1)

/-- What a fold leaves: the last value, or the identity. -/
def redResult (code : Nat) (fold : List (Nat × Option Word × Word × Nat)) : Word :=
  match fold.getLast? with
  | some x => x.2.2.1
  | none => redIdentity code

/-- The energy class of a reduction: cross-lane (Table 15-3). -/
def redEnergy : Energy := ⟨1, true⟩

/-- The fold with its flags committed (R201). -/
def redRun (named : List Nat) (a : BitVec 7) (o : BitVec 8) :
    M (VCtx × List (Nat × Option Word × Word × Nat)) := do
  let c ← vctx
  checkRegs (named ++ [a.toNat]) [a.toNat]
  let s ← get
  let fold := redFold s c o.toNat a c.lanes none
  if 8 ≤ o.toNat then fpFlags c (o == 8) (fold.map fun x => (x.1, x.2.2.2))
  pure (c, fold)

def execVred (d a : BitVec 7) (o : BitVec 8) (s : State) : Out :=
  .next (runWord redEnergy (do
    let (c, fold) ← redRun [d.toNat] a o
    c.write d.toNat fun _ => redResult o.toNat fold) s)

def execVredScalar (d : BitVec 5) (a : BitVec 7) (o : BitVec 8) (s : State) : Out :=
  .next (runWord redEnergy (do
    let (_, fold) ← redRun [] a o
    modify fun s => s.writeS d.toNat ((redResult o.toNat fold).setWidth 64)) s)

def execVscan (d a : BitVec 7) (o : BitVec 8) (s : State) : Out :=
  .next (runWord redEnergy (do
    let (c, fold) ← redRun [d.toNat] a o
    c.write d.toNat fun l => match fold.find? fun x => x.1 == l with
      | some x => x.2.2.1
      | none => 0) s)

def execVscanEx (d a : BitVec 7) (o : BitVec 8) (s : State) : Out :=
  .next (runWord redEnergy (do
    let (c, fold) ← redRun [d.toNat] a o
    c.write d.toNat fun l => match fold.find? fun x => x.1 == l with
      | some x => x.2.1.getD (redIdentity o.toNat)
      | none => 0) s)

/-! ## Minimum with index (R265) -/

/-- The smallest pair (value, lane), an inactive lane giving all ones. -/
def minPair (c : VCtx) (a : BitVec 7) : Nat × Nat :=
  c.lanes.foldl (fun m l =>
    let p := ((c.srcA a l).toNat, l)
    if p.1 < m.1 ∨ (p.1 = m.1 ∧ p.2 < m.2) then p else m) (0xFFFFFFFF, 0xFFFFFFFF)

def execVredmi (d a : BitVec 7) (s : State) : Out :=
  .next (runWord redEnergy (do
    let c ← vctx
    checkRegs [d.toNat, d.toNat + 1, a.toNat] [a.toNat]
    c.write d.toNat fun _ => BitVec.ofNat 32 (minPair c a).1
    c.write (d.toNat + 1) fun _ => BitVec.ofNat 32 (minPair c a).2) s)

def execVredmiScalar (d : BitVec 5) (a : BitVec 7) (s : State) : Out :=
  .next (runWord redEnergy (do
    let c ← vctx
    checkRegs [a.toNat] [a.toNat]
    modify fun s => (s.writeS d.toNat (BitVec.ofNat 64 (minPair c a).1)).writeS (d.toNat + 1) (BitVec.ofNat 64 (minPair c a).2)) s)

/-! ## Ballot, extract, insert -/

def execVballot (m : BitVec 4) (a : BitVec 7) (s : State) : Out :=
  .next (runWord ⟨1, true⟩ (do
    let c ← vctx
    checkRegs [a.toNat] [a.toNat]
    c.maskWrite m.toNat fun l => c.srcA a l != 0) s)

def execVextr (i : BitVec 1) (d : BitVec 5) (a : BitVec 7) (b : BitVec 8) (s : State) : Out :=
  .next (runWord ⟨1, true⟩ (do
    let c ← vctx
    checkRegs [a.toNat] [a.toNat]
    modify fun s => s.writeS d.toNat ((c.srcA a (uniform c i b % c.w)).setWidth 64)) s)

/-- VINS: no permutation, no zeroing. Each lane reads b in that lane (R247), so that a lane is written when its own b
names it; R263 calls b one value only for VBCAST, VLSHIFT and VEXTR (DEDUCED, log 115). -/
def vinsWord (i : BitVec 1) (d : BitVec 7) (a : BitVec 5) (b : BitVec 8) : M Unit := do
  let c ← vctx (perm := false)
  if c.z then illegal
  checkRegs (d.toNat :: bRegs i b) (bRegs i b)
  let k (l : Nat) : Nat := (if i = 1 then b.toNat else (c.sel b l).toNat) % c.w
  mapCur fun g => g.writeLanes d.toNat fun l =>
    if l == k l && c.on l then some ((c.g.readS a.toNat).setWidth 32) else none

def execVins (i : BitVec 1) (d : BitVec 7) (a : BitVec 5) (b : BitVec 8) (s : State) : Out :=
  .next (runWord ⟨1, true⟩ (vinsWord i d a b) s)

end Sys2Proof.Machine
end

