-- ==== Sys2Proof/Machine/Memory.lean ====
section
/-!
DEFINITION. Loads and stores (R267 to R271): LD, ST, LDS, STS, LDP, STP, LDCL.
-/

namespace Sys2Proof.Machine

/-- The lane words that loaded bytes give (R268): one word for each register of the run. -/
def loadedWords (sx : Bool) (bs : List Byte) : List Word :=
  if bs.length < 4 then
    [if sx then w32 (sextNat (8 * bs.length) (ofLe bs)) else BitVec.ofNat 32 (ofLe bs)]
  else (upTo (bs.length / 4)).map fun i => BitVec.ofNat 32 (ofLe ((bs.drop (4 * i)).take 4))

/-- The registers that a memory word reads: none where its active set is empty, since it then raises nothing (R267). -/
def laneSources (lanes : List (Nat × DWord)) (ns : List Nat) : List Nat := if lanes.isEmpty then [] else ns

/-- Write a run of registers lane by lane. -/
def writeRun (c : VCtx) (d n : Nat) (vals : List (Nat × List Word)) : M Unit :=
  (upTo n).forM fun i => c.write (d + i) fun l => (look vals l []).getD i 0

/-- The bytes of a lane of a run of registers. -/
def laneBytes (g : Group) (d n l : Nat) : List Byte := (upTo n).flatMap fun i => leBytes 4 (g.lane (d + i) l).toNat

/-- A word whose active set is empty counts on its flag and completes at once (R267). -/
def issueMem (f : BitVec 1) (k : OpKind) (none? : Bool) : M Unit := do
  if none? then
    let n ← countFlag f
    modify fun s => s.dropFlag s.cur.ctx s.cur.grp n
  else issueOp f k

/-- PURITY comes before every other check of a load (R346). -/
def loadPure (sp : Space) (n : Nat) (lanes : List (Nat × DWord)) : M Unit := do
  let s ← get
  match sp with
  | .tenant => pureLanes (s.badTenant false n lanes)
  | .pool => pure ()
  | .cluster =>
    pureLanes (lanes.filter fun x => match s.clusterRun s.cur.ctx x.2 n with
      | some run => run.any fun t => t.1 != s.cur.ctx
      | none => true)

/-- Bytes of tenant memory, the pool or the cluster pool, by lane. -/
def loadFrom (sp : Space) (m : MemForm) (n : Nat) (lanes : List (Nat × DWord)) : M (List (Nat × List Byte)) :=
  match sp with
  | .tenant => tenantLoad m n lanes
  | .pool => poolLoad m n lanes
  | .cluster => clusterLoad m n lanes

/-- A vector load (R267, R268). -/
def vload (sp : Space) (f : BitVec 1) (z : BitVec 2) (d o : BitVec 7) (b : BitVec 5) (k : BitVec 2) (nt : BitVec 1) : M Unit := do
  let (c, m) ← memCtx .load sp (z == 3) (decide (z.toNat < 2)) false nt
  let regs := sizeRegs z.toNat m.w16
  let n := sizeBytes z.toNat m.w16
  if 128 < d.toNat + regs then illegal
  let lanes := laneAddrs c b o k.toNat
  loadPure sp n lanes
  checkRegs (rangeFrom d.toNat regs ++ [o.toNat]) (laneSources lanes [o.toNat])
  let vals ← loadFrom sp m n lanes
  writeRun c d.toNat regs (vals.map fun x => (x.1, loadedWords m.sx x.2))
  issueMem f .load lanes.isEmpty

/-- A vector store (R267, R268). -/
def vstore (sp : Space) (f : BitVec 1) (z : BitVec 2) (d o : BitVec 7) (b : BitVec 5) (k : BitVec 2) (nt : BitVec 1) : M Unit := do
  let (c, m) ← memCtx .store sp (z == 3) false false nt
  let regs := sizeRegs z.toNat m.w16
  let n := sizeBytes z.toNat m.w16
  if 128 < d.toNat + regs then illegal
  let lanes := laneAddrs c b o k.toNat
  if sp = .tenant then pureLanes ((← get).badTenant true n lanes)
  checkRegs (rangeFrom d.toNat regs ++ [o.toNat]) (laneSources lanes (rangeFrom d.toNat regs ++ [o.toNat]))
  let data (l : Nat) : List Byte := (laneBytes c.g d.toNat regs l).take n
  let kind ← match sp with
    | .tenant => tenantStore m n lanes data
    | _ => do
      poolStore m n lanes data
      pure (.store none false)
  issueMem f kind lanes.isEmpty

/-- The address of LDS and STS (R270). -/
def scalarAddr (g : Group) (b : BitVec 5) (o : BitVec 7) (k : BitVec 2) : DWord :=
  g.readS b.toNat + (o.signExtend 64 <<< k.toNat)

/-- The lane number of an access made for the whole party: outside every lane mask (Table 16-2, LANES). -/
def partyLane : Nat := 64

def ldsWord (f : BitVec 1) (z : BitVec 2) (d : BitVec 5) (o : BitVec 7) (b : BitVec 5) (k : BitVec 2) (nt : BitVec 1) : M Unit := do
  let (c, m) ← memCtx .load .tenant false (decide (z.toNat < 2)) true nt
  let n := sizeBytes z.toNat false
  let lanes := [(partyLane, scalarAddr c.g b o k)]
  pureLanes ((← get).badTenant false n lanes)
  let vals ← tenantLoad m n lanes
  let v := ofLe ((vals.map (·.2)).headD [])
  modify fun s => s.writeS d.toNat (if m.sx then w64 (sextNat (8 * n) v) else BitVec.ofNat 64 v)
  issueOp f .load

def stsWord (f : BitVec 1) (z : BitVec 2) (d : BitVec 5) (o : BitVec 7) (b : BitVec 5) (k : BitVec 2) (nt : BitVec 1) : M Unit := do
  let (c, m) ← memCtx .store .tenant false false true nt
  let n := sizeBytes z.toNat false
  let lanes := [(partyLane, scalarAddr c.g b o k)]
  pureLanes ((← get).badTenant true n lanes)
  let kind ← tenantStore m n lanes fun _ => leBytes n (c.g.readS d.toNat).toNat
  issueOp f kind

def execLd (f : BitVec 1) (z : BitVec 2) (d o : BitVec 7) (b : BitVec 5) (k : BitVec 2) (nt : BitVec 1) (s : State) : Out :=
  .next (runWord ⟨4, true⟩ (vload .tenant f z d o b k nt) s)

def execSt (f : BitVec 1) (z : BitVec 2) (d o : BitVec 7) (b : BitVec 5) (k : BitVec 2) (nt : BitVec 1) (s : State) : Out :=
  .next (runWord ⟨4, true⟩ (vstore .tenant f z d o b k nt) s)

def execLdp (f : BitVec 1) (z : BitVec 2) (d o : BitVec 7) (b : BitVec 5) (k : BitVec 2) (nt : BitVec 1) (s : State) : Out :=
  .next (runWord ⟨4, true⟩ (vload .pool f z d o b k nt) s)

def execStp (f : BitVec 1) (z : BitVec 2) (d o : BitVec 7) (b : BitVec 5) (k : BitVec 2) (nt : BitVec 1) (s : State) : Out :=
  .next (runWord ⟨4, true⟩ (vstore .pool f z d o b k nt) s)

def execLdcl (f : BitVec 1) (z : BitVec 2) (d o : BitVec 7) (b : BitVec 5) (k : BitVec 2) (nt : BitVec 1) (s : State) : Out :=
  .next (runWord ⟨4, true⟩ (vload .cluster f z d o b k nt) s)

def execLds (f : BitVec 1) (z : BitVec 2) (d : BitVec 5) (o : BitVec 7) (b : BitVec 5) (k : BitVec 2) (nt : BitVec 1) (s : State) : Out :=
  .next (runWord ⟨4, false⟩ (ldsWord f z d o b k nt) s)

def execSts (f : BitVec 1) (z : BitVec 2) (d : BitVec 5) (o : BitVec 7) (b : BitVec 5) (k : BitVec 2) (nt : BitVec 1) (s : State) : Out :=
  .next (runWord ⟨4, false⟩ (stsWord f z d o b k nt) s)

end Sys2Proof.Machine
end

