-- ==== Sys2Proof/Machine/Atomics.lean ====
section
/-!
DEFINITION. Atomics (R272 to R274): ATOM, ATOMC, ATOMP.
-/

namespace Sys2Proof.Machine

/-- The operations of Table 08-9 on `n` bytes. -/
def atomOp (code n : Nat) (old x : Nat) : Nat :=
  let w := 8 * n
  match code with
  | 0 => (old + x) % 2 ^ w
  | 1 => x
  | 2 => old &&& x
  | 3 => old ||| x
  | 4 => old ^^^ x
  | 5 => if sextNat w old ≤ sextNat w x then old else x
  | 6 => if sextNat w x ≤ sextNat w old then old else x
  | 7 => if old ≤ x then old else x
  | 8 => if x ≤ old then old else x
  | _ => (fAdd .fp32 FEnv.rne (Fmt.fp32.decode false old) (Fmt.fp32.decode false x)).bits

/-- The old values into a run of registers. -/
def writeOld (c : VCtx) (d regs n : Nat) (olds : List (Nat × Nat)) : M Unit :=
  writeRun c d regs (olds.map fun x => (x.1, loadedWords false (leBytes n x.2)))

/-- ATOM and ATOMP (R273): the operand and the old value share the run. -/
def atomWord (sp : Space) (code : Nat) (f w : BitVec 1) (d o : BitVec 7) (b : BitVec 5) : M Unit := do
  let (c, m) ← memCtx .atomic sp false false false 0
  let n := if w = 0 then 4 else 8
  let regs := n / 4
  let lanes := laneAddrs c b o 0
  if sp = .tenant then atomPure lanes
  checkRegs (rangeFrom d.toNat regs ++ [o.toNat]) (laneSources lanes (rangeFrom d.toNat regs ++ [o.toNat]))
  let x (l : Nat) : Nat := ofLe (laneBytes c.g d.toNat regs l)
  let olds ← match sp with
    | .pool => poolAtomic m n lanes fun l old => some (atomOp code n old (x l))
    | _ => tenantAtomic m code n lanes (fun l => [x l]) fun l old => some (atomOp code n old (x l))
  writeOld c d.toNat regs n olds
  issueMem f .atomic lanes.isEmpty

/-- ATOMC (R274): new value, compare value, old value out. -/
def atomcWord (f : BitVec 1) (z : BitVec 2) (d o : BitVec 7) (b : BitVec 5) : M Unit := do
  let (c, m) ← memCtx .atomic .tenant false false false 0
  let k := 2 ^ z.toNat
  let n := 4 * k
  let lanes := laneAddrs c b o 0
  atomPure lanes
  checkRegs (rangeFrom d.toNat (3 * k) ++ [o.toNat]) (laneSources lanes (rangeFrom d.toNat (2 * k) ++ [o.toNat]))
  let new (l : Nat) : Nat := ofLe (laneBytes c.g d.toNat k l)
  let cmp (l : Nat) : Nat := ofLe (laneBytes c.g (d.toNat + k) k l)
  let olds ← tenantAtomic m 16 n lanes (fun l => [cmp l, new l]) fun l old => if old = cmp l then some (new l) else none
  writeOld c (d.toNat + 2 * k) k n olds
  issueMem f .atomic lanes.isEmpty

def execAtomc (f : BitVec 1) (z : BitVec 2) (d o : BitVec 7) (b : BitVec 5) (s : State) : Out :=
  .next (runWord ⟨4, true⟩ (atomcWord f z d o b) s)

def execAtomAdd (f w : BitVec 1) (d o : BitVec 7) (b : BitVec 5) (s : State) : Out :=
  .next (runWord ⟨4, true⟩ (atomWord .tenant 0 f w d o b) s)

def execAtomExch (f w : BitVec 1) (d o : BitVec 7) (b : BitVec 5) (s : State) : Out :=
  .next (runWord ⟨4, true⟩ (atomWord .tenant 1 f w d o b) s)

def execAtomAnd (f w : BitVec 1) (d o : BitVec 7) (b : BitVec 5) (s : State) : Out :=
  .next (runWord ⟨4, true⟩ (atomWord .tenant 2 f w d o b) s)

def execAtomOr (f w : BitVec 1) (d o : BitVec 7) (b : BitVec 5) (s : State) : Out :=
  .next (runWord ⟨4, true⟩ (atomWord .tenant 3 f w d o b) s)

def execAtomXor (f w : BitVec 1) (d o : BitVec 7) (b : BitVec 5) (s : State) : Out :=
  .next (runWord ⟨4, true⟩ (atomWord .tenant 4 f w d o b) s)

def execAtomMin (f w : BitVec 1) (d o : BitVec 7) (b : BitVec 5) (s : State) : Out :=
  .next (runWord ⟨4, true⟩ (atomWord .tenant 5 f w d o b) s)

def execAtomMax (f w : BitVec 1) (d o : BitVec 7) (b : BitVec 5) (s : State) : Out :=
  .next (runWord ⟨4, true⟩ (atomWord .tenant 6 f w d o b) s)

def execAtomMinU (f w : BitVec 1) (d o : BitVec 7) (b : BitVec 5) (s : State) : Out :=
  .next (runWord ⟨4, true⟩ (atomWord .tenant 7 f w d o b) s)

def execAtomMaxU (f w : BitVec 1) (d o : BitVec 7) (b : BitVec 5) (s : State) : Out :=
  .next (runWord ⟨4, true⟩ (atomWord .tenant 8 f w d o b) s)

def execAtomFadd (f : BitVec 1) (d o : BitVec 7) (b : BitVec 5) (s : State) : Out :=
  .next (runWord ⟨4, true⟩ (atomWord .tenant 9 f 0 d o b) s)

def execAtompAdd (f w : BitVec 1) (d o : BitVec 7) (b : BitVec 5) (s : State) : Out :=
  .next (runWord ⟨4, true⟩ (atomWord .pool 0 f w d o b) s)

def execAtompExch (f w : BitVec 1) (d o : BitVec 7) (b : BitVec 5) (s : State) : Out :=
  .next (runWord ⟨4, true⟩ (atomWord .pool 1 f w d o b) s)

def execAtompAnd (f w : BitVec 1) (d o : BitVec 7) (b : BitVec 5) (s : State) : Out :=
  .next (runWord ⟨4, true⟩ (atomWord .pool 2 f w d o b) s)

def execAtompOr (f w : BitVec 1) (d o : BitVec 7) (b : BitVec 5) (s : State) : Out :=
  .next (runWord ⟨4, true⟩ (atomWord .pool 3 f w d o b) s)

def execAtompXor (f w : BitVec 1) (d o : BitVec 7) (b : BitVec 5) (s : State) : Out :=
  .next (runWord ⟨4, true⟩ (atomWord .pool 4 f w d o b) s)

def execAtompMin (f w : BitVec 1) (d o : BitVec 7) (b : BitVec 5) (s : State) : Out :=
  .next (runWord ⟨4, true⟩ (atomWord .pool 5 f w d o b) s)

def execAtompMax (f w : BitVec 1) (d o : BitVec 7) (b : BitVec 5) (s : State) : Out :=
  .next (runWord ⟨4, true⟩ (atomWord .pool 6 f w d o b) s)

def execAtompMinU (f w : BitVec 1) (d o : BitVec 7) (b : BitVec 5) (s : State) : Out :=
  .next (runWord ⟨4, true⟩ (atomWord .pool 7 f w d o b) s)

def execAtompMaxU (f w : BitVec 1) (d o : BitVec 7) (b : BitVec 5) (s : State) : Out :=
  .next (runWord ⟨4, true⟩ (atomWord .pool 8 f w d o b) s)

def execAtompFadd (f : BitVec 1) (d o : BitVec 7) (b : BitVec 5) (s : State) : Out :=
  .next (runWord ⟨4, true⟩ (atomWord .pool 9 f 0 d o b) s)

end Sys2Proof.Machine
end

