-- ==== Sys2Proof/Machine/Control.lean ====
section
/-!
DEFINITION. The control words (R231 to R240): transfers, calls, SPLIT, JOIN and EXIT (R178 to R180), traps, ERET,
YIELD and NOP.
-/

namespace Sys2Proof.Machine

/-! ## Transfers -/

/-- The clause of the current word; an empty one where the party is in none. -/
def State.curClause (s : State) : Clause :=
  s.curParty.clause.getD { addr := s.curParty.pc, hdr := 0, words := [], idx := 0, pre := none, mode := s.curGroup.mode }

/-- A: the address of the current word. -/
def State.wordAddr (s : State) : DWord := s.curClause.wordAddr

/-- A + 4 × sext(offset) (R231). -/
def State.relTarget (s : State) (o : BitVec 21) : DWord := s.wordAddr + (o.signExtend 64 <<< 2)
def State.splitTarget (s : State) (o : BitVec 17) : DWord := s.wordAddr + (o.signExtend 64 <<< 2)

/-- go(t) of R233: the target is checked as R232 gives. -/
def goTo (t : DWord) : M (Option DWord) := do
  let s ← get
  if s.targetOk s.cur.ctx t then pure (some t) else illegal

/-- A conditional transfer. -/
def goWhen (c : Bool) (o : BitVec 21) : M (Option DWord) := do
  if c then goTo ((← get).relTarget o) else pure none

/-- The value of a scalar register. -/
def sreg (n : Nat) : M DWord := do return (← curGroup).readS n

def execBra (o : BitVec 21) (s : State) : Out := .next (runTransfer (goWhen true o) s)

def execBrc (n : BitVec 4) (o : BitVec 21) (s : State) : Out :=
  .next (runTransfer (do goWhen ((← sreg n.toNat) != 0) o) s)

/-- BRM's value: m0 of the party, or m(N) within it. -/
def brmValue (n : BitVec 3) : M DWord := do
  let g ← curGroup
  let who ← curFrag
  pure (if n = 0 then g.mask who else g.readM who n.toNat &&& g.mask who)

def execBrmAny (n : BitVec 3) (o : BitVec 21) (s : State) : Out :=
  .next (runTransfer (do goWhen ((← brmValue n) != 0) o) s)

def execBrmNone (n : BitVec 3) (o : BitVec 21) (s : State) : Out :=
  .next (runTransfer (do goWhen ((← brmValue n) == 0) o) s)

def execJmpi (n : BitVec 4) (s : State) : Out := .next (runTransfer (do goTo (← sreg n.toNat)) s)

/-- Calls write s31 once the target has passed its check (R233, R234). -/
def callTo (t : DWord) : M (Option DWord) := do
  let r ← goTo t
  modify fun s => s.writeS 31 (s.wordAddr + 4)
  pure r

def execCall (o : BitVec 21) (s : State) : Out := .next (runTransfer (callTo (s.relTarget o)) s)

def execCalli (n : BitVec 4) (s : State) : Out := .next (runTransfer (do callTo (← sreg n.toNat)) s)

def execRet (s : State) : Out := .next (runTransfer (do goTo (← sreg 31)) s)

/-- LOOP: no write when the target fails its check. -/
def loopWord (n : BitVec 4) (o : BitVec 21) : M (Option DWord) := do
  let v := (← sreg n.toNat) - 1
  let r ← goWhen (v != 0) o
  modify fun s => s.writeS n.toNat v
  pure r

def execLoop (n : BitVec 4) (o : BitVec 21) (s : State) : Out := .next (runTransfer (loopWord n o) s)

/-! ## SPLIT (R178, R236) -/

def Group.setToken (g : Group) (t : Nat) (live : Bool) : Group :=
  { g with tokens := if live then g.tokens ||| BitVec.ofNat 32 (2 ^ (2 * t))
                     else g.tokens &&& ~~~ (BitVec.ofNat 32 (3 * 2 ^ (2 * t))) }

/-- The lowest free fragment entry. -/
def Group.freeFrag (g : Group) : Option Nat := firstBelow 8 fun e => !(g.fragAt e).v

/-- A new fragment: minor side of a split. -/
def State.newFrag (s : State) (e : Nat) (t : BitVec 4) (mask pc : DWord) : State :=
  s.mapCur fun g =>
    { g with
      frags := g.frags.set e
        { v := true, mask := mask, token := t, j := false, party := { Party.start pc with ready := s.clock.toNat } } }

/-- The word offset of an address in the code section (Tables 02-9, 06-7). -/
def State.wordOffset (s : State) (a : DWord) : Nat := woff (s.codeStart s.cur.ctx) a

def State.offsetAddr (s : State) (w : Nat) : DWord := s.codeStart s.cur.ctx + BitVec.ofNat 64 (4 * w)

/-- SPLIT (R178, R180, R236). DEPTH is "nesting depth within the owner" without a base: the outermost record's is 0 (DESIGN
CHOICE, log 150). -/
def splitWord (t c : BitVec 4) (o : BitVec 17) : M (Option DWord) := do
  let s ← get
  let g := s.curGroup
  let target := s.splitTarget o
  let fall := s.wordAddr + 4
  let _ ← goTo target
  if g.tokenLive t.toNat then trapWord cTokenReuse
  let own ← curMask
  let cond := g.readM s.cur.frag c.toNat
  let taken := own &&& cond
  let other := own &&& ~~~ cond
  writeSerial { token := t.toNat, pmask := 0, ppc := 0, jpc := 0, v := false, ph := false, owner := 0, depth := 0 }
  let outer ← ownSerials
  mapCur fun g => g.setToken t.toNat true
  if taken = 0 then pure none
  else if other = 0 then pure (some target)
  else
    match g.freeFrag with
    | some e =>
      if popcount 64 taken.toNat ≤ popcount 64 other.toNat then
        modify fun s => (s.newFrag e t taken target).mapCur fun g => g.setMask s.cur.frag other
        pure none
      else
        modify fun s => (s.newFrag e t other fall).mapCur fun g => g.setMask s.cur.frag taken
        pure (some target)
    | none =>
      writeSerial
        { token := t.toNat, pmask := other, ppc := s.wordOffset fall, jpc := 0, v := true, ph := false,
          owner := ownerCode s.cur.frag, depth := (outer.map fun r => r.depth + 1).foldl max 0 }
      mapCur fun g => g.setMask s.cur.frag taken
      pure (some target)

def execSplit (t : BitVec 4) (c : BitVec 4) (o : BitVec 17) (s : State) : Out :=
  .next (runTransfer (splitWord t c o) s)

/-! ## JOIN (R179, Table 06-8) -/

/-- When the main side has exited and every live party is a fragment with J = 1, each goes on after its JOIN and
the tokens they carry are freed (R179). -/
def State.releaseJoined (s : State) (ctx grp : Nat) : State :=
  let g := s.groupAt ctx grp
  let live := (upTo 8).filter fun e => (g.fragAt e).v
  if !g.live none && !live.isEmpty && live.all (fun e => (g.fragAt e).j) then
    s.mapGroup ctx grp fun g =>
      { (live.foldl (fun g e => g.setToken (g.fragAt e).token.toNat false) g) with
        frags := g.frags.map fun f => if f.v then { f with j := false, party := s.readyParty f.party } else f }
  else s

/-- JOIN inside a serial split of the issuing party. -/
def joinSerial (r : SerialRec) : M (Option DWord) := do
  let s ← get
  let own ← curMask
  if !r.ph then
    writeSerial { r with jpc := s.wordOffset (s.curClause.nextHeader), pmask := own, ph := true }
    mapCur fun g => g.setMask s.cur.frag r.pmask
    pure (some (s.offsetAddr r.ppc))
  else
    writeSerial { r with v := false }
    mapCur fun g => (g.setMask s.cur.frag (own ||| r.pmask)).setToken r.token false
    pure none

/-- JOIN by a party other than the token's fragments: a token that is not live has no effect; inside a serial
split Table 06-8 holds; otherwise the party is the continuing side and waits for JOIN_MERGE. -/
def joinWord (t : BitVec 4) : M (Option DWord) := do
  let s ← get
  let g := s.curGroup
  if !g.tokenLive t.toNat then pure none
  else
    let rs ← ownSerials
    match rs.find? fun r => r.token == t.toNat with
    | some r => joinSerial r
    | none =>
      if s.cur.frag.isNone then mapCur fun g => { g with tokens := g.tokens ||| BitVec.ofNat 32 (2 ^ (2 * t.toNat + 1)) }
      throw (.wait (.join t.toNat))

/-- A fragment reaches its own JOIN: J := 1, and it stops after the JOIN. -/
def State.stopJoined (s : State) (e : Nat) : State :=
  let next := s.curClause.nextHeader
  let s := (s.charge ⟨0, false⟩).stampIssue
  let s := s.mapCur fun g =>
    { g with
      frags := modifyAt g.frags e fun f =>
        { f with j := true, party := { f.party with pc := next, clause := none, wait := .joined, active := false } } }
  (s.boundary s.cur).releaseJoined s.cur.ctx s.cur.grp

/-- Whether the issuing party is the fragment that a token detached. One that keeps a freed token after R179's release
counts as one too, also inside its own serial split of that token: R179's J := 1 goes before Table 06-8 (DESIGN CHOICE,
log 128). -/
def State.ownJoin (s : State) (t : BitVec 4) : Option Nat :=
  match s.cur.frag with
  | some e => if s.curGroup.tokenLive t.toNat && (s.curGroup.fragAt e).token == t then some e else none
  | none => none

def execJoin (t : BitVec 4) (s : State) : Out :=
  .next (match s.ownJoin t with
    | some e => s.stopJoined e
    | none => runTransfer (joinWord t) s)

/-- Whether a waiting party's JOIN can complete: no fragment with its token still runs (R179). One that stopped for its
team's save executes its JOIN again (R181). -/
def State.joinReady (s : State) (p : PartyRef) : Option Nat :=
  match (s.partyOf p).wait with
  | .join t => if !(s.partyOf p).stopped && (s.groupAt p.ctx p.grp).frags.all (fun f => !(f.v && f.token.toNat == t && !f.j)) then some t else none
  | _ => none

/-- The merge of R179: the waiting side takes back the lanes of its token's fragments and goes on. -/
def State.joinMerge (s : State) (p : PartyRef) (t : Nat) : State :=
  let g := s.groupAt p.ctx p.grp
  let mine := (upTo 8).filter fun e => (g.fragAt e).v && (g.fragAt e).token.toNat == t && (g.fragAt e).j
  let back := mine.foldl (fun m e => m ||| (g.fragAt e).mask) (g.mask p.frag)
  let s := s.mapGroup p.ctx p.grp fun g =>
    (({ g with frags := mine.foldl (fun l e => modifyAt l e fun _ => Frag.empty) g.frags }.setMask p.frag back).setToken t false)
  match (s.partyOf p).clause with
  | some c => s.endClause p c.nextHeader
  | none => s.mapPartyOf p fun pt => { pt with wait := .none }

def execJoinMerge (p : PartyRef) (s : State) : Out :=
  .next (match s.joinReady p with
    | some t => s.joinMerge p t
    | none => s)

/-! ## EXIT (R179, R237, Table 06-8) -/

/-- EXIT inside serial splits, innermost first: where the party goes on, or none when it retires. -/
def exitSerial : List SerialRec → M (Option DWord)
  | [] => pure none
  | r :: rest => do
    let s ← get
    if !r.ph then
      writeSerial { r with pmask := 0, ph := true }
      mapCur fun g => g.setMask s.cur.frag r.pmask
      pure (some (s.offsetAddr r.ppc))
    else
      writeSerial { r with v := false }
      mapCur fun g => g.setToken r.token false
      if r.pmask != 0 then
        mapCur fun g => g.setMask s.cur.frag r.pmask
        pure (some (s.offsetAddr r.jpc))
      else exitSerial rest

/-- Take the first of a group's pending deferred traps that `p` chooses (R305). One that would hold behind another
party's handler stays pending (R361). -/
def raiseDeferred (p : Deferred → Bool) : M Unit := do
  let g ← curGroup
  match g.deferred.find? p with
  | some d =>
    let held := g.trap.hb && g.trap.owner != (← curFrag)
    if !held then mapCur fun g => { g with deferred := g.deferred.filter fun x => x != d }
    throw (.trap d.cause d.detail 0 0)
  | none => pure ()

/-- EXIT: a deferred trap still pending when the group would end is raised first (R305). -/
def exitWord : M (Option DWord) := do
  let s ← get
  let rs ← ownSerials
  if rs.all (fun r => r.ph && r.pmask == 0) && (s.curGroup.parties.filter fun w => w != s.cur.frag).isEmpty then raiseDeferred fun _ => true
  exitSerial (sortBy (fun a b => decide (b.depth ≤ a.depth)) rs)

def execExit (s : State) : Out :=
  .next (match exitWord s with
    | .ok (some a) t => ((t.charge ⟨0, false⟩).stampIssue).endClause s.cur a
    | .ok none t => (((t.charge ⟨0, false⟩).stampIssue).retireParty s.cur).releaseJoined s.cur.ctx s.cur.grp
    | .error (.hold h) _ => s.waitCur (.hold h)
    | .error st t => t.stopWord ⟨0, false⟩ s.trapRet st)

/-! ## Traps and hints (R238 to R240) -/

/-- TRAP's and BKPT's return point: the word after, or the next header. -/
def execTrap (c : BitVec 8) (s : State) : Out :=
  .next (s.stopWord ⟨0, false⟩ (s.wordAddr + 4) (.trap cSoftwareTrap (c.setWidth 32) 0 0))

def execBkpt (s : State) : Out :=
  .next (s.stopWord ⟨0, false⟩ (s.wordAddr + 4) (.trap cBreakpoint 0 0 0))

/-- The issuing party runs the group's handler (R361). -/
def State.inHandler (s : State) : Bool := s.curGroup.trap.hb && s.curGroup.trap.owner == s.cur.frag

/-- The words of a trapping clause whose header failed its checks are fetched when the return point names one of them
(R239); a page of them is verified first (R159). -/
def fetchTrapped : M Unit := do
  let s ← get
  match s.curGroup.trap.clause with
  | none => pure ()
  | some c =>
    let k := (s.curGroup.trap.words.getD 2 0 - c.addr).toNat / 4
    if c.words.isEmpty && decide (0 < k) && decide (k ≤ hdrCount c.hdr) then
      let ws ← (upTo (hdrCount c.hdr)).mapM fun i => do
        let a := c.addr + BitVec.ofNat 64 (4 * (i + 1))
        if !s.targetOk s.cur.ctx a then pure 0
        else if !s.codeKnown s.cur.ctx a then throw (.wait (.code ((a - s.codeStart s.cur.ctx).toNat / 65536)))
        else return (← fetchWords s.cur.ctx a 1).headD 0
      mapCur fun g => { g with trap := { g.trap with clause := some { c with words := ws } } }

/-- ERET's checks, and the mask that R245 gives the recorded one. -/
def eretMask : M DWord := do
  let s ← get
  if !s.inHandler then illegal
  if !s.targetOk s.cur.ctx (s.curGroup.trap.words.getD 2 0) then illegal
  fetchTrapped
  ownMask (s.curGroup.trap.words.getD 3 0)

def execEret (s : State) : Out :=
  .next (match eretMask s with
    | .ok m t => ((t.charge ⟨0, false⟩).stampIssue).eret m
    | .error (.hold h) _ => s.waitCur (.hold h)
    | .error st t => t.stopWord ⟨0, false⟩ s.trapRet st)

def execYield (s : State) : Out := .next (runWord ⟨0, false⟩ (modify fun s => s.yieldSlot s.cur) s)

def execNop (s : State) : Out := .next (runWord ⟨0, false⟩ (pure ()) s)

end Sys2Proof.Machine
end

