-- ==== Sys2Proof/Machine/PoolWords.lean ====
section
/-!
DEFINITION. The pool words (R279 to R283), and the events of the allocator and the Tender: grants, the stall
limit, deadlock (R51 to R53), granules passing to the L1 (R54), PSHARE's move (R282), operand fills (R63, R64).
-/

namespace Sys2Proof.Machine

/-- R283: PGROW, BARWAIT and CHKW must be the first word of their clause. -/
def firstWord : M Unit := do
  if (← get).curClause.idx != 1 then trapWord cIllegalClause

/-- Field d of a Form S word. -/
def fieldD (w : Word) : Nat := (w.extractLsb' 16 5).toNat

/-! ## Granules that PSHRINK took out (R54) -/

/-- Operations that may still touch a granule that left the window; a collective writes its descriptor's STATUS. -/
def OpKind.touchesPool : OpKind → Bool
  | .load | .store .. | .atomic | .copy _ | .ldw .. | .hvld .. | .hvst .. | .hvnear .. | .emit .. | .csend .. | .crecv .. => true
  | _ => false

/-- Whether everything that the team issued before a granule left has completed. -/
def State.passReady (s : State) (t : Team) (e : Leaving) : Bool :=
  !(s.ops.any fun o => o.ctx == t.ctx && decide (o.id < e.left) && o.kind.touchesPool) &&
    !(s.groups.any fun g => g.ctx == t.ctx && g.sq.any fun q => q.pool && decide (q.op < e.left))

/-- The granules of a team that may pass to the L1 do so together. -/
def State.passTeam (s : State) (ctx : Nat) : State :=
  let t := s.teamAt ctx
  let go := t.leaving.filter (s.passReady t)
  (go.foldl (fun s e => s.dropEntry t.core e.phys) s).mapTeam ctx fun t =>
    { t with leaving := t.leaving.filter fun e => !go.contains e }

def execGranulePassToL1 (core granule : Nat) (s : State) : Out :=
  .next (match s.teams.find? fun t => t.core == core && t.leaving.any fun e => e.phys == granule && s.passReady t e with
    | some t => s.passTeam t.ctx
    | none => s)

/-- Every granule of a core that may pass to the L1 passes. -/
def State.passAll (s : State) (core : Nat) : State :=
  (s.teams.filter fun t => t.core == core).foldl (fun s t => s.passTeam t.ctx) s

/-- The requests of a list that the allocator grants one after the other, as it stands. -/
def State.served : List (PartyRef × Nat) → State → List PartyRef
  | [], _ => []
  | (p, n) :: rest, s =>
    match s.grow p.ctx n with
    | (true, s) => p :: State.served rest s
    | (false, _) => []

/-! ## PGROW and PSHRINK (R50 to R54, R280) -/

/-- Whether a team may ask for `n` more granules at all (R52). -/
def State.growLimit (s : State) (ctx n : Nat) : Bool :=
  decide (n ≤ 240) && decide ((s.teamAt ctx).sharedCount + n ≤ (s.launchOf ctx).shMax)

def exhausted (n : Nat) : Stop := .fault (plainFault cPoolExhausted (BitVec.ofNat 32 n))

/-- PGROW (R50 to R52, R280): what may pass to the L1 passes first (R54). A request that cannot be granted at once, the
stalled ones before it included, faults where the stall limit is 0, else waits. -/
def pgrowWord (d : BitVec 5) (n : Nat) : M Unit := do
  firstWord
  let s ← get
  let ctx := s.cur.ctx
  if n = 0 then modify fun s => s.writeS d.toNat (BitVec.ofNat 64 (s.teamAt ctx).granted)
  else
    if !s.growLimit ctx n then throw (exhausted n)
    let core := s.coreOf ctx
    let s := s.passAll core
    let (ok, s) := if (s.stalled core).isEmpty then s.grow ctx n else (false, s)
    set s
    if ok then modify fun s => s.writeS d.toNat (BitVec.ofNat 64 (s.teamAt ctx).granted)
    else
      if (s.launchOf ctx).stall = 0 ∧ s.cur ∉ State.served (s.stalled core ++ [(s.cur, n)]) s then throw (exhausted n)
      modify fun s => { s with stamp := s.stamp + 1 }
      throw (.wait (.pgrow n s.stamp s.us))

def execPgrow (i : BitVec 1) (d : BitVec 5) (b : BitVec 8) (s : State) : Out :=
  .next (runWord ⟨4, false⟩ (pgrowWord d (s.srcB .z i b).toNat) s)

/-- While the Tender moves a run of the team for PSHARE, a PSHRINK holds (DESIGN CHOICE, log 136). -/
def execPshrink (i : BitVec 1) (d : BitVec 5) (b : BitVec 8) (s : State) : Out :=
  .next (runWord ⟨4, false⟩ (do
    if (← get).moving s.cur.ctx then throw (.hold .moving)
    modify fun s =>
      let s := s.shrink s.cur.ctx (s.srcB .z i b).toNat
      s.writeS d.toNat (BitVec.ofNat 64 (s.teamAt s.cur.ctx).granted)) s)

/-! ## Grants, the stall limit and deadlock (R51 to R53) -/

/-- The oldest stalled request of a core, when it can be granted now. -/
def State.grantReady (s : State) (core : Nat) : Option (PartyRef × Nat) :=
  match s.stalled core with
  | (p, n) :: _ => if n ≤ s.grantable core then some (p, n) else none
  | [] => none

/-- The end of a word for which its party waited: its result, and the next word. It has issued and charged when its
party began to wait. -/
def State.finishWait (s : State) (p : PartyRef) (f : State → State) : State :=
  s.withCur p fun s => ((f s).mapCurParty fun pt => s.readyParty pt).advance

/-- A waiting word looks again: it passes, goes on waiting, or stops as it does when it issues. -/
def State.lookAgain (s : State) (p : PartyRef) (look : M Bool) : State :=
  match look { s with cur := p } with
  | .ok true x => ({ x with cur := s.cur }).finishWait p id
  | .ok false x => { x with cur := s.cur }
  | .error st x => ({ x with cur := s.cur }).withCur p fun s => (s.mapCurParty s.readyParty).endWord s.trapRet st

/-- A grant (R51): PGROW completes with the granted size. -/
def execPoolGrant (core : Nat) (s : State) : Out :=
  .next (match s.grantReady core with
    | some (p, n) =>
      match s.grow p.ctx n with
      | (true, s) =>
        s.finishWait p fun s => s.writeS (fieldD s.curClause.curWord) (BitVec.ofNat 64 (s.teamAt p.ctx).granted)
      | (false, s) => s
    | none => s)

/-- The stalled requests of a core that can be granted now, with what passes to the L1 at once. -/
def State.grantable? (s : State) (core : Nat) : List PartyRef := State.served (s.stalled core) (s.passAll core)

/-- A stall limit has passed: the tick that reached it has come, and its cycle is over, so that a grant that becomes
possible in that cycle wins (Tables 02-5, 17-12). -/
def State.limitPast (s : State) (since limit : Nat) : Bool :=
  decide (since + limit < s.us) || (since + limit == s.us && s.tickAt != s.clock)

/-- A stalled request whose limit has passed (R52). A grant that is possible wins. -/
def State.stallOver (s : State) (p : PartyRef) : Option Nat :=
  match (s.partyOf p).wait with
  | .pgrow n _ since =>
    let limit := (s.launchOf p.ctx).stall
    if limit != 0xFFFFFFFF && s.limitPast since limit && !(s.partyOf p).stopped &&
        !((s.grantable? (s.coreOf p.ctx)).contains p) then some n else none
  | _ => none

def execPoolStallLimit (p : PartyRef) (s : State) : Out :=
  .next (match s.stallOver p with
    | some n => s.faultParty p (plainFault cPoolExhausted (BitVec.ofNat 32 n))
    | none => s)

/-- A team is pool-blocked (R53). The rule speaks of groups: of one with fragments every live party is asked, so that a
party stopped at its JOIN keeps its team from being blocked, and one that waits in BARWAIT does not (DESIGN CHOICE, log
144). -/
def State.poolBlocked (s : State) (t : Team) : Bool :=
  let ps := s.allParties.filter fun p => p.ctx == t.ctx
  let waits := ps.map fun p => ((s.partyOf p).wait, (s.partyOf p).stopped)
  t.refill.isNone &&
    (waits.any fun w => match w with | (.pgrow .., false) => true | _ => false) &&
    waits.all fun w => match w with
      | (.pgrow .., false) | (.barwait true _ _ false _, false) => true
      | _ => false

/-- The team that POOL_DEADLOCK selects: the latest admitted, when every resident team of the core is blocked and no
request can be granted. -/
def State.deadlocked (s : State) (core : Nat) : Option Nat :=
  let ts := s.residentOn core
  if !ts.isEmpty && ts.all s.poolBlocked && (s.grantable? core).isEmpty then (mostBy (fun t : Team => t.admitted * 65536 + t.ctx) ts).map (·.ctx) else none

def execPoolDeadlock (core : Nat) (s : State) : Out :=
  .next (match s.deadlocked core with
    | some ctx =>
      ((s.stalled core).filter fun x => x.1.ctx == ctx).foldl (fun s x =>
        if s.hasGroup ctx x.1.grp then s.faultParty x.1 (plainFault cPoolDeadlock (BitVec.ofNat 32 x.2)) else s) s
    | none => s)

/-! ## PQUERY (Table 11-6) -/

def State.pquery (s : State) (x : Nat) : Nat :=
  let t := s.teamAt s.cur.ctx
  match x with
  | 0 => t.granted
  | 1 => 4096 * s.maxWindow t
  | 2 => 4096 * t.sharedAt
  | 3 => 4096 * t.sharedCount
  | 4 => 4096 * t.stagingAt
  | 5 => 4096 * (t.sharedAt - t.stagingAt)
  | 6 => (s.l1Granules t.core).length
  | _ => s.grantable t.core

def execPquery (d : BitVec 5) (x : BitVec 8) (s : State) : Out :=
  .next (runWord ⟨4, false⟩ (do
    if 6 ≤ x.toNat then impure
    modify fun s => s.writeS d.toNat (BitVec.ofNat 64 (s.pquery x.toNat))) s)

/-! ## PSHARE (R68, R282) -/

/-- The whole cluster-shared run that holds a window granule. -/
def Team.sharedRun (t : Team) (wg : Nat) : List Nat :=
  let down := ((rangeFrom 0 (wg + 1)).reverse.takeWhile t.shared.contains).reverse
  let up := (rangeFrom (wg + 1) t.granules.length).takeWhile t.shared.contains
  down ++ up

/-- A run that stands already in consecutive physical granules. -/
def Team.inPlace (t : Team) (wg n : Nat) : Option Nat :=
  match t.physRun wg n with
  | some ps => if consecutive ps then ps.head? else none
  | none => none

/-- Mark a run that stands in place, and answer its cluster pool address. -/
def State.share (s : State) (ctx wg n base : Nat) : DWord × State :=
  (clusterAddr (s.coreOf ctx) base, s.markShared ctx wg n true)

/-- Where a run that stands in place begins, and else whether it may be moved: no granule of it is shared already (R69),
and the pool has a run for it. -/
def State.canMove (s : State) (t : Team) (wg n : Nat) : Bool :=
  !((rangeFrom wg n).any t.shared.contains) && (s.freeRun t.core n ((t.physRun wg n).getD [])).isSome

/-- PSHARE with n = 0: the run that holds the offset is shared no longer; where it is not shared, nothing changes. -/
def State.unshare (s : State) (ctx d wg : Nat) : State :=
  let t := s.teamAt ctx
  if t.shared.contains wg then
    let run := t.sharedRun wg
    (s.markShared ctx (run.headD 0) run.length false).writeS d 0
  else s

/-- PSHARE of a run in place, at once. One that the Tender has to move waits for the move. With n = 0 an a that is no
multiple of 4,096 raises nothing (R282; DESIGN CHOICE, log 134). -/
def pshareWord (d : BitVec 5) (a : DWord) (n : Nat) : M Unit := do
  let s ← get
  let ctx := s.cur.ctx
  let t := s.teamAt ctx
  let wg := a.toNat / 4096
  if n = 0 then modify fun s => s.unshare ctx d.toNat wg
  else
    if a.toNat % 4096 != 0 then trapWord cMisaligned 4096
    if 240 < n ∨ !t.inData a.toNat (4096 * n) then throw (.fault (addrFault cProtection a 0x02))
    match t.inPlace wg n with
    | some base =>
      modify fun s =>
        let (v, s) := s.share ctx wg n base
        s.writeS d.toNat v
    | none =>
      if s.canMove t wg n then throw (.wait (.pshare d.toNat a.toNat n))
      modify fun s => s.writeS d.toNat (BitVec.allOnes 64)

def execPshare (i : BitVec 1) (d : BitVec 5) (a b : BitVec 8) (s : State) : Out :=
  .next (runWord ⟨4, false⟩ (pshareWord d (s.selS a) (s.srcB .z i b).toNat) s)

/-- The Tender's move of a run (R68): its address, or all ones where it has left the window or no run is free any
longer. -/
def State.shareMove (s : State) (ctx wg n : Nat) : DWord × State :=
  let t := s.teamAt ctx
  if !t.inData (4096 * wg) (4096 * n) then (BitVec.allOnes 64, s)
  else
    match t.inPlace wg n with
    | some base => s.share ctx wg n base
    | none =>
      match (if s.canMove t wg n then s.freeRun t.core n ((t.physRun wg n).getD []) else none) with
      | some base => match s.moveRun ctx wg n base with
        | (true, s) => s.share ctx wg n base
        | (false, s) => (BitVec.allOnes 64, s)
      | none => (BitVec.allOnes 64, s)

/-- The move ends, PSHARE completes, and pool words of the team's other groups go on. -/
def State.pshareEnd (s : State) (p : PartyRef) (d wg n : Nat) : State :=
  let (v, s) := s.shareMove p.ctx wg n
  (s.finishWait p fun s => s.writeS d v).unhold p.ctx

def execPshareMoveComplete (p : PartyRef) (s : State) : Out :=
  .next (match (s.partyOf p).wait with
    | .pshare d off n => s.pshareEnd p d (off / 4096) n
    | _ => s)

/-! ## Operand fills (R63, R64) -/

/-- The Tender fills a register that only the frame in memory holds, and the party is ready for its word again; or the
party parks or faults. -/
def execOperandFill (p : PartyRef) (reg : BitVec 7) (s : State) : Out :=
  .next (
    let g := s.groupAt p.ctx p.grp
    if s.hasGroup p.ctx p.grp && g.v.getD reg.toNat .zero == .inFrame then
      match fillReg g reg.toNat s with
      | .ok _ s => s.mapPartyOf p fun pt => { pt with ready := s.clock.toNat }
      | .error (.miss f) s => s.parkParty p f
      | .error (.fault f) s => s.faultParty p f
      | .error _ s => s
    else s)

end Sys2Proof.Machine
end

