-- ==== Sys2Proof/Machine/Barrier.lean ====
section
/-!
DEFINITION. Barriers (R284 to R286, R116): each barrier word is one 8-byte atomic at the home slice or the pool
bank.
-/

namespace Sys2Proof.Machine

/-! ## The barrier word (Table 11-7) -/

/-- BARARR on a barrier word (R285). -/
def arrive (w : Nat) : Nat :=
  let a := field w 16 16 + 1
  let keep := w / 2 ^ 48 * 2 ^ 48 + w % 2 ^ 16
  if field w 0 16 ≤ a then keep + (field w 32 16 + 1) % 2 ^ 16 * 2 ^ 32
  else keep + field w 32 16 * 2 ^ 32 + a * 2 ^ 16

/-- R284: a pool barrier names scope 1, a tenant barrier 1 to 5. -/
def barScope (p : BitVec 1) (c : BitVec 3) : M Unit :=
  if (p == 1 && c != 1) || c == 0 || decide (5 < c.toNat) then illegal else pure ()

/-- A release or acquire at a barrier's scope, strengthened under MM1 (Table 04-5). -/
def State.barLevel (s : State) (c : Nat) : Nat := if s.mm1 s.cur.ctx then max c 4 else c

/-- The accesses of a barrier word in tenant memory that a pure task may not make. -/
def barPure (writes : Bool) (a : DWord) : M Unit := do
  let s ← get
  let x := [(partyLane, a)]
  let bad := s.badTenant false 8 x ++ (if writes then s.badTenant true 8 x else [])
  pureLanes (bad.take 1)

/-- An atomic on a barrier word in tenant memory: R and W permission, 8 bytes, strong, with its code and operands for a
peer. One that returns nothing is posted: the peer acknowledges or rejects it later (R29). -/
def barTenant (posted release : Bool) (code scope : Nat) (ops : List Nat) (a : DWord) (f : Nat → Option Nat) : M Nat := do
  barPure posted a
  let p ← planLane (fun _ => Access.atomic) (!posted) true 8 (partyLane, a)
  strongChecks true 8 [p]
  let t := (p.parts.map (·.1)).headD { pa := 0, cl := 0, wp := 0, ev := 0, size := 4096 }
  if release then releaseWord scope
  let old ← atomicHome plainForm code 8 ops f a t
  if posted && decide (Config.aperBase ≤ t.pa) then
    modify fun s => s.addOp s.cur.ctx s.cur.grp none (if s.ctl.ven then .peerAtomic a else .refused a 0x0B) ({}, {})
  pure old

/-- A barrier word is no memory word (R221): its traps name no address (Table 16-2, log 26). -/
def noAddr {α : Type} (m : M α) : M α := fun s =>
  match m s with
  | .error (.trap c d _ l) s => .error (.trap c d 0 l) s
  | r => r

/-- An atomic on a barrier word in either space. -/
def barAtomic (posted release pool : Bool) (code c : Nat) (ops : List Nat) (a : DWord) (f : Nat → Option Nat) : M Nat := noAddr do
  let scope := (← get).barLevel c
  if pool then
    poolChecks true 8 0x0B [(partyLane, a)]
    if release then releaseWord scope
    modify fun s => s.drainQueue s.cur.ctx s.cur.grp none
    let old := ofLe (← readPool a.toNat 8)
    match f old with
    | some v => modify fun s => s.poolWrite s.cur.ctx a.toNat (leBytes 8 v)
    | none => pure ()
    pure old
  else barTenant posted release code scope ops a f

/-! ## The words -/

def barinitWord (d : BitVec 5) (a : BitVec 8) (p : BitVec 1) (c : BitVec 3) : M Unit := do
  barScope p c
  let s ← get
  let v := (s.curGroup.readS d.toNat).toNat % 2 ^ 16
  let _ ← barAtomic true true (p == 1) 1 c.toNat [v] (s.selS a) fun _ => some v

def execBarinit (d : BitVec 5) (a : BitVec 8) (p : BitVec 1) (c : BitVec 3) (s : State) : Out :=
  .next (runWord ⟨4, false⟩ (barinitWord d a p c) s)

def bararrWord (a : BitVec 8) (p : BitVec 1) (c : BitVec 3) : M Unit := do
  barScope p c
  let s ← get
  let _ ← barAtomic true true (p == 1) 16 c.toNat [] (s.selS a) fun w => some (arrive w)

def execBararr (a : BitVec 8) (p : BitVec 1) (c : BitVec 3) (s : State) : Out :=
  .next (runWord ⟨4, false⟩ (bararrWord a p c) s)

/-- Read a barrier word: its lag behind a target. A lag that is not negative acquires. -/
def barLag (pool : Bool) (c : Nat) (a : DWord) (t : BitVec 16) : M DWord := do
  let v := lag (← barAtomic false false pool 17 c [] a fun _ => none) t
  if !v.msb then modify fun s => s.acquireActions s.cur.ctx (s.barLevel c)
  pure v

def bartestWord (d : BitVec 5) (a : BitVec 8) (p : BitVec 1) (c : BitVec 3) : M Unit := do
  barScope p c
  let s ← get
  let v ← barLag (p == 1) c.toNat (s.selS a) ((s.curGroup.readS d.toNat).setWidth 16)
  modify fun s => s.writeS d.toNat v

def execBartest (d : BitVec 5) (a : BitVec 8) (p : BitVec 1) (c : BitVec 3) (s : State) : Out :=
  .next (runWord ⟨4, false⟩ (bartestWord d a p c) s)

/-- One look of BARWAIT at its word: whether it passes. -/
def barLook (pool : Bool) (c : Nat) (a : DWord) (t : BitVec 16) : M Bool := do
  return !(← barLag pool c a t).msb

/-- Where a barrier word in tenant memory now lies in local HBM. What a peer holds is not seen. -/
def State.barPlace (s : State) (ctx : Nat) (a : DWord) : Option Nat :=
  match translate (s.tfOf ctx) (s.coreOf ctx) (some ctx) a Access.atomic s with
  | .ok x _ => if x.pa < Config.hbmBytes then some x.pa else none
  | .error _ _ => none

/-- BARWAIT (R283, R286): a wait begins with the place of its word, so that it sees every later write there. -/
def barwaitWord (d : BitVec 5) (a : BitVec 8) (p : BitVec 1) (c : BitVec 3) : M Unit := do
  firstWord
  barScope p c
  let s ← get
  let t := (s.curGroup.readS d.toNat).setWidth 16
  if !(← barLook (p == 1) c.toNat (s.selS a) t) then
    let u ← get
    throw (.wait (.barwait (p == 1) (s.selS a) t false (if p = 1 then none else u.barPlace s.cur.ctx (s.selS a))))

def execBarwait (d : BitVec 5) (a : BitVec 8) (p : BitVec 1) (c : BitVec 3) (s : State) : Out :=
  .next (runWord ⟨4, false⟩ (barwaitWord d a p c) s)

/-- Waiting BARWAITs take the place of their words as it now is, so that they see every write there, and keep in mind
that a word now passes them (R286). -/
def State.noteBarriers (s : State) : State :=
  s.allParties.foldl (fun s p =>
    match (s.partyOf p).wait with
    | .barwait pool a t false _ =>
      let pa := if pool then none else s.barPlace p.ctx a
      let w : Wait := .barwait pool a t false pa
      s.mapPartyOf p fun pt => { pt with wait := w.see s.side.mem (s.teamAt p.ctx).pool fun _ _ => true }
    | _ => s) s

/-- The 8-byte strong access by which a wait saw the value that passed it, at a place in local HBM (R111, R286): it is
checked and recorded when the wait passes (DESIGN CHOICE, log 35). -/
def barMark (pa : Option Nat) : M Unit := do
  match pa with
  | none => pure ()
  | some k =>
    let s ← get
    if (s.launchOf s.cur.ctx).mixchk && s.mixed (strongUnits k 8 true) then trapWord cMixedSize
    set (s.strongUse k 8 true false none)

/-- A waiting BARWAIT observes its word (R286). -/
def barAgain (pool : Bool) (a : DWord) (t : BitVec 16) (met : Bool) (pa : Option Nat) : M Bool := do
  let s ← get
  let c := (s.curParty.word.extractLsb' 0 3).toNat
  if met then
    barMark pa
    modify fun s => s.acquireActions s.cur.ctx (s.barLevel c)
    pure true
  else barLook pool c a t

def execBarrierPass (p : PartyRef) (s : State) : Out :=
  .next (match (s.partyOf p).wait with
    | .barwait pool a t met pa => if (s.partyOf p).stopped then s else s.lookAgain p (barAgain pool a t met pa)
    | _ => s)

end Sys2Proof.Machine
end

