-- ==== Sys2Proof/Machine/Cache.lean ====
section
/-!
DEFINITION. Fences, prefetch and cache control (R275 to R278), the completion of memory words (R210), and the
events of the caches: timed write-back (R77), combining buffers (R78), victim replicas (R81 to R83), and a
peer's rejection (R29).
-/

namespace Sys2Proof.Machine

/-! ## FENCE (R107, R113, R276) -/

/-- FENCE waits for the group's flagless operations, and acts as the wait that sees them (R113); it takes their deferred
traps (R305), drains the group's combining buffers whatever its kind (R78), then acts. -/
def fenceWord (ord : BitVec 2) (sc : BitVec 3) : M Unit := do
  let s ← get
  if s.flagless s.cur.ctx s.cur.grp then throw (.hold .flagless)
  let scope := if s.mm1 s.cur.ctx then max sc.toNat 4 else sc.toNat
  if ord != 1 && decide (scope = 5) && s.awaitsPeers s.cur.ctx s.cur.grp then throw (.hold .peers)
  modify fun s => s.seeLanded s.cur.ctx s.cur.grp (· == flagKey none)
  raiseDeferred fun d => d.flag.isNone
  modify fun s => s.drainCombining s.cur.ctx s.cur.grp
  if ord != 1 then modify fun s => s.releaseActions s.cur.ctx s.cur.grp scope
  if ord != 2 then modify fun s => s.acquireActions s.cur.ctx scope

def execFence (o : BitVec 2) (sc : BitVec 3) (s : State) : Out := .next (runWord ⟨4, false⟩ (fenceWord o sc) s)

/-! ## PREF (R28, R277) -/

/-- One lane's prefetch: dropped where its translation would fault or park, under CL = 0b11, where the peer or the
fabric refuses the line, and in the service window; else the L1 takes the line of a page with CL = 0, or its home slice does. -/
def State.prefLane (s : State) (l1 nt : Bool) (va : DWord) : State :=
  let core := s.coreOf s.cur.ctx
  match translate (s.tfOf s.cur.ctx) core (some s.cur.ctx) va Access.hint s with
  | .ok t s' =>
    let prio := if nt then 0 else t.ev.toNat
    if inSvc t.pa || t.cl == 3 then s
    else
    let (ok, s') := s'.peerAnswers t.pa
    if !ok then { s with free := s'.free }
    else if l1 && t.cl == 0 then
      (upTo 8).foldl (fun s i => (s.l1Fill core (8 * lineOf t.pa + i) (s.tf (s.tfOf s.cur.ctx)).vr prio false).2) s'
    else s'.l2Use (256 * lineOf t.pa) 256 false (allocOf t.cl prio)
  | .error _ _ => s

def prefWord (l1 : Bool) (f : BitVec 1) (o : BitVec 7) (b : BitVec 5) (k : BitVec 2) (nt : BitVec 1) : M Unit := do
  let c ← vctx
  checkRegs [o.toNat] [o.toNat]
  let lanes := laneAddrs c b o k.toNat
  modify fun s => lanes.foldl (fun s x => s.prefLane l1 (nt == 1) x.2) s
  issueOp f .cacheHint

def execPrefL1 (f : BitVec 1) (o : BitVec 7) (b : BitVec 5) (k : BitVec 2) (nt : BitVec 1) (s : State) : Out :=
  .next (runWord ⟨4, true⟩ (prefWord true f o b k nt) s)

def execPrefL2 (f : BitVec 1) (o : BitVec 7) (b : BitVec 5) (k : BitVec 2) (nt : BitVec 1) (s : State) : Out :=
  .next (runWord ⟨4, true⟩ (prefWord false f o b k nt) s)

/-! ## CCTL (R278) -/

/-- The L1 drops the clean sectors of a line. -/
def State.l1DropClean (s : State) (core line : Nat) : State :=
  s.mapSide fun m => { m with l1 := m.l1.filter fun x => !(x.core == core && x.sector / 8 == line && x.dirty == 0) }

/-- What CCTL does to a line: combining buffers drain, then write-back, then the drop of clean sectors. -/
def State.cctlLine (s : State) (wb dc : Bool) (core line : Nat) : State :=
  let s := s.drainBuffers fun b => b.core == core && b.line == line
  let s := if wb then ((s.l1Sectors core).filter fun k => k / 8 == line).foldl (fun s k => s.l1WriteBack core k) s else s
  if dc then s.l1DropClean core line else s

/-- With nt = 1 the home slice does the same to its own copy: its dirty sectors go to HBM, and clean sectors leave; a
line without sectors is dropped (R278, R83, R111). -/
def State.cctlHome (s : State) (wb dc : Bool) (line : Nat) : State :=
  let act (x : L2Line) : L2Line :=
    let x := if wb then { x with dirty := 0 } else x
    if dc then { x with valid := x.valid &&& x.dirty } else x
  let s := s.mapSide fun m => { m with l2 := m.l2.map fun x => if x.line = line then act x else x }
  if s.side.l2.any fun x => x.line == line && x.valid == 0 then s.l2Drop line else s

/-- Where a lane's CCTL acts: nowhere when the page is missing. -/
def cctlTarget (x : Nat × DWord) : M (Option Trans) := do
  let s ← get
  match translate (s.tfOf s.cur.ctx) (s.coreOf s.cur.ctx) (some s.cur.ctx) x.2 Access.control s with
  | .ok t s' => do
    set s'
    fabricUp t x.2 0x01
    pure (some t)
  | .error (.miss _) _ => pure none
  | .error st s' => do
    set s'
    throw st

/-- CCTL on one line of device memory. -/
def State.cctlAct (s : State) (wb dc nt : Bool) (line : Nat) : State :=
  let s := s.cctlLine wb dc (s.coreOf s.cur.ctx) line
  if nt then s.cctlHome wb dc line else s

def cctlWord (wb dc : Bool) (f : BitVec 1) (o : BitVec 7) (b : BitVec 5) (k : BitVec 2) (nt : BitVec 1) : M Unit := do
  let c ← vctx
  checkRegs [o.toNat] [o.toNat]
  let ts ← (laneAddrs c b o k.toNat).mapM cctlTarget
  ts.forM fun t => match t with
    | some t => if inSvc t.pa then pure () else modify fun s => s.cctlAct wb dc (nt == 1) (lineOf t.pa)
    | none => pure ()
  issueOp f .cacheHint

def execCctlWb (f : BitVec 1) (o : BitVec 7) (b : BitVec 5) (k : BitVec 2) (nt : BitVec 1) (s : State) : Out :=
  .next (runWord ⟨4, true⟩ (cctlWord true false f o b k nt) s)

def execCctlDc (f : BitVec 1) (o : BitVec 7) (b : BitVec 5) (k : BitVec 2) (nt : BitVec 1) (s : State) : Out :=
  .next (runWord ⟨4, true⟩ (cctlWord false true f o b k nt) s)

def execCctlWbdc (f : BitVec 1) (o : BitVec 7) (b : BitVec 5) (k : BitVec 2) (nt : BitVec 1) (s : State) : Out :=
  .next (runWord ⟨4, true⟩ (cctlWord true true f o b k nt) s)

/-! ## Completion of memory words (R210) -/

def OpKind.isMemory : OpKind → Bool
  | .load | .store .. | .posted _ | .peerAtomic _ | .atomic | .cacheHint => true
  | _ => false

/-- An operation may go on: it is not parked. -/
def State.opFree (_s : State) (o : Op) : Bool := o.parked.isNone

/-- A store that is held at the service window has not performed (R148). -/
def State.heldStore (s : State) (o : Op) : Bool :=
  (s.tfs.any fun t => t.2.invHeld.any fun x => x.2 == some (o.ctx, o.grp, o.id)) ||
    s.ctl.behind.any fun x => x.1 == (o.ctx, o.grp, o.id)

/-- A memory operation that can complete now. -/
def State.memoryOp (s : State) (id : Nat) : Option Op :=
  match s.opAt id with
  | some o => if o.kind.isMemory && s.opFree o && !s.heldStore o then some o else none
  | none => none

/-- Whether an operation has meanwhile been refused. -/
def State.refused (s : State) (id : Nat) : Bool :=
  match s.opAt id with
  | some o => (match o.kind with | .refused .. => true | _ => false)
  | none => false

/-- What a core holds of aperture lines leaves for the peers: a group's combining buffers, and dirty sectors. -/
def State.drainPeers (s : State) (o : Op) : State :=
  let s := s.drainBuffers fun b => b.ctx == o.ctx && b.grp == o.grp && decide (Config.aperBase ≤ 256 * b.line)
  ((s.l1Sectors o.core).filter fun k => decide (Config.aperBase ≤ 32 * k)).foldl (fun s k => s.l1WriteBack o.core k) s

/-- A store that performed in the L1 or in a combining buffer completes; the peer has still to acknowledge it. -/
def State.postOp (s : State) (o : Op) (va : DWord) : State :=
  if s.refused o.id then s
  else (s.mapOp o.id fun o => { o with kind := .posted va, flag := none }).dropFlag o.ctx o.grp o.flag

/-- An operation whose peer has answered completes, unless it was refused. -/
def State.ackOp (s : State) (o : Op) : State := if s.refused o.id then s else s.finishOp o

/-- A load, atomic, PREF or CCTL drops its flag; a store first leaves its group's queue, after every older store, and
one through an aperture waits for the peer. -/
def execMemoryAccessComplete (op : Nat) (s : State) : Out :=
  .next (match s.memoryOp op with
    | some o =>
      match o.kind with
      | .store (some va) true => (s.drainQueue o.ctx o.grp (some op)).postOp o va
      | .store _ _ => (s.drainQueue o.ctx o.grp (some op)).ackOp o
      | .posted _ => (s.drainPeers o).ackOp o
      | _ => s.finishOp o
    | none => s)

/-- A peer rejects a posted store or atomic, or it cannot be sent: the team ends at its next clause boundary (R29). -/
def execFabricRejection (op : Nat) (s : State) : Out :=
  .next (match s.opAt op with
    | some o =>
      match o.peer with
      | some va =>
        let s := s.drainQueue o.ctx o.grp (some op)
        (s.faultCtx o.ctx (BitVec.ofNat 8 o.grp) (addrFault cFabric va o.peerAcc)).finishOp o
      | none => s
    | none => s)

/-! ## Events of the caches -/

/-- A sector's write-back, or a buffer's drain, is due (R77, R78). -/
def State.sectorDue (s : State) (x : L1Sector) : Bool := x.dirty != 0 && decide (32768 ≤ s.clock.toNat - x.since)
def State.bufferDue (s : State) (b : CombBuf) : Bool := decide (512 ≤ s.clock.toNat - b.since)

/-- A dirty sector may be written back at any time up to its bound (R77). -/
def execL1TimedWriteback (core sector : Nat) (s : State) : Out := .next (s.l1WriteBack core sector)

def execCombiningBufferTimeout (core quad line : Nat) (s : State) : Out :=
  .next (s.drainBuffers fun b => b.core == core && b.quad == quad && b.line == line && s.bufferDue b)

/-- Everything that is due leaves for its home (R77, R78, R100). -/
def State.writeDue (s : State) : State :=
  let s := s.drainBuffers s.bufferDue
  (s.side.l1.filter s.sectorDue).foldl (fun s x => s.l1WriteBack x.core x.sector) s

/-- The L1 of a core evicts a line into a replica (R81, R82). -/
def execReplicaPlacement (core sector : Nat) (s : State) : Out :=
  .next (if s.replicates core (sector / 8) then s.l1Evict core (sector / 8) else s)

/-- A replica slice drops a replica (R83). -/
def execReplicaDrop (area sector : Nat) (s : State) : Out :=
  .next (s.mapSide fun m => { m with replicas := m.replicas.filter fun r => !(r.area == area && r.line == sector / 8) })

end Sys2Proof.Machine
end

