-- ==== Sys2Proof/Machine/Engine.lean ====
section
/-!
DEFINITION. What the engines (BXE, MXA, HVU) and the Keeper's reads for EMIT share: accesses of operations to
tenant memory and the pool window (R113, R139, R290), purity of engine accesses (R346), and the end of an
operation with a deferred trap (R305).
-/

namespace Sys2Proof.Machine

/-- Energy that a word charges by itself, beside its class (Table 15-3). -/
def noEnergy : Energy := ⟨9, false⟩

/-- Bytes that an engine reads from tenant memory at home, page by page. -/
def engineRead (t core : Nat) (who : Option Nat) (va : DWord) (n : Nat) : M (List Byte) := do
  let ps ← (cutAt 4096 (n / 4096 + 2) va.toNat (List.replicate n 0)).mapM fun (a, v) => do
    let x ← translate t core who (BitVec.ofNat 64 a) Access.engineRead
    fabricAsk x (BitVec.ofNat 64 a) 0x21
    pure (x.pa, v.length)
  let parts ← ps.mapM fun (pa, k) => do
    let (bs, poison, s) := (← get).homeRead pa k
    set s
    if poison then throw (.fault (addrFault cDataPoison va 0x21))
    pure bs
  pure parts.flatten

/-- Where an engine's write goes, translated before any byte of it performs. -/
def enginePlan (t core : Nat) (who : Option Nat) (va : DWord) (bs : List Byte) : M (List (Nat × List Byte)) :=
  (cutAt 4096 (bs.length / 4096 + 2) va.toNat bs).mapM fun (a, v) => do
    let x ← translate t core who (BitVec.ofNat 64 a) Access.engineWrite
    fabricAsk x (BitVec.ofNat 64 a) 0x22
    pure (x.pa, v)

def enginePut (own : List Writer) (ps : List (Nat × List Byte)) : M Unit :=
  ps.forM fun (pa, v) => modify fun s => s.homeWrite own pa (v.map some)

/-- Whether an engine access of a context is one that a pure task may not make (R345). -/
def State.engineImpure (s : State) (ctx : Nat) (write : Bool) (va : DWord) (n : Nat) : Bool :=
  (s.launchOf ctx).isPure && (upTo n).any fun i => !s.pureMayTouch ctx write (va + BitVec.ofNat 64 i)

/-- The task of a context is demoted (R346). -/
def State.demote (s : State) (ctx : Nat) : State :=
  s.mapLaunch (s.teamAt ctx).launch fun l => { l with pure := l.pure.map fun p => { p with clean := false } }

/-- Whether a violating engine access is left out (PV = 1), after the demotion. -/
def enginePure (ctx : Nat) (bad : Bool) : M Bool := do
  if bad then
    modify fun s => s.demote ctx
    return ((← get).launchOf ctx).pv
  else return false

/-- Bytes that an operation reads from its team's staging and shared regions, as they were at its issue (R54). -/
def poolRead (ctx op off n : Nat) : M (List Byte) := do
  let t := (← get).teamAt ctx
  if !(t.poison.isEmpty && t.leaving.isEmpty) && (rangeFrom off n).any (t.bad (some op)) then
    throw (.fault (addrFault cDataPoison (BitVec.ofNat 64 off) 0x21))
  return (← get).poolBytesFor ctx op off n

/-- Bytes that an engine of a core reads from the cluster pool. -/
def clusterBytes (core t : Nat) (a : DWord) (n : Nat) : M (List Byte) := do
  let s ← get
  match s.clusterReach core t a n with
  | none => throw (.fault (addrFault cProtection a 0x21))
  | some run => run.mapM fun x => do
    if (s.teamAt x.1).poison.contains x.2 then throw (.fault (addrFault cDataPoison a 0x21))
    pure (s.clusterByte x)

/-- An operation's write to its team's window. -/
def poolPut (o : Op) (off : Nat) (bs : List Byte) : M Unit := modify fun s => s.poolWriteFor o.ctx o.id off bs

/-- An operation ends with a deferred trap (R305, R346). -/
def State.failOp (s : State) (o : Op) (cause : Byte) (detail : Word) : State := (s.defer o cause detail).finishOp o

/-- An operation acts: its effect, or its stop (R139, R290). It may act while it is not parked and its group's
flags can be counted. -/
def State.runOp (s : State) (id : Nat) (f : Op → Option (M Unit)) : State :=
  match s.opAt id with
  | none => s
  | some o =>
    if s.opFree o then
      match f o with
      | none => s
      | some m =>
        match m s with
        | .ok _ t => t
        | .error (.hold _) _ => s
        | .error st t => t.stopOp o st
    else s

end Sys2Proof.Machine
end

