-- ==== Sys2Proof/Machine/VecFloat.lean ====
section
/-!
DEFINITION. The vector floating-point words (R256 to R259), conversions, packing and block quantisation (R260 to
R262).
-/

namespace Sys2Proof.Machine

/-! ## Arithmetic (R256) -/

/-- A two-source word on elements of a format; `rounds` says whether it rounds by the effective mode. -/
def fbin (k : Fmt) (rounds : Bool) (op : FEnv → FVal → FVal → FRes) (d a : BitVec 7) (b : BitVec 8) : M Unit := do
  let c ← vctx
  checkRegs (d.toNat :: a.toNat :: selRegs b) (a.toNat :: selRegs b)
  let s ← get
  fpWord c d.toNat rounds k.width fun l j => op (s.fenv c k l j) (elemVal c k (c.srcA a l) j) (elemVal c k (c.sel b l) j)

/-- A word of source a alone. -/
def funary (k : Fmt) (rounds : Bool) (op : FEnv → FVal → FRes) (d a : BitVec 7) : M Unit := do
  let c ← vctx
  checkRegs [d.toNat, a.toNat] [a.toNat]
  let s ← get
  fpWord c d.toNat rounds k.width fun l j => op (s.fenv c k l j) (elemVal c k (c.srcA a l) j)

/-- VFMA with its fourth operand. -/
def ffma (k : Fmt) (d a : BitVec 7) (b : BitVec 8) : M Unit := do
  let c ← vctx
  fourthOk c
  checkRegs (d.toNat :: a.toNat :: selRegs b ++ c.fourthRegs)
    (a.toNat :: selRegs b ++ (if c.hasPre then c.fourthRegs else [d.toNat]))
  let s ← get
  fpWord c d.toNat true k.width fun l j =>
    fFma k (s.fenv c k l j) (elemVal c k (c.srcA a l) j) (elemVal c k (c.sel b l) j) (elemVal c k (c.fourth d l) j)

def execVfadd (d a : BitVec 7) (b : BitVec 8) (s : State) : Out :=
  .next (runWord ⟨2, true⟩ (fbin .fp32 true (fAdd .fp32) d a b) s)

def execVfaddF16 (d a : BitVec 7) (b : BitVec 8) (s : State) : Out :=
  .next (runWord ⟨2, true⟩ (fbin .fp16 true (fAdd .fp16) d a b) s)

def execVfaddBf16 (d a : BitVec 7) (b : BitVec 8) (s : State) : Out :=
  .next (runWord ⟨2, true⟩ (fbin .bf16 true (fAdd .bf16) d a b) s)

def execVfsub (d a : BitVec 7) (b : BitVec 8) (s : State) : Out :=
  .next (runWord ⟨2, true⟩ (fbin .fp32 true (fSub .fp32) d a b) s)

def execVfsubF16 (d a : BitVec 7) (b : BitVec 8) (s : State) : Out :=
  .next (runWord ⟨2, true⟩ (fbin .fp16 true (fSub .fp16) d a b) s)

def execVfsubBf16 (d a : BitVec 7) (b : BitVec 8) (s : State) : Out :=
  .next (runWord ⟨2, true⟩ (fbin .bf16 true (fSub .bf16) d a b) s)

def execVfmul (d a : BitVec 7) (b : BitVec 8) (s : State) : Out :=
  .next (runWord ⟨2, true⟩ (fbin .fp32 true (fMul .fp32) d a b) s)

def execVfmulF16 (d a : BitVec 7) (b : BitVec 8) (s : State) : Out :=
  .next (runWord ⟨2, true⟩ (fbin .fp16 true (fMul .fp16) d a b) s)

def execVfmulBf16 (d a : BitVec 7) (b : BitVec 8) (s : State) : Out :=
  .next (runWord ⟨2, true⟩ (fbin .bf16 true (fMul .bf16) d a b) s)

def execVfmin (d a : BitVec 7) (b : BitVec 8) (s : State) : Out :=
  .next (runWord ⟨2, true⟩ (fbin .fp32 false (fun _ => fMinMax .fp32 false) d a b) s)

def execVfminF16 (d a : BitVec 7) (b : BitVec 8) (s : State) : Out :=
  .next (runWord ⟨2, true⟩ (fbin .fp16 false (fun _ => fMinMax .fp16 false) d a b) s)

def execVfminBf16 (d a : BitVec 7) (b : BitVec 8) (s : State) : Out :=
  .next (runWord ⟨2, true⟩ (fbin .bf16 false (fun _ => fMinMax .bf16 false) d a b) s)

def execVfmax (d a : BitVec 7) (b : BitVec 8) (s : State) : Out :=
  .next (runWord ⟨2, true⟩ (fbin .fp32 false (fun _ => fMinMax .fp32 true) d a b) s)

def execVfmaxF16 (d a : BitVec 7) (b : BitVec 8) (s : State) : Out :=
  .next (runWord ⟨2, true⟩ (fbin .fp16 false (fun _ => fMinMax .fp16 true) d a b) s)

def execVfmaxBf16 (d a : BitVec 7) (b : BitVec 8) (s : State) : Out :=
  .next (runWord ⟨2, true⟩ (fbin .bf16 false (fun _ => fMinMax .bf16 true) d a b) s)

def execVfma (d a : BitVec 7) (b : BitVec 8) (s : State) : Out :=
  .next (runWord ⟨2, true⟩ (ffma .fp32 d a b) s)

def execVfmaF16 (d a : BitVec 7) (b : BitVec 8) (s : State) : Out :=
  .next (runWord ⟨2, true⟩ (ffma .fp16 d a b) s)

def execVfmaBf16 (d a : BitVec 7) (b : BitVec 8) (s : State) : Out :=
  .next (runWord ⟨2, true⟩ (ffma .bf16 d a b) s)

/-! ## Sign, class, compare (R257, R258) -/

/-- A bit operation on two lane values. -/
def fbits (d a : BitVec 7) (b : BitVec 8) (f : Word → Word → Word) (s : State) : Out :=
  .next (runWord ⟨2, true⟩ (vbin 0 0 d a b f) s)

def withSign (x sign : Word) : Word := (x &&& 0x7FFFFFFF) ||| (sign &&& 0x80000000)

def execVfsgn (d a : BitVec 7) (b : BitVec 8) (s : State) : Out := fbits d a b withSign s

def execVfsgnN (d a : BitVec 7) (b : BitVec 8) (s : State) : Out := fbits d a b (fun x y => withSign x (~~~ y)) s

def execVfsgnX (d a : BitVec 7) (b : BitVec 8) (s : State) : Out := fbits d a b (fun x y => withSign x (x ^^^ y)) s

/-- VFCLASS's one-hot class. -/
def fclass (x : Word) : Word :=
  let neg := x.getLsbD 31
  let bit : Nat :=
    match Fmt.fp32.decode false x.toNat with
    | .nan signalling => if signalling then 8 else 9
    | .inf _ => if neg then 0 else 7
    | .fin _ m _ =>
      if m = 0 then (if neg then 3 else 4)
      else if m < 2 ^ 23 then (if neg then 2 else 5)
      else if neg then 1 else 6
  BitVec.ofNat 32 (2 ^ bit)

def execVfclass (d a : BitVec 7) (s : State) : Out :=
  .next (runWord ⟨2, true⟩ (vbin 0 1 d a 0xF0 fun x _ => fclass x) s)

/-- Numbers equal, with −0 = +0; NaNs never. -/
def fEq (x y : FVal) : Bool :=
  match x, y with
  | .inf p, .inf q => p == q
  | .fin p m e, .fin q n g => let k := min e g; scaled p m e k == scaled q n g k
  | _, _ => false

/-- x < y on numbers, −0 not below +0. -/
def fLt (x y : FVal) : Bool := !fEq x y && !x.isNan && !y.isNan && fLess x y

/-- VFCMP's condition and the flags it sets. -/
def vfcmpHolds (code : Nat) (x y : FVal) : Bool × Nat :=
  let nan := x.isNan || y.isNan
  let quiet := snanFlag [x, y]
  match code with
  | 0 => (fEq x y, quiet)
  | 1 => (!fEq x y, quiet)
  | 2 => (fLt x y, if nan then fIV else 0)
  | 3 => (fLt x y || fEq x y, if nan then fIV else 0)
  | 4 => (nan, quiet)
  | _ => (!nan, quiet)

def vfcmpWord (cc : BitVec 3) (m : BitVec 4) (a : BitVec 7) (b : BitVec 8) : M Unit := do
  let c ← vctx
  checkRegs (a.toNat :: selRegs b) (a.toNat :: selRegs b)
  let res (l : Nat) := vfcmpHolds cc.toNat (elemVal c .fp32 (c.srcA a l) 0) (elemVal c .fp32 (c.sel b l) 0)
  fpFlags c false (c.lanes.map fun l => (l, (res l).2))
  VCtx.maskWrite c m.toNat fun l => (res l).1

def execVfcmp (c : BitVec 3) (m : BitVec 4) (a : BitVec 7) (b : BitVec 8) (s : State) : Out :=
  .next (runWord ⟨2, true⟩ (vfcmpWord c m a b) s)

/-! ## Division, square root, special functions, rounding to integral (R259) -/

def execVfdiv (d a : BitVec 7) (b : BitVec 8) (s : State) : Out :=
  .next (runWord ⟨3, true⟩ (fbin .fp32 true (fDiv .fp32) d a b) s)

def execVfsqrt (d a : BitVec 7) (s : State) : Out :=
  .next (runWord ⟨3, true⟩ (funary .fp32 true (fSqrt .fp32) d a) s)

def execVfrcp (d a : BitVec 7) (s : State) : Out :=
  .next (runWord ⟨3, true⟩ (funary .fp32 false (fRcp) d a) s)

def execVfrsq (d a : BitVec 7) (s : State) : Out :=
  .next (runWord ⟨3, true⟩ (funary .fp32 false (fRsq) d a) s)

def execVfexp2 (d a : BitVec 7) (s : State) : Out :=
  .next (runWord ⟨3, true⟩ (funary .fp32 false (fExp2) d a) s)

def execVflog2 (d a : BitVec 7) (s : State) : Out :=
  .next (runWord ⟨3, true⟩ (funary .fp32 false (fLog2) d a) s)

def execVfsin (d a : BitVec 7) (s : State) : Out :=
  .next (runWord ⟨3, true⟩ (funary .fp32 false (fTrig false) d a) s)

def execVfcos (d a : BitVec 7) (s : State) : Out :=
  .next (runWord ⟨3, true⟩ (funary .fp32 false (fTrig true) d a) s)

def execVfrnd (d a : BitVec 7) (s : State) : Out :=
  .next (runWord ⟨2, true⟩ (funary .fp32 true (fRnd .fp32) d a) s)

def execVfrndF16 (d a : BitVec 7) (s : State) : Out :=
  .next (runWord ⟨2, true⟩ (funary .fp16 true (fRnd .fp16) d a) s)

def execVfrndBf16 (d a : BitVec 7) (s : State) : Out :=
  .next (runWord ⟨2, true⟩ (funary .bf16 true (fRnd .bf16) d a) s)

/-! ## Conversion (R260) -/

/-- Whether a conversion steps RSEQ (R190). The spec does not say how VCVT rounds LG8 into an integer format: it
rounds by the effective mode, with RSTOCH's word, and RSEQ stays (DESIGN CHOICE, log 110). -/
def cvtRounds (src dst : NumFmt) : Bool :=
  match src, dst with
  | _, .flt _ => true
  | .flt _, .int _ => true
  | _, _ => false

/-- The format whose FTZ applies to a result. -/
def ftzFmt : NumFmt → Fmt
  | .flt f => f
  | _ => .e4m3

/-- The elements of one lane converted: bits placed over the prior value of vd, with the flags. -/
def cvtLane (s : State) (c : VCtx) (src dst : NumFmt) (g l : Nat) (x old : Word) : Word × Nat :=
  let ws := src.width
  let wd := dst.width
  let n := if ws < wd then 32 / wd else 32 / ws
  let es := elems ws x
  let one (i : Nat) : FRes :=
    let si := if ws < wd then g * n + i else i
    let di := if wd < ws then g * n + i else i
    convert (s.fenv c (ftzFmt dst) l di) src dst (es.getD si 0)
  let rs := (upTo n).map one
  let flags := rs.foldl (fun f r => f ||| r.flags) 0
  let out := if wd < ws then
      packElems wd ((upTo (32 / wd)).map fun k =>
        if g * n ≤ k ∧ k < g * n + n then (rs.getD (k - g * n) ⟨0, 0⟩).bits else (elems wd old).getD k 0)
    else packElems wd (rs.map (·.bits))
  (out, flags)

def vcvtWord (g : BitVec 2) (d a : BitVec 7) (t q : BitVec 4) : M Unit := do
  let c ← vctx
  let src := numFmt q.toNat
  let dst := numFmt t.toNat
  checkRegs [d.toNat, a.toNat] (if dst.width < src.width then [d.toNat, a.toNat] else [a.toNat])
  let s ← get
  let res := c.lanes.map fun l => (l, cvtLane s c src dst g.toNat l (c.srcA a l) (c.g.lane d.toNat l))
  fpFlags c (cvtRounds src dst) (res.map fun x => (x.1, x.2.2))
  c.write d.toNat fun l => (look res l (0, 0)).1

def execVcvt (g : BitVec 2) (d a : BitVec 7) (t q : BitVec 4) (s : State) : Out :=
  .next (runWord ⟨2, true⟩ (vcvtWord g d a t q) s)

/-! ## Packing (R261) -/

/-- Sign extension for INT8 and INT4, zero extension for the others. -/
def extElem (f w : Nat) (x : Nat) : Word := if f = 8 ∨ f = 9 then w32 (sextNat w x) else BitVec.ofNat 32 (x % 2 ^ w)

def packLane (f g : Nat) (x old : Word) : Word :=
  let w := (numFmt f).width
  if w = 4 then
    packElems 4 (((elems 4 old).set (2 * g) (field x.toNat 0 4)).set (2 * g + 1) (field x.toNat 16 4))
  else packElems w ((elems w old).set g (field x.toNat 0 w))

def unpackLane (f g : Nat) (x : Word) : Word :=
  let w := (numFmt f).width
  if w = 4 then
    packElems 16 [(extElem f 4 ((elems 4 x).getD (2 * g) 0)).toNat, (extElem f 4 ((elems 4 x).getD (2 * g + 1) 0)).toNat]
  else extElem f w ((elems w x).getD g 0)

def vpackWord (g : BitVec 2) (d a : BitVec 7) (f : BitVec 4) : M Unit := do
  let c ← vctx
  checkRegs [d.toNat, a.toNat] [d.toNat, a.toNat]
  c.write d.toNat fun l => packLane f.toNat g.toNat (c.srcA a l) (c.g.lane d.toNat l)

def execVpack (g : BitVec 2) (d a : BitVec 7) (f : BitVec 4) (s : State) : Out :=
  .next (runWord ⟨1, true⟩ (vpackWord g d a f) s)

def execVunpk (g : BitVec 2) (d a : BitVec 7) (f : BitVec 4) (s : State) : Out :=
  .next (runWord ⟨1, true⟩ (vbin 0 1 d a 0xF0 fun x _ => unpackLane f.toNat g.toNat x) s)

/-! ## Quantisation (R196, R262) -/

/-- The larger magnitude of two numbers. -/
def maxMag (x y : Nat × Int) : Nat × Int :=
  let k := min x.2 y.2
  if x.1 * 2 ^ (x.2 - k).toNat < y.1 * 2 ^ (y.2 - k).toNat then y else x

/-- The scale code of a block of FP32 values. -/
def blockScale (k : Fmt) (vs : List FVal) : Nat :=
  if vs.any fun v => match v with | .fin .. => false | _ => true then 0xFF
  else
    let m := vs.foldl (fun a v => match v with | .fin _ m e => maxMag a (m, e) | _ => a) (0, 0)
    e8m0Code k m.1 m.2

/-- A value scaled by a power of two. -/
def FVal.scale (v : FVal) (n : Int) : FVal :=
  match v with
  | .fin p m e => .fin p m (e + n)
  | v => v

/-- One element of a block with its scale code, and the flags. -/
def quantElem (k : Fmt) (env : FEnv) (code : Nat) (v : FVal) : FRes :=
  if code = 0xFF then { bits := 0xFF * 256, flags := snanFlag [v] }
  else
    let r := k.ofVal env (v.scale (127 - code))
    { r with bits := r.bits + code * 256 }

/-- VQUANT: one register of 32-lane blocks, or in width 16 a pair of registers that make one block. DAZ acts on amax
(R262); it does not act on the elements, which are converted into FP8 or FP4 (R192; DEDUCED, log 112). In width 16 a prefix
permutes the lanes of va + 1 as it does those of va (R219, R220; DESIGN CHOICE, log 133). -/
def vquantWord (k : Fmt) (d a : BitVec 7) : M Unit := do
  let c ← vctx
  let pair := c.w == 16
  if pair && (d.toNat == 127 || a.toNat == 127) then illegal
  let run (r : BitVec 7) : List Nat := if pair then [r.toNat, r.toNat + 1] else [r.toNat]
  checkRegs (run d ++ run a) (run a)
  let s ← get
  let lane (j l : Nat) : Word := c.g.lane (a.toNat + j) (c.permLane l)
  let val (j l : Nat) : FVal := Fmt.fp32.decode false (lane j l).toNat
  let regs := if pair then [0, 1] else [0]
  let blocks : List (List (Nat × Nat)) :=
    if pair then [regs.flatMap fun j => c.lanes.map fun l => (j, l)]
    else (upTo (c.w / 32)).map fun q => (c.lanes.filter fun l => l / 32 == q).map fun l => (0, l)
  let res : List ((Nat × Nat) × FRes) := blocks.flatMap fun blk =>
    let code := blockScale k (blk.map fun x => elemVal c .fp32 (lane x.1 x.2) 0)
    blk.map fun x => (x, quantElem k (s.fenv c k x.2 x.1) code (val x.1 x.2))
  fpFlags c true (c.lanes.map fun l =>
    (l, (res.filter fun r => r.1.2 == l).foldl (fun f r => f ||| r.2.flags) 0))
  regs.forM fun j =>
    c.write (d.toNat + j) fun l =>
      match res.find? fun r => r.1 == (j, l) with
      | some r => BitVec.ofNat 32 r.2.bits
      | none => 0

/-- VDEQ's value of one lane: element × 2^(scale − 127). FTZ32 flushes every subnormal result, with UF and PR (R192, R262;
DESIGN CHOICE, log 132). -/
def dequant (k : Fmt) (env : FEnv) (x : Word) : FRes :=
  let code := field x.toNat 8 8
  let v := k.decode false (field x.toNat 0 k.width)
  let quiet : FVal := .nan false
  if code = 0xFF ∨ v.isNan then Fmt.fp32.ofVal env quiet else Fmt.fp32.ofVal env (v.scale ((code : Int) - 127))

def vdeqWord (k : Fmt) (d a : BitVec 7) : M Unit := do
  let c ← vctx
  checkRegs [d.toNat, a.toNat] [a.toNat]
  let s ← get
  fpWord c d.toNat true 32 fun l _ => dequant k (s.fenv c .fp32 l 0) (c.srcA a l)

def execVquantE4m3 (d a : BitVec 7) (s : State) : Out := .next (runWord ⟨2, true⟩ (vquantWord .e4m3 d a) s)

def execVdeqE4m3 (d a : BitVec 7) (s : State) : Out := .next (runWord ⟨2, true⟩ (vdeqWord .e4m3 d a) s)

def execVquantE5m2 (d a : BitVec 7) (s : State) : Out := .next (runWord ⟨2, true⟩ (vquantWord .e5m2 d a) s)

def execVdeqE5m2 (d a : BitVec 7) (s : State) : Out := .next (runWord ⟨2, true⟩ (vdeqWord .e5m2 d a) s)

def execVquantE2m1 (d a : BitVec 7) (s : State) : Out := .next (runWord ⟨2, true⟩ (vquantWord .e2m1 d a) s)

def execVdeqE2m1 (d a : BitVec 7) (s : State) : Out := .next (runWord ⟨2, true⟩ (vdeqWord .e2m1 d a) s)

end Sys2Proof.Machine
end

