-- ==== Sys2Proof/Machine/Matrix.lean ====
section
/-!
DEFINITION. The matrix array (R299 to R312): LDW, MMA and MMAZ with their completions, the sums of R197, and the
accumulator words.
-/

namespace Sys2Proof.Machine

/-! ## Weight tiles -/

/-- Bits of an element of a format code (Table 12-1). -/
def mxBits (fmt : Nat) : Nat := (numFmt fmt).width

/-- Formats that the array takes (Table 12-1). -/
def mxFmt (fmt : Nat) : Bool := [1, 2, 3, 4, 5, 6, 8].contains fmt

/-- Fields of LDW's control word (Table 12-3). -/
def ldwK (c : DWord) : Nat := field c.toNat 0 8
def ldwN (c : DWord) : Nat := field c.toNat 8 8
def ldwPitch (c : DWord) : Nat := field c.toNat 16 16
def ldwFmt (c : DWord) : Nat := field c.toNat 32 4
def ldwBlk (c : DWord) : Bool := c.getLsbD 38
def ldwCluster (c : DWord) : Bool := c.getLsbD 39
def ldwMcast (c : DWord) : Nat := field c.toNat 40 4

/-- Bytes of a row, and rows of scale codes. -/
def ldwRow (c : DWord) : Nat := (ldwN c * mxBits (ldwFmt c) + 7) / 8
def ldwBlocks (c : DWord) : Nat := if ldwBlk c then (ldwK c + 31) / 32 else 0

/-- R303: the control word against Tables 12-1 and 12-3. -/
def ldwOk (c : DWord) : Bool :=
  let f := ldwFmt c
  let b := mxBits f
  decide (c.toNat < 2 ^ 44) && field c.toNat 36 2 == 0 && mxFmt f && decide (ldwK c ≤ (if b = 16 then 32 else if b = 8 then 64 else 128)) &&
    decide (ldwN c ≤ 128) && (if f = 5 then ldwBlk c else if f = 3 ∨ f = 4 then true else !ldwBlk c) && ldwPitch c % 4 == 0 &&
    (ldwK c == 0 || ldwN c == 0 || decide (ldwRow c ≤ ldwPitch c))

def ldwWord (f : BitVec 1) (sr : BitVec 5) (c : BitVec 8) : M Unit := do
  needFullMask
  let s ← get
  let ctrl := s.selS c
  if !ldwOk ctrl then trapWord cDescriptor 1
  let src := s.curGroup.readS sr.toNat
  let flag ← countFlag f
  modify fun s => (s.engineIssue s.cur.ctx s.cur.grp false).addOp s.cur.ctx s.cur.grp flag (.ldw ctrl src) ({}, {})

def execLdw (f : BitVec 1) (s : BitVec 5) (c : BitVec 8) (st : State) : Out := .next (runWord ⟨6, false⟩ (ldwWord f s c) st)

/-! ## Latching (R304, R305) -/

/-- The spans of the source: rows, then rows of scales. -/
def ldwSpans (c src : DWord) : List (DWord × Nat) :=
  if ldwK c = 0 ∨ ldwN c = 0 then []
  else
    (upTo (ldwK c)).map (fun k => (src + BitVec.ofNat 64 (k * ldwPitch c), ldwRow c)) ++
    (upTo (ldwBlocks c)).map fun b => (src + BitVec.ofNat 64 (ldwK c * ldwPitch c + 128 * b), ldwN c)

/-- The bytes of one span (R46, R41). -/
def ldwSpan (o : Op) (cluster : Bool) (x : DWord × Nat) : M (List Byte) := do
  let s ← get
  if cluster then clusterBytes o.core (s.tfOf o.ctx) x.1 x.2
  else if (s.teamAt o.ctx).spanFor (some o.id) x.1.toNat x.2 then poolRead o.ctx o.id x.1.toNat x.2
  else throw (.fault (addrFault cProtection x.1 0x21))

/-- The arrays that an LDW delivers to. -/
def ldwCores (core : Nat) (c : DWord) : List Nat :=
  if ldwMcast c = 0 then [core] else ((upTo 4).filter fun i => bitAt (ldwMcast c) i).map fun i => core / 4 * 4 + i

/-- The tile that the source's bytes make. -/
def ldwTile (tf : BitVec 8) (launch : Word) (c : DWord) (bytes : List (List Byte)) : WeightTile :=
  let b := mxBits (ldwFmt c)
  let row (bs : List Byte) : List Nat := (upTo (ldwN c)).map fun n => field (ofLe bs) (n * b) b
  let rows := if ldwK c = 0 ∨ ldwN c = 0 then 0 else ldwK c
  { core := 0, tf := tf, launch := launch, fmt := ldwFmt c, k := ldwK c, n := ldwN c, blk := ldwBlk c
    elems := (bytes.take rows).map row
    scales := (bytes.drop rows).map fun bs => bs.map fun x => x.toNat }

/-- Tiles of some cores become invalid. -/
def State.dropTiles (s : State) (cores : List Nat) : State := { s with tiles := s.tiles.filter fun t => !cores.contains t.core }

/-- A purity violation of an LDW's source (R345). -/
def State.ldwImpure (s : State) (o : Op) (c src : DWord) : Bool :=
  ldwCluster c && (s.launchOf o.ctx).isPure && (ldwSpans c src).any fun x =>
    match s.clusterReach o.core (s.tfOf o.ctx) x.1 x.2 with
    | some run => run.any fun y => y.1 != o.ctx
    | none => true

/-- Every destination, an array of the issuing cluster, latches, or fails with its bit in the mask (Table 12-4). -/
def State.latch (s : State) (o : Op) (c : DWord) (errors : BitVec 4) (bytes : List (List Byte)) : State :=
  let cores := ldwCores o.core c
  let bad := cores.filter fun k => errors.getLsbD (k % 4) || s.health.retiredCores.contains k
  let tile := ldwTile (s.launchOf o.ctx).tf (s.launchOf o.ctx).num c bytes
  let s := s.dropTiles cores
  let s := { s with tiles := s.tiles ++ (cores.filter fun k => !bad.contains k).map fun k => { tile with core := k } }
  if bad.isEmpty then s.finishOp o else s.failOp o cWeightInvalid (BitVec.ofNat 32 ((bad.map fun k => 2 ^ (k % 4)).sum))

/-- LDW ends: a bad source invalidates every destination and ends the team at its next clause boundary. -/
def State.ldwEnd (s : State) (o : Op) (c src : DWord) (errors : BitVec 4) : State :=
  let bad := s.ldwImpure o c src
  let s := if bad then s.demote o.ctx else s
  if bad && (s.launchOf o.ctx).pv then s.failOp o cPurity 0
  else
    match (ldwSpans c src).mapM (ldwSpan o (ldwCluster c)) s with
    | .ok bytes s => s.latch o c errors bytes
    | .error (.fault f) s =>
      ((s.dropTiles (ldwCores o.core c)).faultCtx o.ctx (BitVec.ofNat 8 o.grp) f).finishOp o
    | .error _ s => s

def execLdwLatch (op : Nat) (latchErrors : BitVec 4) (s : State) : Out :=
  .next (match s.opAt op with
    | some o =>
      match o.kind with
      | .ldw c src => if s.opFree o then s.ldwEnd o c src latchErrors else s
      | _ => s
    | none => s)

/-! ## MMA and MMAZ (R306) -/

/-- Activation formats, and whether BA may be 0 or 1 (Table 12-5). -/
def mmaForm (fmt : Nat) (ba : Bool) : Bool :=
  if fmt = 5 then ba else if fmt = 3 ∨ fmt = 4 then true else [1, 2, 6, 8].contains fmt && !ba

/-- R301: the tile exists. -/
def tileExists (t : Nat) : M Unit := do
  let s ← get
  if (s.launchOf s.cur.ctx).nAcc ≤ t then trapWord cRegbound (BitVec.ofNat 32 t)

/-- R301: the tile exists and, unless `free` may be, is allocated. -/
def needTile (t : Nat) (free : Bool) : M Unit := do
  tileExists t
  let s ← get
  if !free && !((s.teamAt s.cur.ctx).acc.getD t AccTile.reset).alloc then trapWord cRegbound (BitVec.ofNat 32 t)

def mmaWord (zero : Bool) (f : BitVec 1) (fmt : BitVec 4) (t : BitVec 3) (a : BitVec 7) (x : BitVec 1) : M Unit := do
  let run := rangeFrom a.toNat (if x = 1 then 17 else 16)
  if !mmaForm fmt.toNat (x == 1) || decide (128 < a.toNat + run.length) then illegal
  checkBounds run
  tileExists t.toNat
  needFullMask
  checkRegs run run
  needTile t.toNat false
  let g ← curGroup
  let acts := run.map fun r => (upTo g.width).map fun l => g.lane r l
  let flag ← countFlag f
  modify fun s =>
    (s.engineIssue s.cur.ctx s.cur.grp false).addOp s.cur.ctx s.cur.grp flag (.mma zero fmt.toNat t.toNat (x == 1) acts) s.curRegs

def execMma (f : BitVec 1) (f2 : BitVec 4) (t : BitVec 3) (a : BitVec 7) (x : BitVec 1) (s : State) : Out :=
  .next (runWord ⟨5, true⟩ (mmaWord false f f2 t a x) s)

def execMmaz (f : BitVec 1) (f2 : BitVec 4) (t : BitVec 3) (a : BitVec 7) (x : BitVec 1) (s : State) : Out :=
  .next (runWord ⟨5, true⟩ (mmaWord true f f2 t a x) s)

/-! ## The step (R197, R307) -/

/-- Two exact values added, with IV for opposite infinities. -/
def exactSum2 (x y : FVal) : FVal × Nat :=
  match x, y with
  | .nan _, _ | _, .nan _ => (.nan false, 0)
  | .inf a, .inf b => if a = b then (.inf a, 0) else (.nan false, fIV)
  | .inf a, _ => (.inf a, 0)
  | _, .inf b => (.inf b, 0)
  | .fin a m e, .fin b n g =>
    let (neg, t, e0) := exactAdd 1 a m e b n g
    (.fin neg t e0, 0)

/-- The exact sum of a chunk's products, with flags. The products are taken in ascending k: beside a NaN product, opposite
infinities set IV only where both come before it (R197, R307; DESIGN CHOICE, log 129). -/
def chunkSum : List (FVal × Nat) → FVal × Nat
  | [] => (.fin false 0 0, 0)
  | p :: ps => ps.foldl (fun (acc, f) (x, g) => let (v, h) := exactSum2 acc x; (v, f ||| g ||| h)) p

/-- An element of a block whose scale code is 0xFF reads as NaN, whatever its own code holds (R184). -/
def inBlock (scale : Nat) (x : FVal) : FVal := if scale = 0xFF then .nan false else x

/-- The product of two element codes in blocks of these scale codes (R187, R197). -/
def mmaProduct (fa fw sa sw a w : Nat) : FVal × Nat :=
  match numFmt fa, numFmt fw with
  | .flt f, .flt g => exactMul (inBlock sa (f.decode false a)) (inBlock sw (g.decode false w))
  | _, _ => (lgMul a w, 0)

/-- Products of a chunk (R197). -/
def mmaChunk (fmt : Nat) : Nat := 128 / mxBits fmt

/-- One step's operands: activations by register and lane, whether block scales are used, and the tile. -/
structure MmaStep where
  fmt  : Nat
  ba   : Bool
  acts : List (List Word)
  tile : WeightTile
  deriving DecidableEq, Repr

/-- Element k of row m (Table 12-5). -/
def MmaStep.act (x : MmaStep) (m k : Nat) : Nat :=
  let b := mxBits x.fmt
  field (((x.acts.getD (k / (32 / b)) []).getD m 0).toNat) (b * (k % (32 / b))) b

def MmaStep.weight (x : MmaStep) (k n : Nat) : Nat := (x.tile.elems.getD k []).getD n 0

/-- The scale codes of a chunk in a block; 127 is the scale 1. -/
def MmaStep.actScale (x : MmaStep) (m kb : Nat) : Nat :=
  if x.ba then field (((x.acts.getD 16 []).getD m 0).toNat) (8 * kb) 8 else 127

def MmaStep.tileScale (x : MmaStep) (kb n : Nat) : Nat := if x.tile.blk then (x.tile.scales.getD kb []).getD n 0 else 127

/-- A chunk's value in FP32, with flags. -/
def MmaStep.chunk (x : MmaStep) (m n k0 : Nat) : FRes :=
  let ks := rangeFrom k0 (min (mmaChunk x.fmt) (x.tile.k - k0))
  let sa := x.actScale m (k0 / 32)
  let sw := x.tileScale (k0 / 32) n
  let (c, fl) := chunkSum (ks.map fun k => mmaProduct x.fmt x.tile.fmt sa sw (x.act m k) (x.weight k n))
  let r := match c with
    | .nan _ => Fmt.fp32.nanRes 0
    | _ => Fmt.fp32.ofVal FEnv.rne (c.scale ((sa : Int) + sw - 254))
  { r with flags := r.flags ||| fl }

/-- The new value of an element, with flags. -/
def MmaStep.elem (x : MmaStep) (m n : Nat) (acc : Word) : FRes :=
  if x.fmt = 8 then
    let sum : Int := (upTo x.tile.k).foldl (fun t k => t + sextNat 8 (x.act m k) * sextNat 8 (x.weight k n)) 0
    { bits := (acc + w32 sum).toNat, flags := 0 }
  else
    let ch := mmaChunk x.fmt
    (upTo ((x.tile.k + ch - 1) / ch)).foldl (fun a i =>
      let c := x.chunk m n (i * ch)
      let r := fAdd .fp32 FEnv.rne (Fmt.fp32.decode false a.bits) (Fmt.fp32.decode false c.bits)
      { bits := r.bits, flags := a.flags ||| c.flags ||| r.flags }) { bits := acc.toNat, flags := 0 }

/-- Every element of rows below the group's width and columns below N; with the flags. -/
def MmaStep.run (x : MmaStep) (width : Nat) (t : AccTile) : AccTile × Nat :=
  (upTo width).foldl (fun (t, f) m =>
    (upTo x.tile.n).foldl (fun (t, f) n =>
      let r := x.elem m n (look t.elems (128 * m + n) 0)
      (t.putElem (128 * m + n) (BitVec.ofNat 32 r.bits), f ||| r.flags)) (t, f)) (t, 0)

/-- Table 12-5's pairs. -/
def mmaPair (fa fw : Nat) : Bool := if fa = 3 ∨ fa = 4 then fw == 3 || fw == 4 else fa == fw

/-- The tile that a step may use, or none when the step fails (R306). -/
def State.stepTile (s : State) (o : Op) (fmt : Nat) (ba : Bool) : Option WeightTile :=
  let l := s.launchOf o.ctx
  match s.tiles.find? fun t => t.core == o.core with
  | some t => if t.tf == l.tf && t.launch == l.num && mmaPair fmt t.fmt && !(ba && !t.blk && t.fmt == 5) then some t else none
  | none => none

/-- A step that does not fail. -/
def State.stepRun (s : State) (o : Op) (zero : Bool) (fmt tile : Nat) (ba : Bool) (acts : List (List Word)) (w : WeightTile) : State :=
  let a := (s.teamAt o.ctx).acc.getD tile AccTile.reset
  let a := if zero then { a with elems := [], count := 0 } else a
  let (a, flags) := MmaStep.run { fmt := fmt, ba := ba, acts := acts, tile := w } o.lanes a
  let s := s.mapTeam o.ctx fun t => { t with acc := t.acc.set tile { a with count := a.count + 1 } }
  (s.opFlags o.ctx o.grp (BitVec.ofNat 32 (flags % 128))).finishOp o

/-- Steps start in the order in which the array accepted them. -/
def State.firstStep (s : State) (o : Op) : Bool :=
  match s.ops.find? fun p => p.core == o.core && (match p.kind with | .mma .. => true | _ => false) with
  | some p => p.id == o.id
  | none => false

/-- A failed step's deferred weight trap: bit 4 and the issuing core's bit (R305). -/
def State.stepFail (s : State) (o : Op) : State :=
  s.failOp o cWeightInvalid (BitVec.ofNat 32 (16 + 2 ^ (o.core % 4)))

def execMmaStep (op : Nat) (s : State) : Out :=
  .next (match s.opAt op with
    | some o =>
      match o.kind with
      | .mma zero fmt tile ba acts =>
        if s.opFree o && s.firstStep o then
          match s.stepTile o fmt ba with
          | some w => s.stepRun o zero fmt tile ba acts w
          | none => s.stepFail o
        else s
      | _ => s
    | none => s)

/-! ## Accumulator words (R308 to R311) -/

/-- R308: ACCWR, ACCZ, ACCCVT, ACCALLOC and ACCFREE wait for them. -/
def waitSteps (t : Nat) : M Unit := do
  let s ← get
  if s.stepsOn s.cur.ctx t then throw (.hold (.steps t))

/-- The run of a word's registers, which may not pass v127. -/
def regRun (d n : Nat) : M (List Nat) := if 128 < d + n then illegal else pure (rangeFrom d n)

/-- The accumulator tile of the issuing team, with poison checked. -/
def readTile (t : Nat) : M AccTile := do
  let s ← get
  let tm := s.teamAt s.cur.ctx
  let lo := 4096 * tm.accAt + 32768 * t
  if tm.poison.any fun a => decide (lo ≤ a) && decide (a < lo + 32768) then throw (.fault (plainFault cDataPoison 0))
  pure (tm.acc.getD t AccTile.reset)

/-- Change a tile of the issuing team. -/
def setTile (t : Nat) (f : AccTile → AccTile) : M Unit :=
  modify fun s => s.mapTeam s.cur.ctx fun tm => { tm with acc := modifyAt tm.acc t f }

def accrdWord (d : BitVec 7) (g t : BitVec 3) (cr : BitVec 5) : M Unit := do
  let run ← regRun d.toNat 16
  let c ← vctx
  checkRegs run []
  needTile t.toNat false
  let a ← readTile t.toNat
  (upTo 16).forM fun j => c.write (d.toNat + j) fun m => look a.elems (128 * m + 16 * g.toNat + j) 0
  modify fun s => s.writeS cr.toNat (a.count.setWidth 64)

def execAccrd (d : BitVec 7) (g : BitVec 3) (t : BitVec 3) (c : BitVec 5) (s : State) : Out :=
  .next (runWord ⟨6, false⟩ (accrdWord d g t c) s)

def accwrWord (d : BitVec 7) (g t : BitVec 3) : M Unit := do
  let run ← regRun d.toNat 16
  checkBounds run
  tileExists t.toNat
  needFullMask
  checkRegs run run
  needTile t.toNat false
  waitSteps t.toNat
  let gr ← curGroup
  setTile t.toNat fun a =>
    (upTo gr.width).foldl (fun a m =>
      (upTo 16).foldl (fun a j => a.putElem (128 * m + 16 * g.toNat + j) (gr.lane (d.toNat + j) m)) a) a

def execAccwr (d : BitVec 7) (g : BitVec 3) (t : BitVec 3) (s : State) : Out :=
  .next (runWord ⟨6, false⟩ (accwrWord d g t) s)

/-- A tile set to zero loses its poison. -/
def zeroTile (t : Nat) (alloc : Bool) : M Unit := do
  setTile t fun a => { alloc := a.alloc || alloc, count := 0, elems := [] }
  modify fun s => s.mapTeam s.cur.ctx fun tm =>
    { tm with poison := tm.poison.filter fun a =>
        !(decide (4096 * tm.accAt + 32768 * t ≤ a) && decide (a < 4096 * tm.accAt + 32768 * t + 32768)) }

def execAccz (t : BitVec 3) (s : State) : Out :=
  .next (runWord ⟨6, false⟩ (do
    needTile t.toNat false
    waitSteps t.toNat
    zeroTile t.toNat false) s)

def execAccalloc (t : BitVec 3) (s : State) : Out :=
  .next (runWord ⟨6, false⟩ (do
    needTile t.toNat true
    waitSteps t.toNat
    let s ← get
    if ((s.teamAt s.cur.ctx).acc.getD t.toNat AccTile.reset).alloc then pure () else zeroTile t.toNat true) s)

def execAccfree (t : BitVec 3) (s : State) : Out :=
  .next (runWord ⟨6, false⟩ (do
    needTile t.toNat true
    waitSteps t.toNat
    setTile t.toNat fun _ => AccTile.reset) s)

/-- ACCCVT (R310): accumulators are not subject to DAZ (R192). -/
def acccvtWord (d : BitVec 7) (g t : BitVec 3) (si : BitVec 1) (f : BitVec 4) : M Unit := do
  let dst := numFmt f.toNat
  if !([1, 2, 3, 4, 6, 8].contains f.toNat) then illegal
  let n := dst.width / 2
  let run ← regRun d.toNat n
  let c ← vctx
  checkRegs run []
  needTile t.toNat false
  waitSteps t.toNat
  let a ← readTile t.toNat
  let s ← get
  let src : NumFmt := if si = 1 then .int 32 else .flt .fp32
  let one (m e : Nat) : FRes :=
    convert { s.fenv c (ftzFmt dst) m e with daz := false } src dst (look a.elems (128 * m + 16 * g.toNat + e) 0).toNat
  let res := c.lanes.map fun m => (m, (upTo 16).map (one m))
  fpFlags c (cvtRounds src dst) (res.map fun (m, rs) => (m, rs.foldl (fun x r => x ||| r.flags) 0))
  let per := 32 / dst.width
  (upTo n).forM fun j => c.write (d.toNat + j) fun m => packElems dst.width ((((look res m []).drop (per * j)).take per).map (·.bits))

def execAcccvt (d : BitVec 7) (g : BitVec 3) (t : BitVec 3) (s : BitVec 1) (f : BitVec 4) (st : State) : Out :=
  .next (runWord ⟨6, false⟩ (acccvtWord d g t s f) st)

end Sys2Proof.Machine
end

