-- ==== Sys2Proof/Machine/Copy.lean ====
section
/-!
DEFINITION. The BXE: copy descriptors and their checks (R287 to R289, R291, R292, Tables 11-9, 11-11, 11-12), the
copy words, chunks and completion (R290), line buffers (R293), CHKW (R294), and slices presented again on
resume (R368).
-/

namespace Sys2Proof.Machine

/-! ## Descriptors -/

/-- Fields at the same offsets in every form (R287). -/
def dNum (d : List Byte) (off n : Nat) : Nat := ofLe ((d.drop off).take n)
def dFrom (d : List Byte) : DWord := BitVec.ofNat 64 (dNum d 0 8)
def dTo (d : List Byte) : DWord := BitVec.ofNat 64 (dNum d 8 8)
def dBitmap (d : List Byte) : Nat := dNum d 0x28 4
def dSlices (d : List Byte) : Nat := dNum d 0x2C 1
def dCtl (d : List Byte) : Nat := dNum d 0x2D 1
def dArrive (d : List Byte) : Nat := dNum d 0x30 8
def dFspace (d : List Byte) : Nat := dCtl d % 4
def dTspace (d : List Byte) : Nat := dCtl d / 4 % 4

/-- CPYIM's fields (Table 11-11). -/
def imElem (d : List Byte) : Nat := 2 ^ (dCtl d / 64)
def imN (d : List Byte) : Nat := dNum d 0x10 2
def imH (d : List Byte) : Nat := dNum d 0x12 2
def imW (d : List Byte) : Nat := dNum d 0x14 2
def imC (d : List Byte) : Nat := dNum d 0x16 2
def imFH (d : List Byte) : Nat := dNum d 0x18 1
def imFW (d : List Byte) : Nat := dNum d 0x19 1

/-- The destination tile: rows, bytes of a row, and pitch. -/
def copyRows (kind : Nat) (d : List Byte) : Nat := if kind = 1 then dNum d 0x2E 2 else dNum d 0x14 4
def copyRowBytes (kind : Nat) (d : List Byte) : Nat :=
  if kind = 1 then imFH d * imFW d * imC d * imElem d else dNum d 0x10 4
def copyPitch (kind : Nat) (d : List Byte) : Nat := if kind = 1 then dNum d 0x3C 4 else dNum d 0x20 8
def copyBytes (kind : Nat) (d : List Byte) : Nat := copyRows kind d * copyRowBytes kind d
def copyChunks (kind : Nat) (d : List Byte) : Nat := (copyBytes kind d + 511) / 512

/-- CPYGT's index of a row, read after the descriptor's 64 bytes. -/
def gtIndex (d : List Byte) (j : Nat) : Nat := dNum d (64 + 4 * j) 4

/-- Where row j of CPY or CPYGT starts in the source: none for a row that CPYGT fills with zero (R290, R291). -/
def srcRow (kind : Nat) (d : List Byte) (j : Nat) : Option DWord :=
  let at' (i : Nat) : DWord := BitVec.ofNat 64 ((dFrom d).toNat + i * dNum d 0x18 8)
  if kind = 2 then (if gtIndex d j = 0xFFFFFFFF then none else some (at' (gtIndex d j))) else some (at' j)

/-- Where row j lands. -/
def dstRow (kind : Nat) (d : List Byte) (j : Nat) : DWord := BitVec.ofNat 64 ((dTo d).toNat + j * copyPitch kind d)

/-- Fields that CPYIM limits (Table 11-11). -/
def imLimits (d : List Byte) : Bool :=
  let small (off : Nat) : Bool := decide (1 ≤ dNum d off 1) && decide (dNum d off 1 ≤ 16)
  [0x10, 0x12, 0x14, 0x16, 0x20, 0x22].all (fun off => decide (1 ≤ dNum d off 2)) &&
  [0x18, 0x19, 0x1A, 0x1B, 0x1C, 0x1D].all small &&
  decide (1 ≤ dNum d 0x2E 2) && decide (dNum d 0x2E 2 ≤ 4096) && !bitAt (dCtl d) 5 && dCtl d / 64 != 3 && dFspace d == 0 &&
  decide (copyRowBytes 1 d ≤ copyPitch 1 d)

/-- Space codes, and fields that must be zero (Table 11-12). -/
def fieldsOk (kind : Nat) (d : List Byte) : Bool :=
  dFspace d != 3 && decide (dTspace d < 2) &&
    (if kind = 1 then imLimits d
     else dCtl d / 32 == 0 && dNum d 0x2E 2 == 0 && dNum d 0x3C 4 == 0 && (kind == 2 || dNum d 0x38 4 == 0) &&
       decide (copyBytes kind d ≤ 16777216))

/-- The bitmap lies in the staging and shared regions (Table 11-12). An empty copy has no chunk, and its BITMAP is not
checked (DESIGN CHOICE, log 135). -/
def bitmapOk (t : Team) (kind : Nat) (d : List Byte) : Bool :=
  let b := dBitmap d
  b == 0 || copyChunks kind d == 0 || (b % 8 == 0 && t.inData b ((copyChunks kind d + 7) / 8))

/-- Every pool row lies in the staging and shared regions (Table 11-12); an empty copy has no row to check (DESIGN CHOICE,
log 135). -/
def rowsOk (t : Team) (kind : Nat) (d : List Byte) : Bool :=
  copyBytes kind d == 0 ||
    (upTo (copyRows kind d)).all fun j =>
      (dTspace d != 1 || t.inData (dstRow kind d j).toNat (copyRowBytes kind d)) &&
      (dFspace d != 1 ||
        match srcRow kind d j with
        | some a => t.inData a.toNat (copyRowBytes kind d)
        | none => true)

/-- CPYGT's index array lies in the staging and shared regions (R291); that of an empty copy is not read or checked (DESIGN
CHOICE, log 135). -/
def indexOk (t : Team) (kind : Nat) (d : List Byte) : Bool :=
  kind != 2 || copyBytes kind d == 0 || (dNum d 0x38 4 % 4 == 0 && t.inData (dNum d 0x38 4) (4 * copyRows kind d))

/-- The slice that a word names (Table 11-12); ARRIVE is checked unless the slice is presented again (R368). -/
def sliceOk (d : List Byte) (i : Nat) (arrive : Bool) : Bool :=
  decide (1 ≤ dSlices d) && decide (dSlices d ≤ 32) && decide (i < dSlices d) && !(arrive && bitAt (dArrive d) i)

/-- The reading of a descriptor by a team: its bytes, with CPYGT's indices after them; none where Table 11-12 gives
DESCRIPTOR. `see` reads the team's window. -/
def readCopy (t : Team) (see : Nat → Nat → List Byte) (kind off i : Nat) (arrive : Bool) : Option (List Byte) :=
  if off % 64 = 0 ∧ t.inData off 64 then
    let d := see off 64
    if sliceOk d i arrive && fieldsOk kind d && bitmapOk t kind d && indexOk t kind d then
      let d := if kind = 2 ∧ copyBytes kind d ≠ 0 then d ++ see (dNum d 0x38 4) (4 * copyRows kind d) else d
      if rowsOk t kind d then some d else none
    else none
  else none

/-! ## Arrival (R289) -/

/-- The copy of a team that waits for slices at a descriptor offset. -/
def State.waitingCopy (s : State) (ctx off : Nat) : Option Copy :=
  s.copies.find? fun c => c.ctx == ctx && c.offset == off && c.node.isNone && !c.started

def State.mapCopy (s : State) (id : Nat) (f : Copy → Copy) : State :=
  { s with copies := s.copies.map fun c => if c.id = id then f c else c }

def State.removeCopy (s : State) (id : Nat) : State := { s with copies := s.copies.filter fun c => c.id != id }

/-- The copy that waits at an offset, made when there is none. -/
def State.openCopy (s : State) (ctx off : Nat) : Copy × State :=
  match s.waitingCopy ctx off with
  | some c => (c, s)
  | none =>
    let c : Copy :=
      { id := s.stamp, ctx := ctx, node := none, offset := off, kind := 0, desc := [], parts := [], started := false,
        chunks := [], prior := [], impure := false, parked := none }
    (c, { s with copies := s.copies ++ [c], stamp := s.stamp + 1 })

/-- The BXE starts a copy by a reading (R289, R290): ARRIVE is cleared, and CPYIM takes the line buffers of its
descriptor offset unless FR = 1 (R293). -/
def State.startCopy (s : State) (c : Copy) (kind : Nat) (d : List Byte) : State :=
  let s := if c.node.isNone then s.poolWrite c.ctx (c.offset + 0x30) (leBytes 8 0) else s
  let prior := if kind = 1 ∧ !bitAt (dCtl d) 4 then look (s.teamAt c.ctx).lines c.offset [] else []
  let s := if kind = 1 then s.mapTeam c.ctx fun t => { t with lines := put t.lines c.offset [] } else s
  s.mapCopy c.id fun c =>
    { c with kind := kind, desc := d, started := true, chunks := upTo (copyChunks kind d), prior := prior }

/-- A slice is recorded: ARRIVE takes its bit, its operation is under way, and the last one starts the copy. -/
def State.arriveSlice (s : State) (ctx : Nat) (x : Slice) (d : List Byte) : State :=
  let v := dArrive d ||| 2 ^ x.index
  let s := s.poolWrite ctx (x.offset + 0x30) (leBytes 8 v)
  let (c, s) := s.openCopy ctx x.offset
  let s := s.addOp ctx x.grp x.flag (.copy c.id) ({}, {})
  let s := s.mapCopy c.id fun c => { c with parts := c.parts ++ [x] }
  if v % 2 ^ dSlices d = 2 ^ dSlices d - 1 then s.startCopy c x.kind d else s

/-- A copy word: the checks, the flag, what R113 does first, and the arrival. -/
def copyWord (kind : Nat) (f : BitVec 1) (dr : BitVec 5) (b : BitVec 8) : M Unit := do
  needFullMask
  let s ← get
  let ctx := s.cur.ctx
  let off := (s.curGroup.readS dr.toNat).toNat
  let i := (s.selS b).toNat
  if s.moving ctx then throw (.hold .moving)
  let see (a n : Nat) : List Byte := s.ownBytes ctx s.cur.grp true a (s.poolBytes ctx a n)
  match readCopy (s.teamAt ctx) see kind off i true with
  | none => trapWord cDescriptor 0
  | some d =>
    let _ ← readPool off 64
    let flag ← countFlag f
    modify fun s =>
      (s.engineIssue ctx s.cur.grp (dFspace d == 0 || dTspace d == 0)).arriveSlice ctx
        { offset := off, index := i, grp := s.cur.grp, kind := kind, flag := flag, weight := s.weight 7 } d

def execCpy (f : BitVec 1) (d : BitVec 5) (b : BitVec 8) (s : State) : Out :=
  .next (runWord noEnergy (copyWord 0 f d b) s)

def execCpyim (f : BitVec 1) (d : BitVec 5) (b : BitVec 8) (s : State) : Out :=
  .next (runWord noEnergy (copyWord 1 f d b) s)

def execCpygt (f : BitVec 1) (d : BitVec 5) (b : BitVec 8) (s : State) : Out :=
  .next (runWord noEnergy (copyWord 2 f d b) s)

/-! ## Cancelled slices (R368) -/

/-- At a save, a copy that awaits slices is cancelled; its slices are recorded and their flags stay counted. -/
def State.cancelCopies (s : State) (ctx : Nat) : State :=
  let cs := s.copies.filter fun c => c.ctx == ctx && c.node.isNone && !c.started
  cs.foldl (fun s c =>
    let s : State := { s with ops := s.ops.filter fun (o : Op) => o.kind != .copy c.id }
    (s.removeCopy c.id).mapTeam ctx fun t => { t with pendingSlices := t.pendingSlices ++ c.parts }) s

/-- A recorded slice is presented again: one that fails a check is dropped, with a deferred DESCRIPTOR. -/
def State.presentSlice (s : State) (ctx : Nat) (x : Slice) : State :=
  match readCopy (s.teamAt ctx) (s.poolBytes ctx) x.kind x.offset x.index false with
  | some d => s.arriveSlice ctx x d
  | none =>
    let id := s.stamp
    let s := s.addOp ctx x.grp x.flag .cacheHint ({}, {})
    match s.opAt id with
    | some o => s.failOp o cDescriptor 0
    | none => s

/-- Every recorded slice is presented, in their order. -/
def State.presentSlices (s : State) (ctx : Nat) : State :=
  (s.teamAt ctx).pendingSlices.foldl (fun s x => s.presentSlice ctx x) (s.mapTeam ctx fun t => { t with pendingSlices := [] })

/-! ## Chunks (R290 to R293) -/

/-- What a run of destination bytes takes: given bytes, or those at a source address. -/
inductive CopySrc where
  | fill (bs : List Byte)
  | source (a : DWord)
  deriving DecidableEq, Repr

/-- A run of destination bytes. -/
structure CopyRun where
  dst : DWord
  len : Nat
  src : CopySrc
  deriving DecidableEq, Repr

/-- The source of element `e` of output pixel `p` of CPYIM: none where it is padding (R292). -/
def imSource (d : List Byte) (p e : Nat) : Option (Nat × Nat) :=
  let ow := dNum d 0x22 2
  let oh := dNum d 0x20 2
  let n := p / (oh * ow)
  let ch := e % imC d
  let fx := e / imC d % imFW d
  let fy := e / imC d / imFW d
  let iy : Int := (p / ow % oh * dNum d 0x1A 1 : Nat) - (dNum d 0x1E 1 : Int) + (fy * dNum d 0x1C 1 : Nat)
  let ix : Int := (p % ow * dNum d 0x1B 1 : Nat) - (dNum d 0x1F 1 : Int) + (fx * dNum d 0x1D 1 : Nat)
  if imN d ≤ n ∨ iy < 0 ∨ (imH d : Int) ≤ iy ∨ ix < 0 ∨ (imW d : Int) ≤ ix then none
  else
    let row := (n * imH d + iy.toNat) * imW d * imC d
    some (row, row + ix.toNat * imC d + ch)

/-- The runs of bytes `lo` to `hi - 1` of row `j`. -/
def rowRuns (kind : Nat) (d : List Byte) (j lo hi : Nat) : List CopyRun :=
  let dst (k : Nat) : DWord := dstRow kind d j + BitVec.ofNat 64 k
  if kind = 1 then
    let e := imElem d
    (rangeFrom (lo / e) ((hi - 1) / e + 1 - lo / e)).map fun k =>
      let a := max lo (k * e)
      let n := min hi (k * e + e) - a
      { dst := dst a
        len := n
        src := match imSource d (dNum d 0x24 4 + j) k with
          | some (_, i) => .source (BitVec.ofNat 64 ((dFrom d).toNat + e * i + (a - k * e)))
          | none => .fill (((d.drop 0x38).drop (a - k * e)).take n) }
  else
    [{ dst := dst lo
       len := hi - lo
       src := match srcRow kind d j with
         | some a => .source (a + BitVec.ofNat 64 lo)
         | none => .fill (List.replicate (hi - lo) 0) }]

/-- The runs of chunk `c`: tile bytes 512c to 512c + 511, packed row by row. -/
def chunkRuns (kind : Nat) (d : List Byte) (c : Nat) : List CopyRun :=
  let rb := copyRowBytes kind d
  let lo := 512 * c
  let hi := min (copyBytes kind d) (lo + 512)
  if hi ≤ lo then []
  else (rangeFrom (lo / rb) ((hi - 1) / rb + 1 - lo / rb)).flatMap fun j =>
    rowRuns kind d j (max lo (j * rb) - j * rb) (min hi (j * rb + rb) - j * rb)

/-- The operations of a copy's slices, in the order of their arrival. -/
def State.copyOps (s : State) (c : Copy) : List Op := s.ops.filter fun o => o.kind == .copy c.id

/-- The operation of the slice that arrived last: by its reading the BXE copies (R289). -/
def State.lastSlice (s : State) (c : Copy) : Nat := ((s.copyOps c).getLast?.map (·.id)).getD 0

/-- The tenant function and the core for whose translations the BXE copies: the Keeper's for a copy node. -/
def State.copyHome (s : State) (c : Copy) : Nat × Nat :=
  match c.node with
  | some l => ((s.launchAt l).tf.toNat, keeperCore)
  | none => (s.tfOf c.ctx, ((s.copyOps c).getLast?.map (·.core)).getD (s.coreOf c.ctx))

/-- Whether the BXE takes a run of CPYIM from its line buffers (R293): they hold it, and Kutil chooses them for
the input row. -/
def lineHit (c : Copy) (a : DWord) (n : Nat) : Option (List Byte) :=
  let d := c.desc
  let row := (a - dFrom d).toNat / (imElem d * imW d * imC d)
  if c.kind = 1 ∧ Config.choice (c.id * 2 ^ 40 + row) % 2 = 1 then
    (upTo n).mapM fun i => (c.prior.find? fun x => x.1 == (a + BitVec.ofNat 64 i).toNat).map (·.2)
  else none

/-- The context for which a copy walks: none for a node's. -/
def Copy.who (c : Copy) : Option Nat := if c.node.isNone then some c.ctx else none

/-- The bytes that a run takes. -/
def runSource (c : Copy) (r : CopyRun) : M (List Byte) := do
  match r.src with
  | .fill bs => pure bs
  | .source a =>
    match dFspace c.desc with
    | 0 =>
      match lineHit c a r.len with
      | some bs => pure bs
      | none =>
        let (t, core) := (← get).copyHome c
        let bs ← engineRead t core c.who a r.len
        pure bs
    | 1 => poolRead c.ctx ((← get).lastSlice c) a.toNat r.len
    | _ =>
      let (t, core) := (← get).copyHome c
      clusterBytes core t a r.len

/-- Whether a run's access to tenant memory violates purity (R345). -/
def State.runImpure (s : State) (c : Copy) (r : CopyRun) : Bool :=
  c.node.isNone &&
    ((dTspace c.desc == 0 && s.engineImpure c.ctx true r.dst r.len) ||
     (match r.src with
      | .source a =>
        (dFspace c.desc == 0 && s.engineImpure c.ctx false a r.len) ||
        (dFspace c.desc == 2 && (s.launchOf c.ctx).isPure &&
          (match s.clusterRun c.ctx a r.len with
           | some run => run.any fun x => x.1 != c.ctx
           | none => true))
      | .fill _ => false))

/-- A run with its bytes and where they go. -/
structure CopyWrite where
  run   : CopyRun
  data  : List Byte
  place : List (Nat × List Byte)
  deriving DecidableEq, Repr

/-- A run read and its destination translated: none where purity leaves it out. -/
def planRun (c : Copy) (r : CopyRun) : M (Option CopyWrite) := do
  if ← enginePure c.ctx ((← get).runImpure c r) then
    modify fun s => s.mapCopy c.id fun c => { c with impure := true }
    pure none
  else
    let bs ← runSource c r
    let (t, core) := (← get).copyHome c
    let w ← if dTspace c.desc = 0 then enginePlan t core c.who r.dst bs else pure []
    pure (some { run := r, data := bs, place := w })

/-- The bytes of one run perform, and CPYIM's line buffers keep what was read. -/
def putRun (c : Copy) (w : CopyWrite) : M Unit := do
  let s ← get
  let own : Writer := match c.node with
    | some l => { tf := (s.launchAt l).tf.toNat, launch := some l, ctx := none }
    | none => s.writer c.ctx
  if dTspace c.desc = 0 then enginePut [own] w.place
  else modify fun s => s.poolWriteFor c.ctx (s.lastSlice c) w.run.dst.toNat w.data
  match w.run.src with
  | .source a =>
    if c.kind = 1 then
      modify fun s => s.mapTeam c.ctx fun t =>
        { t with lines := put t.lines c.offset (look t.lines c.offset [] ++ (rangeFrom a.toNat w.run.len).zip w.data) }
  | .fill _ => pure ()

/-- A launch's own counter (R357). -/
def Launch.chargeUnits (l : Launch) (units : Nat) : Launch := { l with energy := l.energy + units }

/-- What class 7 weighed when the word of a copy's last-arriving slice issued (R347). -/
def Copy.weight (c : Copy) : Nat := (c.parts.getLast?.map (·.weight)).getD 0

/-- A chunk that has moved charges class 7 (Table 15-3): to the context, or to the node's launch, for which no word
issued. -/
def State.chargeChunk (s : State) (c : Copy) : State :=
  match c.node with
  | some l => s.mapLaunch l fun x => x.chargeUnits (s.weight 7)
  | none => s.chargeUnits c.ctx c.weight

/-- The bit of a chunk, set by a pool OR; before the last one CPYIM's PSTART moves on (R290, R292). -/
def State.setChunk (s : State) (c : Copy) (k : Nat) : State :=
  let d := c.desc
  let op := s.lastSlice c
  let s := if c.kind = 1 ∧ c.chunks = [k] then
      s.poolWriteFor c.ctx op (c.offset + 0x24) (leBytes 4 (dNum d 0x24 4 + dNum d 0x2E 2)) else s
  let s := if dBitmap d = 0 then s
    else
      let a := dBitmap d + k / 8
      s.poolWriteFor c.ctx op a [(s.teamAt c.ctx).byte (some op) a ||| BitVec.ofNat 8 (2 ^ (k % 8))]
  (s.chargeChunk c).mapCopy c.id fun c => { c with chunks := c.chunks.filter (· != k) }

/-- One chunk performs. -/
def chunkStep (c : Copy) (k : Nat) : M Unit := do
  let ws ← (chunkRuns c.kind c.desc k).mapM (planRun c)
  ws.forM fun w => match w with
    | some w => putRun c w
    | none => pure ()
  modify fun s => s.setChunk c k

/-- A copy stops at a missing page (R139, R290): of a team as its engine's access, of a node as the Keeper's. -/
def State.parkCopy (s : State) (c : Copy) (f : FaultInfo) : Option Park × State :=
  let f := { f with acc := f.acc ||| 0x20 }
  match c.node with
  | some l => s.parkKeeper (s.launchAt l).tf.toNat (s.launchAt l).num f
  | none =>
    let (t, core) := s.copyHome c
    if s.parks t then
      let g := BitVec.ofNat 8 ((c.parts.head?.map (·.grp)).getD 0xFF)
      let (k, s) := s.parkAt t (Config.sectorOf core) core f (s.ctxRecord c.ctx g f 0 true)
      (some k, s)
    else (none, s)

/-- A fault of a copy ends its team, or its node; the copy of a hit gives way to the task itself (R343). The copy and
its operations are over. -/
def State.faultCopy (s : State) (c : Copy) (f : FaultInfo) : State :=
  let f := { f with acc := f.acc ||| 0x20 }
  let s : State := match c.node with
    | some l =>
      let x := s.launchAt l
      if x.reuse then s.runAsMiss l
      else (s.addRecord x.tf.toNat (keeperRecord x.num f 0 false) (some l) true).killLaunch l none f.cause
    | none => s.faultCtx c.ctx (BitVec.ofNat 8 ((c.parts.head?.map fun x => x.grp).getD 0xFF)) f
  ((s.copyOps c).foldl (fun s o => s.removeOp o.id) s).removeCopy c.id

def State.stopCopy (s : State) (c : Copy) : Stop → State
  | .miss f =>
    match s.parkCopy c f with
    | (some k, s) => s.mapCopy c.id fun c => { c with parked := some k }
    | (none, s) => s.faultCopy c f
  | .fault f => s.faultCopy c f
  | _ => s

/-- A copy whose chunk may perform now. -/
def State.copyWith (s : State) (id chunk : Nat) : Option Copy :=
  s.copies.find? fun c =>
    c.id == id && c.started && c.parked.isNone && c.chunks.contains chunk &&
      (match c.node with | some l => !s.delayed (s.launchAt l) | none => true)

def execBxeChunkComplete (copy chunk : Nat) (s : State) : Out :=
  .next (match s.copyWith copy chunk with
    | some c =>
      match chunkStep c chunk s with
      | .ok _ t => t
      | .error st t => t.stopCopy c st
    | none => s)

/-- A copy that has performed, whose participants' flags can be counted. -/
def State.copyDone (s : State) (id : Nat) : Option Copy :=
  s.copies.find? fun c => c.id == id && c.started && c.chunks.isEmpty && c.node.isNone && (s.copyOps c).all s.opFree

/-- Every participant's flag completes (R289), one that wrote tenant memory for the wait of R113; a violation that was
left out is taken as a deferred PURITY (R346). -/
def State.endCopy (s : State) (c : Copy) : State :=
  let wrote := decide (dTspace c.desc = 0) && copyBytes c.kind c.desc != 0
  ((s.copyOps c).foldl (fun s o =>
    let s := if wrote then s.landOp o else s
    if c.impure then s.failOp o cPurity 0 else s.finishOp o) s).removeCopy c.id

def execCopyComplete (copy : Nat) (s : State) : Out :=
  .next (match s.copyDone copy with
    | some c => s.endCopy c
    | none => s)

/-! ## CHKW (R294) -/

/-- The checks of CHKW, and whether every bit of the mask is set. -/
def chkwLook (off : DWord) (mask : DWord) : M Bool := do
  if off.toNat % 8 != 0 then trapWord cMisaligned 8
  let s ← get
  if !s.poolSpan off 8 then throw (.fault (addrFault cProtection off 0x01))
  if s.moving s.cur.ctx then throw (.hold .moving)
  let w := BitVec.ofNat 64 (ofLe (← readPool off.toNat 8))
  pure (w &&& mask == mask)

/-- A pass acts as the flag wait of R113. -/
def chkwAcquire : M Unit := modify fun s => s.acquireActions s.cur.ctx 2

def chkwWord (d : BitVec 5) (b : BitVec 8) : M Unit := do
  firstWord
  let s ← get
  let off := s.curGroup.readS d.toNat
  let mask := s.selS b
  if ← chkwLook off mask then chkwAcquire else throw (.wait (.chkw off.toNat mask))

def execChkw (d : BitVec 5) (b : BitVec 8) (s : State) : Out := .next (runWord ⟨7, false⟩ (chkwWord d b) s)

def chkwTWord (d a : BitVec 5) (b : BitVec 8) : M Unit := do
  let s ← get
  let ok ← chkwLook (s.curGroup.readS d.toNat) (s.selS b)
  if ok then chkwAcquire
  modify fun s => s.writeS a.toNat (ofBool64 ok)

def execChkwT (d : BitVec 5) (a : BitVec 5) (b : BitVec 8) (s : State) : Out :=
  .next (runWord ⟨7, false⟩ (chkwTWord d a b) s)

/-- A waiting CHKW looks at its word again. -/
def chkwAgain (off : Nat) (mask : DWord) : M Bool := do
  let ok ← chkwLook (BitVec.ofNat 64 off) mask
  if ok then chkwAcquire
  pure ok

def execChkwPass (p : PartyRef) (s : State) : Out :=
  .next (match (s.partyOf p).wait with
    | .chkw off mask => if (s.partyOf p).stopped then s else s.lookAgain p (chkwAgain off mask)
    | _ => s)

end Sys2Proof.Machine
end

