-- ==== Sys2Proof/Machine/Collective.lean ====
section
/-!
DEFINITION. Collective send and receive (R296 to R298, R400, Table 11-14).
-/

namespace Sys2Proof.Machine

/-! ## The descriptor (Table 11-14) -/

def cBuf (d : List Byte) : DWord := BitVec.ofNat 64 (dNum d 0 8)
def cBytes (d : List Byte) : Nat := dNum d 8 4
def cSlot (d : List Byte) : Nat := dNum d 0xC 4
def cOp (d : List Byte) : Nat := dNum d 0x10 1

def collectiveOk (d : List Byte) : Bool :=
  decide (4 ≤ cBytes d) && decide (cBytes d ≤ 16777216) && cBytes d % 4 == 0 && decide (cSlot d < 2 ^ 24) &&
    decide (cOp d ≤ 6) && dNum d 0x11 3 == 0 && (d.drop 0x18).all (· == 0)

/-- The slot entry serves this slot for a tenant function (R400). -/
def State.slotServes (s : State) (t slot : Nat) : Bool :=
  let e := look s.slotTab (slot % 4096) SlotEntry.reset
  e.en && e.slot.toNat == slot && e.tf.toNat == t

/-- The reading and the checks of CSEND and CRECV at issue: the descriptor's offset and bytes. -/
def collectiveDesc (dr : BitVec 7) : M (Nat × List Byte) := do
  impure
  needFullMask
  let s ← get
  let off := (s.curGroup.readS dr.toNat).toNat
  if s.moving s.cur.ctx then throw (.hold .moving)
  if !(off % 64 == 0 && (s.teamAt s.cur.ctx).inData off 64) then trapWord cDescriptor 3
  let d ← readPool off 64
  if !collectiveOk d then trapWord cDescriptor 3
  pure (off, d)

/-- CSEND and CRECV issue: an operation of kind `k`, or, without a slot, an end with STATUS ABORTED (R400). The
operation's number, when it goes on. -/
def collectiveIssue (f : BitVec 1) (dr : BitVec 7) (k : Nat → List Byte → OpKind) : M (Option Nat) := do
  let (off, d) ← collectiveDesc dr
  let flag ← countFlag f
  let s ← get
  let id := s.stamp
  let s := (s.engineIssue s.cur.ctx s.cur.grp true).addOp s.cur.ctx s.cur.grp flag (k off d) ({}, {})
  if s.slotServes (s.tfOf s.cur.ctx) (cSlot d) then
    set s
    pure (some id)
  else
    match s.opAt id with
    | some o => set (s.collectiveEnd o off 2)
    | none => pure ()
    pure none

/-- The chunks of 512 bytes that a collective has moved charge class 7 (Table 15-3), as it weighed at issue (R347). -/
def State.chargeMoved (s : State) (o : Op) (bytes : Nat) : State := s.chargeUnits o.ctx (o.weight * ((bytes + 511) / 512))

/-! ## CSEND (R297, R119) -/

/-- The source of a CSEND page by page, each with its length. -/
def sendPages (buf : DWord) (bytes : Nat) : List (DWord × Nat) :=
  (cutAt 4096 (bytes / 4096 + 2) buf.toNat (List.replicate bytes 0)).map fun x => (BitVec.ofNat 64 x.1, x.2.length)

/-- The bytes of a page of a source, or the missing page that stops them. -/
def sendPage (t core : Nat) (who : Option Nat) (x : DWord × Nat) : M (Except FaultInfo (List Byte)) := fun s =>
  match engineRead t core who x.1 x.2 s with
  | .ok bs s => .ok (.ok bs) s
  | .error (.miss f) s => .ok (.error f) s
  | .error st s => .error st s

/-- CSEND's data as it stands at issue: each page that is there is read, and one that is missing when it comes (R119,
R139). -/
def takePages (o : Op) (slot op : Nat) (buf : DWord) (bytes : Nat) (data : List (Option (List Byte))) (desc : Nat) : M Unit := do
  let t := (← get).tfOf o.ctx
  let got ← ((sendPages buf bytes).zip (upTo (bytes / 4096 + 2))).mapM fun (x, i) =>
    match data.getD i none with
    | some bs => pure (Except.ok bs)
    | none => sendPage t o.core (some o.ctx) x
  modify fun s => s.mapOp o.id fun o => { o with kind := .csend slot op buf bytes (got.map Except.toOption) desc }
  got.forM fun x => match x with
    | .error f => throw (.miss f)
    | .ok _ => pure ()

/-- The data of a CSEND, once every page of it has been read. -/
def sentBytes (data : List (Option (List Byte))) : Option (List Byte) :=
  if data.isEmpty then none else (data.mapM id).map List.flatten

/-- CSEND reads what it has not read yet of its source. -/
def State.takeData (s : State) (id : Nat) : State :=
  s.runOp id fun o => match o.kind with
    | .csend slot op buf bytes data desc => if (sentBytes data).isNone then some (takePages o slot op buf bytes data desc) else none
    | _ => none

def csendWord (f : BitVec 1) (d : BitVec 7) : M Unit := do
  match ← collectiveIssue f d fun off d => .csend (cSlot d) (cOp d) (cBuf d) (cBytes d) [] off with
  | some id => modify fun s => s.takeData id
  | none => pure ()

def execCsend (f : BitVec 1) (d : BitVec 7) (s : State) : Out := .next (runWord noEnergy (csendWord f d) s)

/-- The fabric takes this device's contribution to a slot when no reduction to which it has contributed is in progress
there (R297). Where this device receives nothing from the slot, it learns of that reduction's end from the fabric
alone. -/
def State.slotTakes (s : State) (slot : Nat) : Bool × State :=
  if !(s.taken.any fun x => x.1 == slot) then (true, s)
  else if s.ops.any fun o => match o.kind with | .crecv k .. => k == slot | _ => false then (false, s)
  else
    let (n, s) := s.draw
    (Config.choice n % 2 == 1, s)

/-- The fabric takes the data of a CSEND: STATUS, then the flag. Fabric traffic needs VEN = 1 (R398). -/
def State.sendData (s : State) (o : Op) : State :=
  match o.kind with
  | .csend slot op _ bytes data desc =>
    match sentBytes data with
    | some bs =>
      if s.ctl.ven && s.opFree o then
        match s.slotTakes slot with
        | (true, s) =>
          let s : State := { s with taken := put s.taken slot bs }
          ((s.toPeer (.contribute slot op bs) [s.writer o.ctx]).chargeMoved o bytes).collectiveEnd o desc 1
        | (false, s) => s
      else s
    | none => s
  | _ => s

def execCsendComplete (op : Nat) (s : State) : Out :=
  .next (
    let s := s.takeData op
    match s.opAt op with
    | some o => s.sendData o
    | none => s)

/-! ## CRECV (R297) -/

def execCrecv (f : BitVec 1) (d : BitVec 7) (s : State) : Out :=
  .next (runWord noEnergy (do
    let _ ← collectiveIssue f d fun off d => .crecv (cSlot d) (cOp d) (cBuf d) (cBytes d) off) s)

/-- Two contributions to one word combine (Table 11-14): wrapping and signed integers; FADD with RNE, subnormals kept;
FMIN and FMAX (R194). -/
def combineWord (op x y : Nat) : Nat :=
  match op with
  | 1 => atomOp 0 4 x y
  | 2 => atomOp 9 4 x y
  | 3 => atomOp 5 4 x y
  | 4 => atomOp 6 4 x y
  | _ => (fMinMax .fp32 (op == 6) (Fmt.fp32.decode false x) (Fmt.fp32.decode false y)).bits

/-- Any NaN of a floating-point combination is the canonical one. -/
def tidyWord (op w : Nat) : Nat :=
  match op with
  | 2 | 5 | 6 => (match Fmt.fp32.decode false w with | .nan _ => Fmt.fp32.canonNan | _ => w)
  | _ => w

/-- The elementwise combination of contributions, in their order. -/
def combineAll (op bytes : Nat) (parts : List (List Byte)) : List Byte :=
  (upTo (bytes / 4)).flatMap fun i =>
    let ws := parts.map fun p => ofLe ((p.drop (4 * i)).take 4)
    leBytes 4 (tidyWord op (ws.tail.foldl (combineWord op) (ws.headD 0)))

/-- All the contributions to a slot, in the order in which they combine: this device's own has its place among the
others, which the fabric chooses. -/
def State.contributions (s : State) (slot : Nat) (others : List (List Byte)) : List (List Byte) × State :=
  match s.taken.find? fun x => x.1 == slot with
  | some x =>
    let (n, s) := s.draw
    let k := Config.choice n % (others.length + 1)
    (others.take k ++ [x.2] ++ others.drop k, s)
  | none => (others, s)

/-- Whether the contributions make a result: one sender's bytes for COPY, and every one of the length asked for. -/
def resultOk (op bytes : Nat) (parts : List (List Byte)) : Bool :=
  !parts.isEmpty && parts.all (fun p => p.length == bytes) && (op != 0 || parts.length == 1)

/-- This device's contribution to a slot is still to be taken: not every contributor has contributed. -/
def State.owes (s : State) (slot : Nat) : Bool :=
  !(s.taken.any fun x => x.1 == slot) && s.ops.any fun o => match o.kind with | .csend k .. => k == slot | _ => false

/-- The result performs at the home slices of BUF; then STATUS, then the flag. -/
def crecvEnd (o : Op) (slot : Nat) (buf : DWord) (desc : Nat) (result : List Byte) : M Unit := do
  let s ← get
  let ps ← enginePlan (s.tfOf o.ctx) o.core (some o.ctx) buf result
  enginePut [s.writer o.ctx] ps
  modify fun s =>
    let s : State := { s with taken := s.taken.filter fun x => x.1 != slot }
    ((s.chargeMoved o result.length).landOp o).collectiveEnd o desc 1

/-- `others` are the contributions of the other devices, as the fabric combines them. -/
def execCrecvComplete (op : Nat) (others : List (List Byte)) (s : State) : Out :=
  .next (s.runOp op fun o => match o.kind with
    | .crecv slot code buf bytes desc =>
      let (parts, t) := s.contributions slot others
      if s.ctl.ven && !s.owes slot && resultOk code bytes parts then
        some (do
          set t
          crecvEnd o slot buf desc (combineAll code bytes parts))
      else none
    | _ => none)

end Sys2Proof.Machine
end

