-- ==== Sys2Proof/Machine/Hyper.lean ====
section
/-!
DEFINITION. The hypervector words (R313 to R323): their checks at issue, and what the HVU does with them in each
group's issue order.
-/

namespace Sys2Proof.Machine

/-! ## Issue -/

/-- Run a word that charges `units` whether it completes or traps (R357, Table 15-3 class 8). -/
def runCharged (units : Nat) (m : M Unit) (s : State) : State :=
  match m s with
  | .ok _ t => (t.chargeUnits s.cur.ctx units).stampIssue.advance
  | .error (.hold h) _ => s.waitCur (.hold h)
  | .error st t => (if t.willPark st then t else t.chargeUnits s.cur.ctx units).stopWord noEnergy s.trapRet st

/-- The charge of one hypervector word of the issuing group. -/
def State.hvUnits (s : State) : Nat := s.weight 8 * (s.curGroup.hdim / 4096)

/-- R313: hypervector and bundle registers below the group's counts. -/
def hvBound (hs bs : List Nat) : M Unit := do
  let g ← curGroup
  match hs.find? fun n => decide (g.h.length ≤ n) with
  | some n => trapWord cRegbound (BitVec.ofNat 32 n)
  | none =>
    match bs.find? fun n => decide (g.b.length ≤ n) with
    | some n => trapWord cRegbound (BitVec.ofNat 32 n)
    | none => pure ()

/-- The HVU accepts a register word. -/
def hvAccept (hs bs : List Nat) (w : State → HvWord) (s : State) : Out :=
  .next (runCharged s.hvUnits (do
    hvBound hs bs
    modify fun s => s.addOp s.cur.ctx s.cur.grp none (.hv (w s)) s.curRegs) s)

def execHvxor (d a b : BitVec 4) (s : State) : Out :=
  hvAccept [d.toNat, a.toNat, b.toNat] [] (fun _ => .xor d.toNat a.toNat b.toNat) s

def execHvmaj3 (d a c b : BitVec 4) (s : State) : Out :=
  hvAccept [d.toNat, a.toNat, b.toNat, c.toNat] [] (fun _ => .maj3 d.toNat a.toNat b.toNat c.toNat) s

def execHvrotS (d a : BitVec 4) (n : BitVec 5) (s : State) : Out :=
  hvAccept [d.toNat, a.toNat] [] (fun s => .rot d.toNat a.toNat (s.curGroup.readS n.toNat)) s

def execHvrotImm (d a : BitVec 4) (n : BitVec 8) (s : State) : Out :=
  hvAccept [d.toNat, a.toNat] [] (fun _ => .rot d.toNat a.toNat (n.setWidth 64)) s

def execHvbun (d : BitVec 2) (a : BitVec 4) (s : State) : Out :=
  hvAccept [a.toNat] [d.toNat] (fun _ => .bun d.toNat a.toNat false) s

def execHvbunSub (d : BitVec 2) (a : BitVec 4) (s : State) : Out :=
  hvAccept [a.toNat] [d.toNat] (fun _ => .bun d.toNat a.toNat true) s

def execHvthr (d : BitVec 4) (a : BitVec 2) (t : BitVec 4) (s : State) : Out :=
  hvAccept [d.toNat, t.toNat] [a.toNat] (fun _ => .thr d.toNat a.toNat (some t.toNat)) s

def execHvthrAlt (d : BitVec 4) (a : BitVec 2) (s : State) : Out :=
  hvAccept [d.toNat] [a.toNat] (fun _ => .thr d.toNat a.toNat none) s

def execHvclrb (d : BitVec 2) (s : State) : Out := hvAccept [] [d.toNat] (fun _ => .clrb d.toNat) s

def execHvdist (d : BitVec 5) (a b : BitVec 4) (s : State) : Out :=
  hvAccept [a.toNat, b.toNat] [] (fun _ => .dist d.toNat a.toNat b.toNat) s

def execHvpopc (d : BitVec 5) (a : BitVec 4) (s : State) : Out :=
  hvAccept [a.toNat] [] (fun _ => .popc d.toNat a.toNat) s

def execHvgen (d : BitVec 4) (c : BitVec 8) (s : State) : Out :=
  hvAccept [d.toNat] [] (fun s => .gen d.toNat (s.selS c)) s

/-- The word index of each lane (R321). -/
def hvIndex (c : VCtx) (i : BitVec 8) : List Nat := (upTo c.w).map fun l => (c.sel i l).toNat % (c.g.hdim / 32)

def hvgetWord (d : BitVec 7) (a : BitVec 4) (i : BitVec 8) : M Unit := do
  let c ← vctx
  hvBound [a.toNat] []
  checkRegs (d.toNat :: selRegs i) (selRegs i)
  modify fun s => s.addOp s.cur.ctx s.cur.grp none (.hv (.get d.toNat a.toNat (hvIndex c i) c.act)) s.curRegs

def execHvget (d : BitVec 7) (a : BitVec 4) (i : BitVec 8) (s : State) : Out :=
  .next (runCharged s.hvUnits (hvgetWord d a i) s)

def hvsetWord (d : BitVec 4) (a : BitVec 7) (i : BitVec 8) : M Unit := do
  let c ← vctx
  hvBound [d.toNat] []
  checkRegs (a.toNat :: selRegs i) (a.toNat :: selRegs i)
  let lanes := (upTo c.w).map fun l => c.g.lane a.toNat l
  modify fun s => s.addOp s.cur.ctx s.cur.grp none (.hv (.set d.toNat (hvIndex c i) c.act lanes)) s.curRegs

def execHvset (d : BitVec 4) (a : BitVec 7) (i : BitVec 8) (s : State) : Out :=
  .next (runCharged s.hvUnits (hvsetWord d a i) s)

/-! ## Whole-register operations (R319, R320) -/

/-- The number whose bits are those of a list, lowest first. -/
def ofBits : List Bool → Nat
  | [] => 0
  | b :: t => (if b then 1 else 0) + 2 * ofBits t

/-- Rotation toward higher bit index. -/
def rotBits (d x n : Nat) : Nat := (x * 2 ^ n + x / 2 ^ (d - n)) % 2 ^ d

/-- Counters after HVBUN or HVBUN.SUB, and whether any clamped. -/
def bundle (w : Nat) (x : Nat) (sub : Bool) (cs : List Int) : List Int × Bool :=
  let lo : Int := -(2 ^ (w - 1))
  let hi : Int := 2 ^ (w - 1) - 1
  let step (i : Nat) (c : Int) : Int := if bitAt x i != sub then c + 1 else c - 1
  let ts := (cs.zip (upTo cs.length)).map fun (c, i) => step i c
  (ts.map fun t => min (max t lo) hi, ts.any fun t => decide (t < lo) || decide (hi < t))

/-- HVTHR. -/
def threshold (tie : Nat → Bool) (cs : List Int) : Nat :=
  ofBits ((cs.zip (upTo cs.length)).map fun (c, i) => decide (0 < c) || (c == 0 && tie i))

/-- Word j of HVGEN (R320). -/
def splitMix (c : DWord) (j : Nat) : DWord :=
  let z := c + BitVec.ofNat 64 (j + 1) * 0x9E3779B97F4A7C15
  let z := (z ^^^ z >>> 30) * 0xBF58476D1CE4E5B9
  let z := (z ^^^ z >>> 27) * 0x94D049BB133111EB
  z ^^^ z >>> 31

def hvGenerate (d : Nat) (c : DWord) : Nat := ofLe ((upTo (d / 64)).flatMap fun j => leBytes 8 (splitMix c j).toNat)

/-- Word k of a hypervector, and a hypervector with word k replaced (R321). -/
def hvWordAt (x k : Nat) : Nat := field x (32 * k) 32
def hvPutWord (x k v : Nat) : Nat := x - hvWordAt x k * 2 ^ (32 * k) + v * 2 ^ (32 * k)

/-! ## Poison (R315) -/

def Group.writeH (g : Group) (n v : Nat) (bad : Bool) : Group := { g with h := g.h.set n v }.hvMark (hMark n) bad

def Group.writeB (g : Group) (n : Nat) (v : List Int) (bad : Bool) : Group := { g with b := g.b.set n v }.hvMark (bMark n) bad

/-- A scalar result with its poison. -/
def Group.writeSBad (g : Group) (n : Nat) (v : DWord) (bad : Bool) : Group :=
  let g := g.opWriteS n v
  if bad then { g with sPoison := g.sPoison ++ [n] } else g

/-! ## Completion of register words -/

def Group.hvRun (g : Group) : HvWord → Group
  | .xor d a b => g.writeH d (g.h.getD a 0 ^^^ g.h.getD b 0) (g.hvBad [hMark a, hMark b])
  | .maj3 d a b c =>
    let x := g.h.getD a 0
    let y := g.h.getD b 0
    let z := g.h.getD c 0
    g.writeH d ((x &&& y) ||| (x &&& z) ||| (y &&& z)) (g.hvBad [hMark a, hMark b, hMark c])
  | .rot d a n => g.writeH d (rotBits g.hdim (g.h.getD a 0) (n.toNat % g.hdim)) (g.hvBad [hMark a])
  | .bun d a sub =>
    let (cs, clamped) := bundle g.bwidth (g.h.getD a 0) sub (g.b.getD d [])
    let g := g.writeB d cs (g.hvBad [bMark d, hMark a])
    if clamped then g.opFlags (BitVec.ofNat 32 fBSAT) else g
  | .thr d a tie =>
    match tie with
    | some t => g.writeH d (threshold (fun i => bitAt (g.h.getD t 0) i) (g.b.getD a [])) (g.hvBad [bMark a, hMark t])
    | none => g.writeH d (threshold (fun i => i % 2 == 1) (g.b.getD a [])) (g.hvBad [bMark a])
  | .clrb d => g.writeB d (List.replicate g.hdim 0) false
  | .dist d a b =>
    g.writeSBad d (BitVec.ofNat 64 (popcount g.hdim (g.h.getD a 0 ^^^ g.h.getD b 0))) (g.hvBad [hMark a, hMark b])
  | .popc d a => g.writeSBad d (BitVec.ofNat 64 (popcount g.hdim (g.h.getD a 0))) (g.hvBad [hMark a])
  | .gen d seed => g.writeH d (hvGenerate g.hdim seed) false
  | .get d a index act =>
    let x := g.h.getD a 0
    let g' := g.writeLanes d fun l => if act.getLsbD l then some (BitVec.ofNat 32 (hvWordAt x (index.getD l 0))) else none
    if g.hvBad [hMark a] && act != 0 then { g' with vPoison := d :: g'.vPoison.filter (· != d) } else g'
  | .set d index act lanes =>
    let x := (bitsOf g.width act).foldl (fun x l => hvPutWord x (index.getD l 0) (lanes.getD l 0).toNat) (g.h.getD d 0)
    g.writeH d x (g.hvBad [hMark d])

/-- The HVU completes each group's words in issue order (R316). -/
def State.firstHv (s : State) (o : Op) : Bool :=
  match s.ops.find? fun p => p.ctx == o.ctx && p.grp == o.grp && p.kind.isHv with
  | some p => p.id == o.id
  | none => false

/-- A register word performs. HVGET keeps lanes of vd: one that by now lies only in the frame in memory is filled first
(R63, R321). -/
def hvEnd (o : Op) (w : HvWord) : M Unit := do
  let g := (← get).groupAt o.ctx o.grp
  match w with
  | .get d _ _ act =>
    if (← get).hasGroup o.ctx o.grp && g.v.getD d .zero == .inFrame && act != onesBelow g.width then fillReg g d
  | _ => pure ()
  modify fun s => ((s.mapGroup o.ctx o.grp fun g => g.hvRun w).touchFrame o.ctx o.grp).finishOp o

def execHvuWordComplete (op : Nat) (s : State) : Out :=
  .next (s.runOp op fun o => match o.kind with
    | .hv w => if s.firstHv o then some (hvEnd o w) else none
    | _ => none)

/-! ## HVLD, HVST and HVNEAR (R322, R323) -/

/-- The address check of HVLD, HVST and HVNEAR, and the span of a pool form; an empty list spans nothing (R323). They are no memory words: a trap's ADDR
is 0 (Table 16-2). -/
def hvAddress (pool : Bool) (a : DWord) (n : Nat) (bits : Byte) : M Unit := do
  if a.toNat % 8 != 0 then trapWord cMisaligned 8
  let s ← get
  if pool && n != 0 && !s.poolSpan a n then throw (.fault (addrFault cProtection a bits))
  if pool && s.moving s.cur.ctx then throw (.hold .moving)

/-- An asynchronous word of the HVU issues (R113). -/
def hvIssue (f : BitVec 1) (pool : Bool) (k : OpKind) : M Unit := do
  let flag ← countFlag f
  modify fun s => (s.engineIssue s.cur.ctx s.cur.grp (!pool)).addOp s.cur.ctx s.cur.grp flag k s.curRegs

def hvldWord (f : BitVec 1) (h : BitVec 4) (p : BitVec 1) (sr : BitVec 5) : M Unit := do
  hvBound [h.toNat] []
  let g ← curGroup
  hvAddress (p == 1) (g.readS sr.toNat) (g.hdim / 8) 0x21
  hvIssue f (p == 1) (.hvld (p == 1) h.toNat (g.readS sr.toNat))

def execHvld (f : BitVec 1) (h : BitVec 4) (p : BitVec 1) (s : BitVec 5) (st : State) : Out :=
  .next (runCharged st.hvUnits (hvldWord f h p s) st)

/-- HVST consumes its register as an operand. -/
def hvstWord (f : BitVec 1) (h : BitVec 4) (p : BitVec 1) (sr : BitVec 5) : M Unit := do
  hvBound [h.toNat] []
  let g ← curGroup
  hvAddress (p == 1) (g.readS sr.toNat) (g.hdim / 8) 0x22
  if g.hvBad [hMark h.toNat] then throw (.fault { plainFault cDataPoison 0 with acc := 0x22 })
  hvIssue f (p == 1) (.hvst (p == 1) (g.readS sr.toNat) (leBytes (g.hdim / 8) (g.h.getD h.toNat 0)))

def execHvst (f : BitVec 1) (h : BitVec 4) (p : BitVec 1) (s : BitVec 5) (st : State) : Out :=
  .next (runCharged st.hvUnits (hvstWord f h p s) st)

/-- A light list's entry count. -/
def hvCount (g : Group) (b : Nat) : Nat := (g.readS (b + 1)).toNat % 2 ^ 32

def hvnearWord (f p : BitVec 1) (d : BitVec 5) (a : BitVec 4) (b : BitVec 5) : M Unit := do
  if 30 < d.toNat ∨ 30 < b.toNat then illegal
  hvBound [a.toNat] []
  let g ← curGroup
  let n := hvCount g b.toNat
  hvAddress (p == 1) (g.readS b.toNat) (n * (g.hdim / 8)) 0x21
  hvIssue f (p == 1) (.hvnear (p == 1) d.toNat (g.h.getD a.toNat 0) (g.hvBad [hMark a.toNat]) (g.readS b.toNat) n)

def execHvnear (f p : BitVec 1) (d : BitVec 5) (a : BitVec 4) (b : BitVec 5) (s : State) : Out :=
  .next (runCharged (s.hvUnits * (hvCount s.curGroup b.toNat + 1)) (hvnearWord f p d a b) s)

/-- Bytes that the HVU reads. -/
def hvRead (o : Op) (pool : Bool) (a : DWord) (n : Nat) : M (List Byte) := do
  let s ← get
  if pool then poolRead o.ctx o.id a.toNat n else engineRead (s.tfOf o.ctx) o.core (some o.ctx) a n

/-- Whether purity leaves an access of the HVU out (R346). -/
def hvPure (o : Op) (pool write : Bool) (a : DWord) (n : Nat) : M Bool := do
  enginePure o.ctx (!pool && (← get).engineImpure o.ctx write a n)

def hvldEnd (o : Op) (pool : Bool) (reg : Nat) (a : DWord) : M Unit := do
  let n := o.dim / 8
  if ← hvPure o pool false a n then modify fun s => s.failOp o cPurity 0
  else
    let bs ← hvRead o pool a n
    modify fun s => (s.mapGroup o.ctx o.grp fun g => g.writeH reg (ofLe bs) false).finishOp o

def hvstEnd (o : Op) (pool : Bool) (a : DWord) (data : List Byte) : M Unit := do
  if ← hvPure o pool true a data.length then modify fun s => s.failOp o cPurity 0
  else
    if pool then poolPut o a.toNat data
    else
      let s ← get
      let ps ← enginePlan (s.tfOf o.ctx) o.core (some o.ctx) a data
      enginePut [s.writer o.ctx] ps
      modify fun s => s.landOp o
    modify fun s => s.finishOp o

def execHvldComplete (op : Nat) (s : State) : Out :=
  .next (s.runOp op fun o =>
    if s.firstHv o then
      match o.kind with
      | .hvld pool reg a => some (hvldEnd o pool reg a)
      | .hvst pool a data => some (hvstEnd o pool a data)
      | _ => none
    else none)

/-- The nearest entry: index and distance, ties to the lower index (R323). -/
def nearest (ds : List Nat) : Option (Nat × Nat) :=
  leastBy (fun x => x.2) ((upTo ds.length).zip ds)

def hvnearEnd (o : Op) (pool : Bool) (reg key : Nat) (bad : Bool) (base : DWord) (count : Nat) : M Unit := do
  let d := o.dim
  if ← hvPure o pool false base (count * (d / 8)) then modify fun s => s.failOp o cPurity 0
  else
    let ds ← (upTo count).mapM fun e => do
      let bs ← hvRead o pool (base + BitVec.ofNat 64 (e * (d / 8))) (d / 8)
      pure (popcount d (key ^^^ ofLe bs))
    let (i, dist) : DWord × DWord := match nearest ds with
      | some (i, x) => (BitVec.ofNat 64 i, BitVec.ofNat 64 x)
      | none => (BitVec.allOnes 64, BitVec.allOnes 64)
    modify fun s =>
      (s.mapGroup o.ctx o.grp fun g => (g.writeSBad reg i (bad && count != 0)).writeSBad (reg + 1) dist (bad && count != 0)).touchFrame o.ctx o.grp |>.finishOp o

def execHvnearComplete (op : Nat) (s : State) : Out :=
  .next (s.runOp op fun o =>
    if s.firstHv o then
      match o.kind with
      | .hvnear pool reg key bad base count => some (hvnearEnd o pool reg key bad base count)
      | _ => none
    else none)

end Sys2Proof.Machine
end

