-- ==== Sys2Proof/Machine/Keeper.lean ====
section
/-!
DEFINITION. The Keeper's acceptance of launch records (R173, R325, R328, R331, R341 to R343), copy nodes (R295),
completion (R124, R174, R414) and graph successors (R326), and the service of launch queues (R348, R393).
-/

namespace Sys2Proof.Machine

/-! ## Acceptance -/

/-- How a launch starts: its tenant function, the queue that it counts to, whether it comes from that queue, QHEAD as
it stood, and its %launch (R174, R328). -/
structure Start where
  tf    : BitVec 8
  queue : BitVec 12
  taken : Bool
  qhead : DWord
  num   : Word
  deriving DecidableEq, Repr

/-- A device start on behalf of a launch's queue. -/
def State.deviceStart (s : State) (l : Launch) : Start :=
  { tf := l.tf, queue := l.queue, taken := false, qhead := 0
    num := BitVec.ofNat 32 (l.queue.toNat * 2 ^ 20 + (s.queueAt l.queue.toNat).starts.toNat) }

/-- The count of device starts moves on. -/
def State.countStart (s : State) (q : BitVec 12) : State :=
  s.mapQueue q.toNat fun x => { x with starts := x.starts + 1 }

/-- The 512 bytes of a record. -/
def readRecord (t : Nat) (record : DWord) : M (List Byte) := do
  let b ← orFault t (keeperLoad t record 512 Access.keeperRead)
  pure (if b.headD 0 == 1 then copyNodeBytes b else b)

/-- The effective priority class (R172). -/
def State.classOf (s : State) (x : Start) (prio : Nat) : Nat :=
  max (max prio (s.queueAt x.queue.toNat).cls.toNat) (s.tf x.tf.toNat).ceil.toNat

/-- A launch before its checks. -/
def State.newLaunch (s : State) (x : Start) (record : DWord) (bytes : List Byte) : Launch :=
  let l : Launch :=
    { Launch.reset with tf := x.tf, queue := x.queue, taken := x.taken, qhead := x.qhead, num := x.num, record := record,
                        bytes := bytes, joined := s.us }
  { l with cls := s.classOf x l.prio, base := s.classOf x l.prio }

/-- The launch joins the Keeper's list. The answer is its number. -/
def addLaunch (l : Launch) : M Nat := do
  let id := (← get).stamp
  modify fun s => { s with launches := s.launches ++ [{ l with id := id }], stamp := s.stamp + 1 }
  pure id

/-- A BXE of the partition is to copy for a launch (R295, R343), by a descriptor in CPY's form. -/
def State.openNodeCopy (s : State) (id : Nat) (d : List Byte) : State :=
  let c : Copy :=
    { id := s.stamp, ctx := 0, node := some id, offset := 0, kind := 0, desc := d, parts := [], started := true,
      chunks := upTo (copyChunks 0 d), prior := [], impure := false, parked := none }
  let s : State := { s with copies := s.copies ++ [c], stamp := s.stamp + 1 }
  s.mapLaunch id fun l => { l with copy := some c.id }

/-- The copy of a recorded result tile to a new one, as a descriptor. -/
def resultCopy (old new : List Byte) : List Byte :=
  old.take 8 ++ new.take 8 ++ (new.drop 8).take 8 ++ (old.drop 16).take 8 ++ (new.drop 16).take 8 ++
    leBytes 8 (2 ^ 32) ++ List.replicate 16 0

/-- A pure launch that has passed its checks: the code hash, the key and the lookup (R341 to R343). -/
def acceptPure (l : Launch) : M Nat := do
  match (← get).objectOf l with
  | none => addLaunch { l with refused := some 0x02 }
  | some o =>
    match ← codeHash l o with
    | .error r => addLaunch { l with refused := some r }
    | .ok h =>
      let s ← get
      let key := s.keyOf l o h
      match s.lookup l key with
      | none => addLaunch { l with pure := some (s.beginWatch l key) }
      | some e =>
        let id ← addLaunch { l with reuse := true, pure := some { key := key, clean := false, frames := [], missing := [], result := [] } }
        if e.result != l.result then modify fun s => s.openNodeCopy id (resultCopy e.result l.result)
        pure id

/-- The Keeper reads and checks a record, and accepts or refuses the launch. A fault of the record's own read stops
here (R173). -/
def acceptLaunch (x : Start) (record : DWord) : M Nat := do
  let bytes ← readRecord x.tf.toNat record
  let l := (← get).newLaunch x record bytes
  match ← vet l with
  | .refuse r => addLaunch { l with refused := some r }
  | .accept l =>
    if l.kind = 1 then
      let id ← addLaunch l
      modify fun s => s.openNodeCopy id ((l.bytes.drop 0x80).take 64)
      pure id
    else if l.isPure then acceptPure l
    else addLaunch l

/-- The open stream node of a record (R331). -/
def State.openNode (s : State) (tf : BitVec 8) (record : DWord) : Option Launch :=
  s.launches.find? fun l => l.tf == tf && l.record == record && l.stream.isSome && l.done.isNone && l.refused.isNone

/-! ## Input queues (R330) -/

/-- A batch of `k` records joins the pending list at a time. -/
def Stream.addBatch (q : Stream) (now k : Nat) : Stream :=
  { q with queued := q.queued ++ [(q.issued, k, now)], issued := q.issued + k, stale := true }

/-- Batches of THRESH records; `n` bounds them. -/
def Stream.batchUp (now : Nat) (q : Stream) : Nat → Stream
  | 0 => q
  | n + 1 => if q.thresh ≤ q.head - q.issued then Stream.batchUp now (q.addBatch now q.thresh) n else q

/-- The remainder as one batch. -/
def Stream.flush (q : Stream) (now : Nat) : Stream :=
  if q.issued < q.head then q.addBatch now (q.head - q.issued) else q

/-- FREED passes the batches whose teams, and those of every earlier batch, have exited. -/
def Stream.freeUp (q : Stream) : Nat → Stream
  | 0 => q
  | n + 1 => match q.running with
    | (_, upto, true) :: rest => Stream.freeUp { q with running := rest, freed := upto, stale := true } n
    | _ => q

def State.mapStream (s : State) (id : Nat) (f : Stream → Stream) : State :=
  s.mapLaunch id fun l => { l with stream := l.stream.map f }

/-- A Keeper access for a launch parks (R139), or its fault ends the launch (R414). -/
def State.stopLaunch (s : State) (id : Nat) (st : Stop) : State :=
  let l := s.launchAt id
  let kill (s : State) (f : FaultInfo) : State :=
    (s.addRecord l.tf.toNat (keeperRecord l.num f 0 false) (some id) true).killLaunch id none f.cause
  match st with
  | .miss f => match s.parkKeeper l.tf.toNat l.num f with
    | (some tok, s) => s.mapLaunch id fun l => { l with parked := some tok }
    | (none, s) => kill s f
  | .fault f => kill s f
  | _ => s

/-- The Keeper writes the counters of an input queue descriptor. -/
def State.writeCounters (s : State) (id : Nat) : State :=
  let l := s.launchAt id
  match l.stream with
  | none => s
  | some q =>
    if q.stale && l.parked.isNone then
      match keeperStore false l.tf.toNat (q.inq + 0x10) (leBytes 8 q.head ++ leBytes 8 q.issued ++ leBytes 8 q.freed) s with
      | .ok _ s => s.mapStream id fun q => { q with stale := false }
      | .error st s => s.stopLaunch id st
    else s

/-! ## Completion (R124, R174) -/

/-- STATUS and DETAIL (Table 06-5). -/
def Launch.outcome (l : Launch) : Byte × Byte :=
  match l.refused, l.killed with
  | some r, _ => (4, r)
  | none, some c => (3, c)
  | none, none => (if l.reuse then 2 else 1, 0)

/-- Every team has exited and every operation completed; every record whose cause ends a team has been written; a
stream node has no record left (R124, R330, R414). -/
def State.launchReady (s : State) (l : Launch) : Bool :=
  l.done.isNone && l.parked.isNone && !((s.tf l.tf.toNat).held.any fun h => h.ends && h.launch == some l.id) &&
    (l.refused.isSome ||
      (!s.delayed l && !(s.teams.any fun t => t.launch == l.id) &&
        !(s.copies.any fun c => c.node == some l.id && !c.chunks.isEmpty) &&
        (l.killed.isSome || l.reuse || l.kind == 1 ||
          (match l.stream with
           | some q => q.ended && q.head == q.issued && q.issued == q.freed && q.queued.isEmpty && q.running.isEmpty && !q.stale
           | none => decide (l.teamCount ≤ l.next)))))

/-- The immediate of a completion event (R394). -/
def completionImm (num : Word) : Word := (num.extractLsb' 20 12).setWidth 32 <<< 12 ||| (num.extractLsb' 0 12).setWidth 32

/-- What comes after the completion word: the event, unless the word did not perform. -/
def State.wordDone (s : State) (l : Launch) (sent : Bool) : State :=
  let s : State := { s with copies := s.copies.filter fun (c : Copy) => c.node != some l.id }
  let s := if sent && l.evt then s.sendEvent l.tf.toNat (completionImm l.num) else s
  s.mapLaunch l.id fun l => { l with done := some l.outcome.1, copy := none }

/-- The Keeper writes the completion word. Before it a clean pure task is recorded (R344), and a hit's entry becomes the
most recently used (R343). -/
def State.writeWord (s : State) (l : Launch) : State :=
  let (st, d) := l.outcome
  let s := if st = 1 then s.recordPure l else s
  let s := match st, l.pure with
    | 2, some p => s.touchKey l.tf p.key
    | _, _ => s
  let word := leBytes 8 (l.num.toNat * 2 ^ 32 + d.toNat * 256 + st.toNat)
  let fail (s : State) (f : FaultInfo) : State :=
    (s.addRecord l.tf.toNat (keeperRecord l.num f 0 false) none false).wordDone l false
  match keeperStore true l.tf.toNat (BitVec.ofNat 64 l.compl) word s with
  | .ok _ s => s.wordDone l true
  | .error (.miss f) s => match s.parkKeeper l.tf.toNat l.num f with
    | (some tok, s) => s.mapLaunch l.id fun l => { l with parked := some tok }
    | (none, s) => fail s f
  | .error (.fault f) s => fail s f
  | .error _ s => s

/-! ## Successors (R326) -/

/-- A decrement of PREDS at a record: the old value. -/
def decrementPreds (t : Nat) (record : DWord) : M Nat :=
  orFault t (keeperAtomic t (record + 0x60) 2 fun n => if n = 0 then none else some (n - 1))

/-- PREDS of an open node has reached 0: the flush (R331). -/
def State.endStream (s : State) (id : Nat) : State :=
  (s.mapStream id fun q => { q.flush s.us with ended := true }).writeCounters id

/-- A record that the Keeper cannot read for a launch, and the record of it. -/
def State.keeperFault (s : State) (t : Nat) (num : Word) (f : FaultInfo) : State :=
  s.addRecord t (keeperRecord num f 0 false) none false

/-- A Keeper access on behalf of a completing launch: parked, or recorded against it and passed over. -/
def State.stopSucc (s : State) (l : Launch) (st : Stop) (next : State → State) : State :=
  match st with
  | .miss f => match s.parkKeeper l.tf.toNat l.num f with
    | (some tok, s) => s.mapLaunch l.id fun l => { l with parked := some tok }
    | (none, s) => next (s.keeperFault l.tf.toNat l.num f)
  | .fault f => next (s.keeperFault l.tf.toNat l.num f)
  | _ => s

/-- A successor whose count has reached 0 starts. -/
def State.startSucc (s : State) (l : Launch) (record : DWord) : State :=
  let fin (s : State) : State := s.mapLaunch l.id fun l => { l with starting := none }
  match s.openNode l.tf record with
  | some n => fin (s.endStream n.id)
  | none =>
    match acceptLaunch (s.deviceStart l) record s with
    | .ok _ s => fin (s.countStart l.queue)
    | .error st s => s.stopSucc l st fin

/-- The next successor in the list. -/
def State.nextSucc (s : State) (l : Launch) (record : DWord) : State :=
  let pass (s : State) : State := s.mapLaunch l.id fun l => { l with succ := l.succ.drop 1 }
  match decrementPreds l.tf.toNat record s with
  | .ok old s =>
    if old = 1 then ((pass s).mapLaunch l.id fun l => { l with starting := some record }).startSucc l record else pass s
  | .error st s => s.stopSucc l st pass

/-- Successors are processed until one parks; then the launch is forgotten. `n` bounds the steps. -/
def State.runSucc (s : State) (id : Nat) : Nat → State
  | 0 => s
  | n + 1 =>
    let l := s.launchAt id
    if l.parked.isSome then s
    else match l.starting, l.succ with
      | some r, _ => State.runSucc (s.startSucc l r) id n
      | none, r :: _ =>
        if l.done == some 1 || l.done == some 2 then State.runSucc (s.nextSucc l r) id n
        else { s with launches := s.launches.filter fun k => k.id != id }
      | none, [] => { s with launches := s.launches.filter fun k => k.id != id }

/-- The completion word, if it can be written now, and what follows it. -/
def State.finishLaunch (s : State) (id : Nat) : State :=
  let s := s.writeCounters id
  let s := if s.launchReady (s.launchAt id) then s.writeWord (s.launchAt id) else s
  if (s.launchAt id).done.isSome then s.runSucc id (2 * (s.launchAt id).succ.length + 2) else s

/-- A launch just accepted that needs no team: a refusal, or a hit without a copy. -/
def State.settle (s : State) (id : Nat) : State :=
  let l := s.launchAt id
  if l.refused.isSome || (l.reuse && l.copy.isNone) then s.finishLaunch id else s

def State.hasLaunch (s : State) (id : Nat) : Bool := s.launches.any fun l => l.id == id

/-- The copy of a hit has ended (R343). -/
def execDaymarkCopyComplete (launch : Nat) (s : State) : Out :=
  let l := s.launchAt launch
  .next (if s.hasLaunch launch && l.reuse && l.copy.isSome && s.launchReady l then s.finishLaunch launch else s)

def execLaunchComplete (launch : Nat) (s : State) : Out :=
  let l := s.launchAt launch
  .next (if s.hasLaunch launch && !(l.reuse && l.copy.isSome) then s.finishLaunch launch else s)

/-! ## Launch queues (R348, R393) -/

/-- The Keeper looks at the tail word of a queue: its state, and whether it holds a new record. -/
def State.pollQueue (s : State) (q : Nat) : Bool × State :=
  let s := if (s.queueAt q).opening then s.openQueue q else s
  let x := s.queueAt q
  if x.en && x.parked.isNone && !x.opening then
    match readTail q s with
    | .ok tail s =>
      let d := (BitVec.ofNat 64 tail - x.qhead).toNat
      if d = 0 then (false, s)
      else if 2 ^ x.log2n.toNat < d then (false, s.mapQueue q fun x => { x with err := true, en := false })
      else (true, s)
    | .error st s => (false, s.stopTail q st)
  else (false, s)

/-- The queues of a partition that the Keeper serves, in rising number. -/
def State.servedQueues (s : State) (part : Nat) : List Nat :=
  (s.queues.filter fun (_, x) => x.en && x.parked.isNone && (s.tf x.tf.toNat).part.toNat == part).map (·.1)

/-- The queues with a new record. -/
def State.pollQueues (s : State) : List Nat → List Nat × State
  | [] => ([], s)
  | q :: rest =>
    let (new, s) := s.pollQueue q
    let (qs, s) := State.pollQueues s rest
    (if new then q :: qs else qs, s)

/-- WEIGHT, where 0 acts as 1. -/
def LaunchQueue.turns (x : LaunchQueue) : Nat := max 1 x.weight.toNat

/-- The queue that is served next among those with a new record: the best class; in it the queue that the round is at
or a later one, with turns left; else a new round begins. -/
def State.chooseQueue (s : State) (part : Nat) (new : List Nat) : Option (Nat × State) :=
  match (new.map fun q => (s.queueAt q).cls.toNat).min? with
  | none => none
  | some c =>
    let mine := (s.queues.filter fun (_, x) => x.cls.toNat == c && (s.tf x.tf.toNat).part.toNat == part).map (·.1)
    let at' := ((mine.filter fun q => (s.queueAt q).served != 0).max?).getD 0
    let cands := new.filter fun q => (s.queueAt q).cls.toNat == c
    match cands.find? fun q => decide (at' ≤ q) && decide ((s.queueAt q).served < (s.queueAt q).turns) with
    | some q => some (q, s)
    | none =>
      match cands with
      | [] => none
      | q :: _ => some (q, mine.foldl (fun s k => s.mapQueue k fun x => { x with served := 0 }) s)

/-- QHEAD passes a record. -/
def State.passRecord (s : State) (q : Nat) : State :=
  s.mapQueue q fun x => { x with qhead := x.qhead + 1, served := x.served + 1 }

/-- The next record of a queue is taken: accepted, refused, ignored for an open stream node (R331), or dropped with
a fault record where it cannot be read (R173). -/
def State.takeRecord (s : State) (q : Nat) : State :=
  let x := s.queueAt q
  let record := x.qbase + BitVec.ofNat 64 (512 * (x.qhead.toNat % 2 ^ x.log2n.toNat))
  let st : Start := { tf := x.tf, queue := BitVec.ofNat 12 q, taken := true, qhead := x.qhead, num := x.nextNum q }
  let t := x.tf.toNat
  if (s.openNode x.tf record).isSome then s.passRecord q
  else match acceptLaunch st record s with
    | .ok id s => (s.passRecord q).settle id
    | .error (.miss f) s => match s.parkKeeper t st.num f with
      | (some tok, s) => s.mapQueue q fun x => { x with parked := some tok }
      | (none, s) => (s.keeperFault t st.num f).passRecord q
    | .error (.fault f) s => (s.keeperFault t st.num f).passRecord q
    | .error _ s => s

/-- The lead Keeper of a partition serves its queues. -/
def execQueueRecordTake (part : Nat) (s : State) : Out :=
  .next (
    let (new, s) := s.pollQueues (s.servedQueues part)
    match s.chooseQueue part new with
    | some (q, s) => s.takeRecord q
    | none => s)

/-! ## LAUNCH and SIGNAL (R336) -/

/-- A stop of a Keeper access for an operation: parked, or recorded and passed over. -/
def State.stopStart (s : State) (o : Op) (num : Word) (st : Stop) (next : State → State) : State :=
  let t := s.tfOf o.ctx
  match st with
  | .miss f => match s.parkKeeper t num f with
    | (some tok, s) => s.mapOp o.id fun o => { o with parked := some tok }
    | (none, s) => next (s.keeperFault t num f)
  | .fault f => next (s.keeperFault t num f)
  | _ => s

/-- The start of a record that an operation names: none for an open stream node when LAUNCH names it, the flush when
SIGNAL has brought its PREDS to 0. -/
def State.deviceLaunch (s : State) (o : Op) (record : DWord) (signal : Bool) : State :=
  let l := s.launchOf o.ctx
  match s.openNode l.tf record with
  | some n => (if signal then s.endStream n.id else s).finishOp o
  | none =>
    let x := s.deviceStart l
    match acceptLaunch x record s with
    | .ok id s => ((s.countStart l.queue).finishOp o).settle id
    | .error st s => s.stopStart o (if signal then l.num else x.num) st fun s => s.finishOp o

/-- SIGNAL's decrement: its flag completes; a count that reaches 0 leaves the start. -/
def State.signalStep (s : State) (o : Op) (record : DWord) : State :=
  let l := s.launchOf o.ctx
  match decrementPreds l.tf.toNat record s with
  | .ok old s =>
    if old = 1 then
      let o' := { o with flag := none, kind := .start record }
      ((s.mapOp o.id fun _ => o').dropFlag o.ctx o.grp o.flag).deviceLaunch o' record true
    else s.finishOp o
  | .error st s => s.stopStart o l.num st fun s => s.finishOp o

def execDeviceLaunchAccept (op : Nat) (s : State) : Out :=
  .next (match s.opAt op with
    | some o =>
      if s.opFree o then
        match o.kind with
        | .launch r => s.deviceLaunch o r false
        | .signal r => s.signalStep o r
        | .start r => s.deviceLaunch o r true
        | _ => s
      else s
    | none => s)

end Sys2Proof.Machine
end

