-- ==== Sys2Proof/Machine/Stream.lean ====
section
/-!
DEFINITION. Stream nodes: the Keeper opens one at an EMIT or EFLUSH (R331), accepts an EMIT whole (R332), and
flushes (R330, R333).
-/

namespace Sys2Proof.Machine

/-- What the Keeper finds under a successor's number. -/
inductive Node where
  /-- no stream node, or one that takes nothing: the operation completes -/
  | nothing
  /-- an open node -/
  | isOpen (id : Nat)
  /-- a node that has just been refused -/
  | refusedNow (id : Nat)
  deriving DecidableEq, Repr

/-- The node that an EMIT or EFLUSH of a launch names, opened when it is not open (R331). A graph node with INQ ≠ 0 is a
stream node, whatever else its record holds: the checks of R329 may refuse it. -/
def findNode (l : Launch) (j : Nat) : M Node := do
  let record := l.succ.getD j 0
  if l.refusedNodes.contains record || decide (l.succ.length ≤ j) then return .nothing
  match (← get).openNode l.tf record with
  | some n => return (if n.killed.isSome then .nothing else .isOpen n.id)
  | none =>
    let b ← readRecord l.tf.toNat record
    if Launch.inq { Launch.reset with bytes := b } = 0 then return .nothing
    let id ← acceptLaunch ((← get).deviceStart l) record
    modify fun s => s.countStart l.queue
    if ((← get).launchAt id).refused.isSome then
      modify fun s => s.mapLaunch l.id fun l => { l with refusedNodes := l.refusedNodes ++ [record] }
      return .refusedNow id
    return .isOpen id

/-- Records placed in consecutive slots of a ring from record `i` up (Table 14-1). -/
def placeRecords (t : Nat) (q : Stream) : Nat → List (List Byte) → M Unit
  | _, [] => pure ()
  | i, b :: rest => do
    orFault t (keeperStore false t (q.base + BitVec.ofNat 64 (q.recSize * (i % 2 ^ q.log2n))) b)
    placeRecords t q (i + 1) rest

/-- An EMIT is accepted whole: its records, HEAD, and the batches that are full. -/
def takeEmit (o : Op) (id offset count : Nat) (q : Stream) : M Unit := do
  let t := (← get).tfOf o.ctx
  if !((← get).teamAt o.ctx).spanFor (some o.id) offset (count * q.recSize) then
    throw (.fault (addrFault cProtection (BitVec.ofNat 64 offset) 0x21))
  let data ← poolRead o.ctx o.id offset (count * q.recSize)
  placeRecords t q q.head (chunksOf q.recSize count data)
  modify fun s =>
    ((s.mapStream id fun q => Stream.batchUp s.us { q with head := q.head + count, stale := true } (q.head + count)).writeCounters
      id).finishOp o

/-- Records fit in the ring (R332). -/
def Stream.room (q : Stream) (count : Nat) : Bool := decide (q.head + count - q.freed ≤ 2 ^ q.log2n)

/-- One EMIT. -/
def emitStep (o : Op) (j offset count : Nat) : M Unit := do
  let l := (← get).launchOf o.ctx
  if count = 0 then modify fun s => s.finishOp o
  else match ← findNode l j with
    | .nothing => modify fun s => s.finishOp o
    | .refusedNow id => modify fun s => (s.finishOp o).settle id
    | .isOpen id =>
      match ((← get).launchAt id).stream with
      | some q => if q.room count then takeEmit o id offset count q else pure ()
      | none => modify fun s => s.finishOp o

/-- One EFLUSH: the remainder's team is queued. -/
def eflushStep (o : Op) (j : Nat) : M Unit := do
  let l := (← get).launchOf o.ctx
  match ← findNode l j with
  | .nothing => modify fun s => s.finishOp o
  | .refusedNow id => modify fun s => (s.finishOp o).settle id
  | .isOpen id => modify fun s => ((s.mapStream id fun q => q.flush s.us).writeCounters id).finishOp o

/-- No earlier EMIT of the group is still to be accepted (R332, R333). -/
def State.firstEmit (s : State) (o : Op) : Bool :=
  !(s.ops.any fun p => p.ctx == o.ctx && p.grp == o.grp && decide (p.id < o.id) &&
    (match p.kind with | .emit .. => true | _ => false))

/-- A stop of the Keeper for an EMIT or EFLUSH: a missing page parks it with the Keeper's record (R331, R139); a fault
of the node's record is recorded and the flag completes (R173); another fault ends the issuing team's launch. -/
def State.stopEmit (s : State) (o : Op) (record : Bool) (st : Stop) : State :=
  let t := s.tfOf o.ctx
  let num := (s.launchOf o.ctx).num
  match st with
  | .miss f => match s.parkKeeper t num f with
    | (some tok, s) => s.mapOp o.id fun o => { o with parked := some tok }
    | (none, s) => (s.faultCtx o.ctx (BitVec.ofNat 8 o.grp) f).removeOp o.id
  | .fault f =>
    if record then (s.keeperFault t (s.deviceStart (s.launchOf o.ctx)).num f).finishOp o
    else (s.faultCtx o.ctx (BitVec.ofNat 8 o.grp) f).removeOp o.id
  | _ => s

/-- Whether the Keeper still has to read the record of the node that an operation names. -/
def State.nodeUnread (s : State) (o : Op) (j : Nat) : Bool :=
  let l := s.launchOf o.ctx
  (s.openNode l.tf (l.succ.getD j 0)).isNone

/-- The Keeper serves an EMIT or EFLUSH. -/
def State.serveEmit (s : State) (o : Op) (j : Nat) (m : M Unit) : State :=
  if s.opFree o && s.firstEmit o then
    match m s with
    | .ok _ t => t
    | .error st t => t.stopEmit o (t.nodeUnread o j) st
  else s

def execEmitAccept (op : Nat) (s : State) : Out :=
  .next (match s.opAt op with
    | some o => match o.kind with
      | .emit j offset count => s.serveEmit o j (emitStep o j offset count)
      | _ => s
    | none => s)

def execEflushAccept (op : Nat) (s : State) : Out :=
  .next (match s.opAt op with
    | some o => match o.kind with
      | .eflush j => s.serveEmit o j (eflushStep o j)
      | _ => s
    | none => s)

end Sys2Proof.Machine
end

