-- ==== Sys2Proof/Machine/Place.lean ====
section
/-!
DEFINITION. Placement: the pending list (R349), the choice of cores (R350), the start of a team (R165 to R172),
resume and migration (R66, R151, R368, R369), and the retirement of a team (R237, R364).
-/

namespace Sys2Proof.Machine

/-! ## The pending list (R349) -/

/-- What waits for a core: the next team of a launch, or its whole grid (R167); or a saved team, or the saved teams of a
grid. -/
structure Pending where
  launch : Nat
  saved  : List Nat
  cls    : Nat
  joined : Nat
  since  : Nat
  linear : Nat
  deriving DecidableEq, Repr

/-- The placement class: the current class, improved by aging. -/
def placeClass (cls aged : Nat) : Nat := cls - aged

def Team.isSaved (t : Team) : Bool := t.state == .savedRetained || t.state == .savedNone

/-- A launch that has started a team. -/
def Launch.begun (l : Launch) : Bool := match l.stream with
  | some q => q.batch != 0
  | none => l.next != 0

/-- The object of a launch starts its teams: a ready one; one that is unloading only for a launch that has begun
(R161). A slot that was emptied and loaded again meanwhile runs its new object: the spec does not say what becomes of
a launch whose object is gone (DESIGN CHOICE, log 109). -/
def State.objectStarts (s : State) (l : Launch) : Bool :=
  let c := (s.tf l.tf.toNat).slot l.codeSlot
  c.object.isSome && (c.state == .ready || (c.state == .unloading && !c.force && l.begun))

/-- A launch whose teams start: compute work that is accepted, not killed, not retired by the Daymark, not delayed
(R328), and whose object starts them. -/
def State.starts (s : State) (l : Launch) : Bool :=
  l.kind == 0 && l.refused.isNone && l.killed.isNone && l.done.isNone && !l.reuse && !s.delayed l && s.objectStarts l &&
    (match l.stream with
     | some q => !q.queued.isEmpty
     | none => decide (l.next < l.teamCount))

/-- When the next team of a launch joined the list: at acceptance, or its batch when it filled (R330, R349). -/
def Launch.joinTime (l : Launch) : Nat := match l.stream with
  | some q => (q.queued.head?.map (·.2.2)).getD l.joined
  | none => l.joined

/-- Classes gained by waiting: one for each whole AGE µs; none while AGE is 0. -/
def State.agedBy (s : State) (since : Nat) : Nat := if s.ctl.age = 0 then 0 else (s.us - since) / s.ctl.age.toNat

/-- The teams of a partition's list take the class that their waiting gives. -/
def State.ageList (s : State) (part : Nat) : State :=
  let mine (l : Launch) : Bool := (s.tf l.tf.toNat).part.toNat == part
  { s with
    teams := s.teams.map fun t => if t.isSaved && mine (s.launchAt t.launch) then { t with aged := s.agedBy t.since } else t
    launches := s.launches.map fun l => if mine l then { l with aged := s.agedBy l.joinTime } else l }

/-- Whether a team of a grid does not hold back its resume: it is saved, or has no party left. -/
def State.downOf (s : State) (x : Team) : Bool := x.isSaved || !(s.allParties.any fun p => p.ctx == x.ctx)

/-- A saved team on the list. A grid stands there once, under its first team, when all of it is saved (R167). -/
def State.savedItem (s : State) (t : Team) : Option Pending :=
  let l := s.launchAt t.launch
  let mates := s.teams.filter fun x => x.launch == t.launch
  let grid := (mates.filter Team.isSaved).map (·.ctx)
  if !t.isSaved || l.killed.isSome || (l.cosched && (grid.head? != some t.ctx || !mates.all s.downOf)) then none
  else some { launch := l.id, saved := if l.cosched then grid else [t.ctx], cls := placeClass l.cls t.aged, joined := t.joined,
              since := t.since, linear := t.linear }

def State.freshItem (s : State) (l : Launch) : Option Pending :=
  if s.starts l then
    some { launch := l.id, saved := [], cls := placeClass l.cls l.aged, joined := l.joinTime, since := l.joinTime, linear := l.next }
  else none

/-- The order of the list: placement class, time of joining, then acceptance and linear index. -/
def Pending.le (a b : Pending) : Bool :=
  decide (a.cls < b.cls) || (a.cls == b.cls && (decide (a.joined < b.joined) ||
    (a.joined == b.joined && (decide (a.launch < b.launch) || (a.launch == b.launch && decide (a.linear ≤ b.linear))))))

/-- The pending list of a partition. -/
def State.pending (s : State) (part : Nat) : List Pending :=
  let all := s.teams.filterMap s.savedItem ++ s.launches.filterMap s.freshItem
  sortBy Pending.le (all.filter fun x => (s.tf (s.launchAt x.launch).tf.toNat).part.toNat == part)

/-! ## What a team needs, and what a core has (R166) -/

/-- Slots of each quadrant and granules that a team needs: `here` granules on its own core, `gran` on another, where
it may go unless it is pinned. -/
structure Need where
  slots  : List Nat
  gran   : Nat
  home   : Option Nat
  here   : Nat
  pinned : Bool
  deriving DecidableEq, Repr

/-- A core with its free slots by quadrant, the granules it could grant, the resident teams of the launch, and the
stalled PGROWs that hold back admissions (R50), oldest first, as (context, granules). -/
structure Room where
  core  : Nat
  free  : List Nat
  gran  : Nat
  mates : Nat
  stalled : List (Nat × Nat)
  deriving DecidableEq, Repr

/-- Groups of a context that still hold slots, by quadrant. -/
def State.slotsHeld (s : State) (ctx : Nat) : List Nat :=
  (upTo 4).map fun q => (s.groups.filter fun g => g.ctx == ctx && g.idx % 4 == q).length

def addSlots (a b : List Nat) : List Nat := (a.zip b).map fun (x, y) => x + y
def subSlots (a b : List Nat) : List Nat := (a.zip b).map fun (x, y) => x - y

/-- The room of a core for a launch; the retained granules of the contexts `own` do not count. -/
def State.room (s : State) (launch : Nat) (own : List Nat) (core : Nat) : Room :=
  let used := (s.residentOn core).foldl (fun a t => addSlots a (s.slotsHeld t.ctx)) [0, 0, 0, 0]
  { core := core, free := subSlots [32, 32, 32, 32] used
    gran := s.l1Spare core + ((s.retainedOn core).filter fun x => !own.contains x.1).length
    mates := ((s.residentOn core).filter fun t => t.launch == launch).length
    stalled := (s.stalled core).map fun x => (x.1.ctx, x.2) }

def Room.fits (r : Room) (n : Need) : Bool :=
  r.stalled.isEmpty && (!n.pinned || n.home == some r.core) && decide ((if n.home = some r.core then n.here else n.gran) ≤ r.gran) &&
    ((n.slots.zip r.free).all fun (x, y) => decide (x ≤ y))

/-- The resident teams of the launch in the cluster of a core. -/
def clusterMates (rs : List Room) (core : Nat) : Nat :=
  ((rs.filter fun x => Config.clusterOf x.core == Config.clusterOf core).map (·.mates)).sum

/-- The core of R350: where the team's retained granules lie; in the cluster with the most resident teams of the
launch; with the most granules grantable; the lowest index among equals. -/
def chooseRoom (rs : List Room) (n : Need) (retained : Bool) : Option Room :=
  let ok := rs.filter fun r => r.fits n
  let most := (rs.map fun r => clusterMates rs r.core).foldl max 0
  match ok.find? fun r => retained && n.home == some r.core with
  | some r => some r
  | none =>
    match ok.find? fun r => most != 0 && clusterMates rs r.core == most with
    | some r => some r
    | none => mostBy (·.gran) ok

/-- A core after a team has taken its place. -/
def Room.take (r : Room) (n : Need) : Room :=
  { r with free := subSlots r.free n.slots, gran := r.gran - (if n.home = some r.core then n.here else n.gran), mates := r.mates + 1 }

/-- Cores for several teams at once, in order: none where one of them fits nowhere. The rooms that are left go with
the answer. -/
def assign (rs : List Room) : List (Need × Bool) → Option (List (Nat × Nat) × List Room)
  | [] => some ([], rs)
  | (n, retained) :: rest =>
    match chooseRoom rs n retained with
    | none => none
    | some r =>
      let k := if n.home = some r.core then n.here else n.gran
      match assign (rs.map fun x => if x.core = r.core then x.take n else x) rest with
      | some (cs, out) => some ((r.core, k) :: cs, out)
      | none => none

/-- What a fresh team of a launch needs. -/
def Launch.need (l : Launch) (o : CodeObject) : Need :=
  { slots := (upTo 4).map (quadNeed l.groupCount), gran := l.initialSize o, home := none, here := 0, pinned := false }

/-- Operations that a migration has to wait for (R312, R315, R369). -/
def OpKind.staysOn : OpKind → Bool
  | .ldw .. | .mma .. | .hv _ | .hvld .. | .hvst .. | .hvnear .. => true
  | _ => false

/-- What a saved team needs. A team with cluster-shared granules stays on its core (R41, R369). So does one with
operations that still use its regions or its core's array, until they have completed: it is not placed elsewhere to
wait for them there (DESIGN CHOICE, log 116). -/
def State.savedNeed (s : State) (ctx : Nat) : Need :=
  let t := s.teamAt ctx
  { slots := s.slotsHeld ctx, gran := t.granules.length, home := some t.core
    here := (t.granules.filter (· == .inBacking)).length
    pinned := !t.shared.isEmpty || !t.leaving.isEmpty || s.ops.any fun o => o.ctx == ctx && o.kind.staysOn }

/-- How many fresh teams an item starts: one, or the whole grid. -/
def State.gang (s : State) (x : Pending) : Nat :=
  if (s.launchAt x.launch).cosched then (s.launchAt x.launch).teamCount else 1

/-- The needs of an item: none where no team slot is free, or the tenant function is not enabled (R37, R170). -/
def State.needs (s : State) (x : Pending) : Option (List (Need × Bool)) :=
  let l := s.launchAt x.launch
  if x.saved.isEmpty then
    match s.objectOf l with
    | some o =>
      if (s.tf l.tf.toNat).en && decide (l.slots.length + s.gang x ≤ l.tSlots) then
        some (List.replicate (s.gang x) (l.need o, false))
      else none
    | none => none
  else some (x.saved.map fun c => (s.savedNeed c, (s.teamAt c).retained))

/-- The rooms of an item's partition. -/
def State.rooms (s : State) (x : Pending) : List Room :=
  (s.partCores (s.tf (s.launchAt x.launch).tf.toNat).part.toNat).map (s.room x.launch x.saved)

/-- Where an item can be placed now. -/
def State.placeable (s : State) (x : Pending) : Option (List (Nat × Nat)) :=
  match s.needs x with
  | some ns => (assign (s.rooms x) ns).map (·.1)
  | none => none

/-- The first item of the list that can be placed (R350). -/
def State.nextPlace (s : State) (part : Nat) : Option (Pending × List (Nat × Nat)) :=
  (s.pending part).findSome? fun x => (s.placeable x).map fun p => (x, p)

/-! ## Granules for a placement (R50, R51) -/

/-- How many granules a placement takes of a core. -/
def grantsOn (places : List (Nat × Nat)) (core : Nat) : Nat := ((places.filter fun p => p.1 == core).map (·.2)).sum

/-- Each core writes back the retained granules that it has to give: false where one of them cannot give enough. -/
def State.prepare (s : State) (places : List (Nat × Nat)) : List Nat → Bool × State
  | [] => (true, s)
  | core :: rest =>
    let n := grantsOn places core
    let (gs, s) := s.gather core n (s.teams.length + 1)
    if s.l1Spare core + gs.length < n then (false, s) else State.prepare s places rest

/-- Granules taken for each team of a placement, core by core: for all of them, or, where a core cannot give its own,
none. -/
def State.takeCores (s : State) (places : List (Nat × Nat)) : List Nat → Option (List (Nat × List Nat)) × State
  | [] => (some [], s)
  | core :: rest =>
    match s.takeGranules core (grantsOn places core) with
    | (none, s) => (none, s)
    | (some ps, s) =>
      match State.takeCores s places rest with
      | (some more, s) => (some ((core, ps) :: more), s)
      | (none, s) => (none, s)

def State.reserve (s : State) (places : List (Nat × Nat)) : Option (List (Nat × List Nat)) × State :=
  let cores := dedup (places.map (·.1))
  match s.prepare places cores with
  | (true, s) => s.takeCores places cores
  | (false, s) => (none, s)

/-- The granules of each team of a placement, in order. -/
def deal : List (Nat × Nat) → List (Nat × List Nat) → List (Nat × List Nat)
  | [], _ => []
  | (core, n) :: rest, pools =>
    (core, (look pools core []).take n) ::
      deal rest (pools.map fun (c, ps) => if c = core then (c, ps.drop n) else (c, ps))

/-! ## The start of a team (R165 to R172) -/

/-- The next context number after the last one, passing over those in use (R364). -/
def State.freeCtx (s : State) : Nat → Nat → Nat
  | 0, c => c
  | n + 1, c =>
    let d := c % 0xFFFE + 1
    if s.teams.any fun t => t.ctx == d then State.freeCtx s n d else d

/-- The group `i` of a new team. -/
def newGroup (l : Launch) (o : CodeObject) (start : DWord) (now : Nat) (ctx slot i : Nat) (s01 : Nat × Nat) : Group :=
  let r := l.groupRoles.getD i 0
  let role := l.roleOf o r
  let before := ((l.frameSizes o).take i).sum
  { Group.reset with
    ctx := ctx, idx := i, role := r, width := role.width, budget := l.budgetOf o r
    frame := BitVec.ofNat 64 (l.frameVa + 4096 * (slot * (l.frameSizes o).sum + before))
    frameAt := before
    hvAt := l.hvStart o + ((l.hvSizes o).take i).sum
    handler := role.handler
    main := { Party.start (start + BitVec.ofNat 64 (4 * role.entry)) with ready := now }
    m := Group.reset.m.set 0 (onesBelow role.width)
    s := (Group.reset.s.set 0 (BitVec.ofNat 64 s01.1)).set 1 (BitVec.ofNat 64 s01.2)
    hdim := role.hdim, bwidth := role.bwidth
    h := List.replicate role.hregs 0
    b := List.replicate role.bregs (List.replicate role.hdim 0) }

/-- A team starts on a core, with its granules (R166): its context number, team slot, window and groups; REFS counts it
(R159), and the core acquires at .DEV (R120). -/
def State.startTeam (s : State) (id core : Nat) (phys : List Nat) : State :=
  let l := s.launchAt id
  match s.objectOf l with
  | none => s
  | some o =>
    let ctx := s.freeCtx 0xFFFF s.lastCtx
    let slot := (firstBelow l.tSlots fun k => !l.slots.contains k).getD 0
    let batch := match l.stream with
      | some q => q.queued.head?
      | none => none
    let linear := match l.stream with
      | some q => q.batch
      | none => l.next
    let t : Team :=
      { Team.reset with
        ctx := ctx, launch := id, core := core, state := .resident, linear := linear
        tx := if l.stream.isSome then linear % 2 ^ 31 else linear % l.gridX
        ty := if l.stream.isSome then 0 else linear / l.gridX % l.gridY
        tz := if l.stream.isSome then 0 else linear / (l.gridX * l.gridY)
        slot := slot, nGroups := l.groupCount
        accAt := l.accStart o, stagingAt := l.stagingStart o, sharedAt := l.fixedSize o
        acc := List.replicate l.nAcc AccTile.reset
        admitted := s.clock.toNat, since := s.us, joined := l.joinTime }
    let start := ((s.tf l.tf.toNat).slot l.codeSlot).base + BitVec.ofNat 64 o.codeOff
    let groups := (upTo l.groupCount).map fun i => newGroup l o start s.clock.toNat ctx slot i ((batch.map fun x => (x.1, x.2.1)).getD (0, 0))
    let s : State := { s with teams := s.teams ++ [t], groups := s.groups ++ groups, lastCtx := ctx }
    let s := s.giveGranules ctx (upTo phys.length) phys
    let s := s.mapSlot l.tf.toNat l.codeSlot fun c => { c with refs := c.refs + 1 }
    let s := s.mapLaunch id fun l =>
      { l with
        next := if l.stream.isSome then l.next else l.next + 1
        slots := l.slots ++ [slot]
        stream := l.stream.map fun q =>
          { q with queued := q.queued.drop 1, batch := q.batch + 1
                   running := q.running ++ (match batch with | some (a, n, _) => [(ctx, a + n, false)] | none => []) } }
    s.acquireActions ctx 4

/-- A placement of fresh teams: its granules are taken for all of them, or for none. -/
def State.placeFresh (s : State) (x : Pending) (places : List (Nat × Nat)) : State :=
  match s.reserve places with
  | (none, s) => s
  | (some pools, s) => (deal places pools).foldl (fun s p => s.startTeam x.launch p.1 p.2) s

/-- The first item of the pending list that can be placed is a team, or a grid, that has not started. -/
def execTeamAdmit (part : Nat) (s : State) : Out :=
  .next (
    let s := s.ageList part
    match s.nextPlace part with
    | some (x, places) => if x.saved.isEmpty then s.placeFresh x places else s
    | none => s)

/-! ## Resume and migration (R66, R151, R369) -/

/-- Window granules put into physical granules; what they hold stays. -/
def State.mapGranules (s : State) (ctx : Nat) (wgs phys : List Nat) : State :=
  let t := s.teamAt ctx
  (wgs.zip phys).foldl (fun s (wg, p) =>
    (s.setEntry t.core p
      { ctx := ctx, wg := wg, region := s.regionOf t wg, shared := false, retired := false, dirty := false, parked := none }).mapTeam ctx fun t =>
      { t with granules := t.granules.set wg (.inPool p) }) s

/-- The window is back (R368, R369): the core's weight tile is invalid (R299), the core acquires at .DEV (R120), a
migrated context is resident, and the recorded slices are presented before any group issues. -/
def State.settleResume (s : State) (ctx : Nat) : State :=
  let t := s.teamAt ctx
  if t.unfilled.isEmpty then
    (((s.dropTiles [t.core]).acquireActions ctx 4).mapTeam ctx fun t =>
      { t with state := if t.state = .migrating then .resident else t.state }).presentSlices ctx
  else s

/-- A saved team takes its place on a core: on its own core its retained granules are owned again and those that were
taken get new ones; on another core every region moves, and the context is migrating until they are there. Regions
other than frames are refilled before a group issues. -/
def State.resumeTeam (s : State) (ctx core : Nat) (phys : List Nat) : State :=
  let t := s.teamAt ctx
  let moves := core != t.core
  let gone := (upTo t.granules.length).filter fun wg => t.granules.getD wg .inBacking == .inBacking
  let s : State :=
    { s with
      poolMap :=
        if moves then s.poolMap.filter fun e => e.2.retired || e.2.ctx != ctx
        else s.poolMap.map fun (k, e) => (k, if e.ctx = ctx ∧ !e.retired then { e with dirty := false, parked := none } else e) }
  let s := s.mapTeam ctx fun t =>
    { t with
      core := core, state := if moves then .migrating else .resident, retained := false
      admitted := s.clock.toNat, since := s.us, aged := 0, hard := false, request := none, refill := none
      slotTicks := if moves then 0 else t.slotTicks
      unfilled := gone.filter fun wg => s.regionOf t wg != .frame }
  let s := s.mapGranules ctx (if moves then upTo t.granules.length else gone) phys
  let s : State :=
    { s with
      groups := s.groups.map fun g =>
        let wake (p : Party) : Party := { p with stopped := false, ready := s.clock.toNat }
        if g.ctx = ctx then { g with main := wake g.main, frags := g.frags.map fun f => { f with party := wake f.party } } else g }
  s.settleResume ctx

/-- A placement of saved teams. Their own granules are not taken for it. -/
def State.placeSaved (s : State) (x : Pending) (places : List (Nat × Nat)) : State :=
  let keep (on : Bool) (s : State) : State :=
    x.saved.foldl (fun s c => s.mapTeam c fun t => { t with retained := if on then t.isSaved && t.granules.any (· != .inBacking) else false }) s
  match (keep false s).reserve places with
  | (none, s) => keep true s
  | (some pools, s) => (x.saved.zip (deal places pools)).foldl (fun s p => s.resumeTeam p.1 p.2.1 p.2.2) s

/-- Every party of a context retires at once: no group of it has issued. -/
def State.retireAll (s : State) (ctx : Nat) : State :=
  ((s.allParties.filter fun (p : PartyRef) => p.ctx == ctx).foldl (fun s p => s.retireParty p) s).mapTeam ctx fun t =>
    { t with unfilled := [] }

/-- One granule is read back (R66, R151): it may park the team, or a fault ends it. -/
def State.refillStep (s : State) (ctx wg : Nat) : State :=
  match refillGranule ctx wg s with
  | .ok _ s => (s.mapTeam ctx fun t => { t with unfilled := t.unfilled.filter (· != wg) }).settleResume ctx
  | .error (.miss f) s => match s.parkCtx ctx f with
    | (some tok, s) => s.mapTeam ctx fun t => { t with refill := some tok }
    | (none, s) => s.retireAll ctx
  | .error (.fault f) s => (s.faultCtx ctx 0xFF f).retireAll ctx
  | .error _ s => s

/-- The parties of a group that has no control area to go on from retire, once it ends. -/
def State.dropEnding (s : State) (ctx grp : Nat) : State :=
  if (s.groupAt ctx grp).ending then
    (s.allParties.filter fun (p : PartyRef) => p.ctx == ctx && p.grp == grp).foldl (fun s p => s.retireParty p) s
  else s

/-- A group's control area is read back from its frame (R66, R151): a missing page parks that group alone. What software
wrote there (R67) may leave no party live, or only fragments with J = 1: R179 holds for it at once. The spec does not
give PC and WIDX of that park's record: they are those of the clause that the main side still has, or its saved PC and 0
(DESIGN CHOICE, log 146). -/
def State.controlStep (s : State) (g : Group) : State :=
  let p : PartyRef := { ctx := g.ctx, grp := g.idx, frag := none }
  match tenderRead g.ctx (g.frame + BitVec.ofNat 64 g.ctlOff) 512 s with
  | .ok bs s =>
    ((s.mapGroup g.ctx g.idx fun g => g.setControl (s.codeStart g.ctx) bs).groupExit g.ctx g.idx).releaseJoined g.ctx g.idx
  | .error (.miss f) s => (s.parkParty p f).dropEnding g.ctx g.idx
  | .error (.fault f) s => (s.faultParty p f).dropEnding g.ctx g.idx
  | .error _ s => s

/-- A group whose control area the Tender can read back now. -/
def State.controlOut (s : State) : Option Group :=
  s.groups.find? fun g =>
    g.ctlOut && (s.teamAt g.ctx).resident && (match g.main.wait with | .parked _ => false | _ => true)

/-- A resident team with a granule that the Tender can read back now. -/
def State.refillOut (s : State) : Option (Nat × Nat) :=
  s.teams.findSome? fun t =>
    if t.resident && t.refill.isNone then t.unfilled.head?.map fun wg => (t.ctx, wg) else none

/-- A resume goes on, or the first item of the pending list that can be placed is a saved team or grid. -/
def execTeamResume (part : Nat) (s : State) : Out :=
  .next (match s.refillOut, s.controlOut with
    | some (ctx, wg), _ => s.refillStep ctx wg
    | none, some g => s.controlStep g
    | none, none =>
      let s := s.ageList part
      match s.nextPlace part with
      | some (x, places) => if x.saved.isEmpty then s else s.placeSaved x places
      | none => s)

/-! ## Retirement (R237, R364) -/

/-- A record whose cause ends a team of a launch is held for a full queue (R142). -/
def State.endHeld (s : State) (l : Launch) : Bool :=
  (s.tf l.tf.toNat).held.any fun h => h.ends && h.launch == some l.id

/-- Nothing of a team is left to do: no group, no operation, no copy; and no record that ends it is held (R142). -/
def State.teamOver (s : State) (ctx : Nat) : Bool :=
  (s.teams.any fun t => t.ctx == ctx) && !(s.groups.any fun g => g.ctx == ctx) && !(s.ops.any fun o => o.ctx == ctx) &&
    !(s.copies.any fun c => c.ctx == ctx && c.node.isNone) && !s.endHeld (s.launchOf ctx)

/-- The window is released, the team slot and the context number are free, REFS falls, and the launch keeps the
energy; a batch's records are freed in order (R330). -/
def State.retireTeam (s : State) (ctx : Nat) : State :=
  let t := s.teamAt ctx
  let l := s.launchAt t.launch
  let s := s.freeGranules ctx
  let s : State := { s with teams := s.teams.filter fun x => x.ctx != ctx }
  let s := s.mapSlot l.tf.toNat l.codeSlot fun c => { c with refs := c.refs - 1 }
  let s := s.mapLaunch t.launch fun l =>
    { l.chargeUnits t.energy.toNat with
      slots := l.slots.filter (· != t.slot)
      stream := l.stream.map fun q =>
        { q with running := q.running.map fun (c, n, d) => (c, n, d || c == ctx) }.freeUp (q.running.length) }
  if l.stream.isSome then s.writeCounters t.launch else s

def execTeamRetire (ctx : Nat) (s : State) : Out := .next (if s.teamOver ctx then s.retireTeam ctx else s)

end Sys2Proof.Machine
end

