-- ==== Sys2Proof/Machine/Preempt.lean ====
section
/-!
DEFINITION. Pre-emption: aging (R349), the requests (R351, R365), the hard stop (R366) and the save (R66, R120, R145,
R367, R368).
-/

namespace Sys2Proof.Machine

/-! ## Aging (R349) -/

def execPlacementAging (part : Nat) (s : State) : Out := .next (s.ageList part)

/-! ## The request (R365) -/

/-- A party that stops at once when its team is asked to stop: one that waits as R365 lists, and any party of a team
whose regions are still being read back, since none has issued. -/
def Party.stopNow (p : Party) (unfilled : Bool) : Party :=
  if p.wait.stops || unfilled then { p with stopped := true, active := false } else p

/-- STATE becomes 2, for a team whose migration is not over too. -/
def State.requestTeam (s : State) (ctx : Nat) : State :=
  if (s.teamAt ctx).state = .resident ∨ (s.teamAt ctx).state = .migrating then
    let u := !(s.teamAt ctx).unfilled.isEmpty
    let s := s.mapTeam ctx fun t => { t with state := .stopping, request := some s.us }
    { s with
      groups := s.groups.map fun g =>
        if g.ctx = ctx then
          { g with main := g.main.stopNow u, frags := g.frags.map fun f => { f with party := f.party.stopNow u } }
        else g }
  else s

/-- A team is asked to stop; of a COSCHED grid every team (R351). -/
def State.requestStop (s : State) (ctx : Nat) : State :=
  let l := s.launchOf ctx
  if l.cosched then (s.teams.filter fun t => t.launch == l.id).foldl (fun s t => s.requestTeam t.ctx) s
  else s.requestTeam ctx

/-! ## Time slice (R351) -/

/-- The partition of a team. -/
def State.partOf (s : State) (t : Team) : Nat := (s.tf (s.launchAt t.launch).tf.toNat).part.toNat

def State.sliceDue (s : State) (t : Team) : Bool :=
  t.state == .resident && s.ctl.quantum != 0 && decide (s.ctl.quantum.toNat ≤ s.us - t.since) &&
    ((s.ageList (s.partOf t)).pending (s.partOf t)).any fun x => decide (x.cls ≤ (s.launchAt t.launch).cls)

def execTimeSlice (ctx : Nat) (s : State) : Out :=
  .next (if s.sliceDue (s.teamAt ctx) then s.requestStop ctx else s)

/-! ## Room (R351) -/

/-- The choices of `k` elements of a list, earlier elements first. -/
def choose {α : Type} : Nat → List α → List (List α)
  | 0, _ => [[]]
  | _ + 1, [] => []
  | k + 1, a :: t => (choose k t).map (a :: ·) ++ choose (k + 1) t

/-- Granules that a team's save would leave for the allocator. -/
def Team.wouldFree (t : Team) : Nat :=
  ((upTo t.granules.length).filter fun wg => t.granules.getD wg .inBacking != .inBacking && !t.shared.contains wg).length

/-- A core after the save of some of its teams: their stalled requests are withdrawn, and those that are left are
granted in order, as far as the granules go (R50). -/
def State.without (s : State) (r : Room) (ts : List Team) : Room :=
  let r := ts.foldl (fun r t =>
    { r with
      free := addSlots r.free (s.slotsHeld t.ctx), gran := r.gran + t.wouldFree
      stalled := r.stalled.filter fun x => x.1 != t.ctx }) r
  r.stalled.foldl (fun r x => if r.stalled.head? = some x ∧ x.2 ≤ r.gran then { r with gran := r.gran - x.2, stalled := r.stalled.drop 1 } else r) r

/-- The fewest resident teams of a strictly higher class number whose save lets a team fit on a core, the highest class
numbers first. -/
def State.victims (s : State) (n : Need) (cls : Nat) (r : Room) : Option (List Team) :=
  let ts := sortBy (fun (a b : Team) => decide ((s.launchAt b.launch).cls ≤ (s.launchAt a.launch).cls))
    ((s.residentOn r.core).filter fun t => t.state == .resident && decide (cls < (s.launchAt t.launch).cls))
  (upTo (ts.length + 1)).findSome? fun k => (choose k ts).find? fun vs => (s.without r vs).fits n

/-- The core where the fewest teams have to go, with ties to the lowest index. -/
def State.bestVictims (s : State) (n : Need) (cls : Nat) (rs : List Room) : Option (List Team) :=
  leastBy List.length (rs.filterMap (s.victims n cls))

/-- The first team of an item that fits nowhere, among rooms that the teams before it have taken. -/
def firstStuck (rs : List Room) : List (Need × Bool) → Option (Need × List Room)
  | [] => none
  | (n, retained) :: rest =>
    match chooseRoom rs n retained with
    | none => some (n, rs)
    | some r => firstStuck (rs.map fun x => if x.core = r.core then x.take n else x) rest

/-- The rooms of an item when every team that is already stopping has gone. -/
def State.roomsAfter (s : State) (x : Pending) : List Room :=
  (s.rooms x).map fun r => s.without r ((s.residentOn r.core).filter fun t => t.state == .stopping)

/-- The teams to pre-empt for an item that has waited PREWAIT µs and fits on no core. -/
def State.roomFor (s : State) (x : Pending) : Option (List Team) :=
  if s.ctl.prewait = 0xFFFF ∨ s.us - x.since < s.ctl.prewait.toNat ∨ (s.placeable x).isSome then none
  else
    match s.needs x with
    | none => none
    | some ns =>
      match firstStuck (s.roomsAfter x) ns with
      | none => none
      | some (n, rs) => s.bestVictims n x.cls rs

def execPreemptForRoom (part : Nat) (s : State) : Out :=
  .next (
    let s := s.ageList part
    match (s.pending part).findSome? s.roomFor with
    | some ts => ts.foldl (fun s t => s.requestStop t.ctx) s
    | none => s)

/-! ## The hard stop (R366) -/

def State.hardDue (s : State) (t : Team) : Bool :=
  t.state == .stopping && !t.hard &&
    (match t.request with | some r => decide (s.ctl.timeout.toNat ≤ s.us - r) | none => false)

/-- Parties between clauses stop; the others stop at their next boundary. -/
def Party.stopHard (p : Party) : Party :=
  if p.clause.isNone && p.wait != .joined && p.wait != .exited then { p with stopped := true, active := false } else p

def execPreemptHardStop (ctx : Nat) (s : State) : Out :=
  .next (if s.hardDue (s.teamAt ctx) then
      let s := s.mapTeam ctx fun t => { t with hard := true }
      { s with
        groups := s.groups.map fun g =>
          if g.ctx = ctx then
            { g with main := g.main.stopHard, frags := g.frags.map fun f => { f with party := f.party.stopHard } }
          else g }
    else s)

/-! ## The save (R120, R367) -/

/-- A party that issues nothing more: stopped, stopped at its JOIN, or held behind a handler. -/
def Party.still (p : Party) : Bool := p.stopped || p.wait == .joined || p.wait == .handler

/-- Every party has stopped, and peers have acknowledged the stores of every group (R107, R120, R365). -/
def State.canSave (s : State) (ctx : Nat) : Bool :=
  (s.teamAt ctx).state == .stopping && (s.groups.any fun g => g.ctx == ctx) &&
    !(s.groups.any fun g => g.ctx == ctx && s.awaitsPeers ctx g.idx) &&
    (s.allParties.filter fun (p : PartyRef) => p.ctx == ctx).all fun p => (s.partyOf p).still

/-- What the context keeps of a party: where a parked or held one stands in its clause (R145), which goes on under the
saved MODE (R202); for the others the header at which they go on or re-execute (R283). -/
def Party.save (p : Party) (mode : Word) : Party :=
  match p.wait with
  | .parked _ => { p.inMode mode with wait := .none, active := false }
  | .none | .handler | .joined | .exited => { p.inMode mode with active := false }
  | _ => { Party.start p.savedPc with stopped := true }

/-- Granules that were never read back after the last resume hold nothing yet. -/
def State.dropUnfilled (s : State) (ctx : Nat) : State :=
  let t := s.teamAt ctx
  t.unfilled.foldl (fun s wg =>
    match t.granules.getD wg .inBacking with
    | .inPool p => (s.dropEntry t.core p).mapTeam ctx fun t => { t with granules := t.granules.set wg .inBacking }
    | .inBacking => s) s

/-- The Keeper saves a team: release actions of every group, copies that await slices cancelled, registers and control
areas in the frame regions, every granule retained. -/
def State.saveTeam (s : State) (ctx : Nat) : State :=
  let s := (s.groups.filter fun g => g.ctx == ctx).foldl (fun s g => s.releaseActions ctx g.idx 5) s
  let s := (s.cancelCopies ctx).dropUnfilled ctx
  let s : State :=
    { s with
      groups := s.groups.map fun g =>
        if g.ctx = ctx then { g with main := g.main.save g.mode, frags := g.frags.map fun f => { f with party := f.party.save g.mode } } else g
      poolMap := s.poolMap.map fun e => if e.2.ctx == ctx && !e.2.retired then (e.1, { e.2 with dirty := true }) else e
      stamp := s.stamp + 1 }
  s.mapTeam ctx fun t =>
    { t with
      state := .savedRetained, retained := true, saveStamp := s.stamp, admitted := s.clock.toNat, since := s.us, request := none, hard := false
      unfilled := [], refill := none, lines := [] }.settleSaved

/-- A team of a retired core that cannot migrate, since it holds a cluster-shared region (R41, R409). -/
def State.stranded (s : State) (ctx : Nat) : Bool :=
  s.health.retiredCores.contains (s.coreOf ctx) && !(s.teamAt ctx).shared.isEmpty

/-- A stopped team is saved; one that could not resume anywhere ends. -/
def execKeeperSave (ctx : Nat) (s : State) : Out :=
  .next (if s.canSave ctx then
      if s.stranded ctx then s.faultCtx ctx 0xFF (plainFault cDataPoison 0) else s.saveTeam ctx
    else s)

end Sys2Proof.Machine
end

