-- ==== Sys2Proof/Machine/Task.lean ====
section
/-!
DEFINITION. The task words EMIT, EFLUSH, LAUNCH and SIGNAL at issue (R332 to R336).
-/

namespace Sys2Proof.Machine

/-- Energy class of the task and system words (Table 15-3). -/
def sysEnergy : Energy := ⟨0, false⟩

/-- RECBYTES of a successor's input queue, where it can be seen at issue: of the open node, or from the record and the
descriptor in memory. -/
def State.recBytes (s : State) (l : Launch) (j : Nat) : Option Nat :=
  let record := l.succ.getD j 0
  match s.openNode l.tf record with
  | some n => n.stream.map (·.recSize)
  | none =>
    let t := l.tf.toNat
    match keeperLoad t record 512 Access.keeperRead s with
    | .ok b _ =>
      let b := if b.headD 0 == 1 then copyNodeBytes b else b
      let inq := Launch.inq { Launch.reset with bytes := b }
      if inq == 0 then none
      else match keeperLoad t (BitVec.ofNat 64 inq) 64 Access.keeperRead s with
        | .ok d _ => some (ofLe ((d.drop 8).take 2))
        | .error _ _ => none
    | .error _ _ => none

/-- EMIT's checks (R335, R346), and the operation. -/
def emitWord (f : BitVec 1) (p c : BitVec 5) (j : BitVec 8) : M Unit := do
  impure
  let s ← get
  let ctx := s.cur.ctx
  let l := s.launchOf ctx
  let off := (s.curGroup.readS p.toNat).toNat
  let n := (s.curGroup.readS c.toNat).toNat
  if l.nSucc ≤ j.toNat ∨ 256 < n then trapWord cDescriptor 2
  match s.recBytes l j.toNat with
  | some k =>
    if n * k != 0 && !(s.teamAt ctx).inData off (n * k) then throw (.fault (addrFault cProtection (BitVec.ofNat 64 off) 0x01))
  | none => pure ()
  if s.moving ctx then throw (.hold .moving)
  modify fun s => s.engineIssue ctx s.cur.grp false
  issueOp f (.emit j.toNat off n)

def execEmit (f : BitVec 1) (p : BitVec 5) (c : BitVec 5) (j : BitVec 8) (s : State) : Out :=
  .next (runWord sysEnergy (emitWord f p c j) s)

def eflushWord (f : BitVec 1) (j : BitVec 8) : M Unit := issueOp f (.eflush j.toNat)

def execEflush (f : BitVec 1) (j : BitVec 8) (s : State) : Out := .next (runWord sysEnergy (eflushWord f j) s)

/-- LAUNCH and SIGNAL: a record's address, aligned to 512 bytes, under a release at .DEV (R125). -/
def startWord (f : BitVec 1) (r : BitVec 5) (k : DWord → OpKind) : M Unit := do
  impure
  let s ← get
  let a := s.curGroup.readS r.toNat
  if a.toNat % 512 != 0 then trapWord cMisaligned 512
  modify fun s => s.releaseActions s.cur.ctx s.cur.grp 4
  issueOp f (k a)

def execLaunch (f : BitVec 1) (r : BitVec 5) (s : State) : Out := .next (runWord sysEnergy (startWord f r .launch) s)

def execSignal (f : BitVec 1) (r : BitVec 5) (s : State) : Out := .next (runWord sysEnergy (startWord f r .signal) s)

end Sys2Proof.Machine
end

