-- ==== Sys2Proof/Machine/System.lean ====
section
/-!
DEFINITION. The system words: SYSRD (R337), MODEW and MODER (R338), TRAPINFO and FWD (R339, R340).
-/

namespace Sys2Proof.Machine

/-! ## SYSRD (Table 14-3) -/

/-- The lowest active lane of the party; all ones when it has none. -/
def lowestLane (w : Nat) (mask : DWord) : DWord :=
  match (bitsOf w mask).head? with
  | some l => BitVec.ofNat 64 l
  | none => 0xFFFFFFFFFFFFFFFF

def State.sysValue (s : State) (x : Nat) : DWord :=
  let g := s.curGroup
  let t := s.teamAt s.cur.ctx
  match x with
  | 0 => lowestLane g.width (g.mask s.cur.frag)
  | 1 => BitVec.ofNat 64 g.width
  | 2 => BitVec.ofNat 64 g.idx
  | 3 => BitVec.ofNat 64 t.tx
  | 4 => BitVec.ofNat 64 t.ty
  | 5 => BitVec.ofNat 64 t.tz
  | 6 => BitVec.ofNat 64 g.role
  | 7 => BitVec.ofNat 64 t.core
  | 8 => BitVec.ofNat 64 (Config.clusterOf t.core)
  | 9 => BitVec.ofNat 64 (Config.dieOf t.core)
  | 10 => s.clock
  | 11 => t.energy
  | 12 => BitVec.ofNat 64 (s.tfOf s.cur.ctx)
  | _ => (s.launchOf s.cur.ctx).num.setWidth 64

/-- The values that a pure task may not read (R345). -/
def sysImpure (x : Nat) : Bool := [7, 8, 9, 10, 11, 13].contains x

def sysrdWord (d : BitVec 5) (x : BitVec 8) : M Unit := do
  if sysImpure x.toNat then impure
  if 14 ≤ x.toNat then illegal
  modify fun s => s.writeS d.toNat (s.sysValue x.toNat)

def execSysrd (d : BitVec 5) (x : BitVec 8) (s : State) : Out := .next (runWord sysEnergy (sysrdWord d x) s)

/-! ## MODE and FSTAT (R199, R338) -/

def modewWord (b : BitVec 8) : M Unit := do
  let v := ((← get).selS b).setWidth 32
  if v.extractLsb' 0 3 == 7 then illegal
  mapCur fun g => { g with mode := v &&& 0xFFF }

def execModewMode (b : BitVec 8) (s : State) : Out := .next (runWord sysEnergy (modewWord b) s)

def execModerMode (d : BitVec 5) (s : State) : Out :=
  .next (runWord sysEnergy (modify fun s => s.writeS d.toNat (s.curGroup.mode.setWidth 64)) s)

def execModewFstat (b : BitVec 8) (s : State) : Out :=
  .next (runWord sysEnergy (do
    let v := ((← get).selS b).setWidth 32
    mapCur fun g => { g with fstat := v &&& 0xFFFFFF7F }) s)

/-- MODER fstat waits for every earlier hypervector word of the group (R316). -/
def moderFstatWord (d : BitVec 5) : M Unit := do
  let s ← get
  if s.ops.any fun o => o.ctx == s.cur.ctx && o.grp == s.cur.grp && o.kind.isHv then throw (.hold .scoreboard)
  modify fun s => s.writeS d.toNat (s.curGroup.fstat.setWidth 64)

def execModerFstat (d : BitVec 5) (s : State) : Out := .next (runWord sysEnergy (moderFstatWord d) s)

/-! ## TRAPINFO and FWD -/

/-- The words of the record that a handler may write (Table 16-2). -/
def trapWritable (k : Nat) : Bool := k == 2 || k == 3 || k == 7

def trapinfoWord (d : BitVec 5) (a b : BitVec 8) : M Unit := do
  let s ← get
  if !s.inHandler then illegal
  let v := s.selS b
  let x := s.selS a
  let k := v.toNat % 8
  modify fun s => s.writeS d.toNat (s.curGroup.trap.words.getD k 0)
  if v.getLsbD 8 && trapWritable k then
    mapCur fun g => { g with trap := { g.trap with words := g.trap.words.set k x } }

def execTrapinfo (d : BitVec 5) (a : BitVec 8) (b : BitVec 8) (s : State) : Out :=
  .next (runWord sysEnergy (trapinfoWord d a b) s)

/-- FWD: the record carries the trap's cause, detail, PC and word index; the team ends. -/
def State.forward (s : State) : State :=
  let w := s.curGroup.trap.words
  let w0 := w.getD 0 0
  let cause := w0.setWidth 8
  let l := s.launchOf s.cur.ctx
  let f := { plainFault cause (w0.extractLsb' 32 32) with va := w.getD 4 0 }
  let r := { s.partyRecord s.cur f 0 false with pc := w.getD 1 0, widx := (w0.extractLsb' 8 4).setWidth 8 }
  let s := (s.charge sysEnergy).stampIssue
  let s := s.addRecord l.tf.toNat r (some l.id) true
  (s.killLaunch l.id (some s.cur.ctx) cause).retireParty s.cur

def execFwd (s : State) : Out := .next (if s.inHandler then s.forward else runWord sysEnergy illegal s)

end Sys2Proof.Machine
end

