-- ==== Sys2Proof/Machine/Clause.lean ====
section
/-!
DEFINITION. Clauses (R204 to R212): WAIT and safe points, the checks of a word before it issues (R207, R208, R211, R225),
prefixes (R218), and words that are no instruction.
-/

namespace Sys2Proof.Machine

/-! ## Places in a clause -/

/-- BRA, BRC, BRM, JMPI, CALL, CALLI, RET, LOOP, SPLIT, EXIT and ERET end their clause; JOIN stands alone (R208). -/
def placed (c : Clause) (op : Nat) : Bool :=
  if op = 9 then hdrCount c.hdr == 1
  else if op ≤ 8 ∨ op = 0xA ∨ op = 0xF then c.idx == hdrCount c.hdr
  else true

/-- R207 and R208: whether a word may stand where it does in its clause. -/
def admitted (c : Clause) (w : Word) : Bool :=
  (match opClass (opOf w) with
   | some k => k == hdrClass c.hdr
   | none => true) && placed c (opOf w)

/-- The energy that a word of an opcode charges when it traps before its meaning decides (Table 15-3, R357): copies and
collectives have moved no chunk, and an opcode of no class charges nothing. -/
def State.opUnits (s : State) (w : Word) : Nat :=
  let op := opOf w
  let v := s.curGroup.width / 16
  if op ≤ 0x25 ∨ (0x78 ≤ op ∧ op ≤ 0x7C) then s.weight 0
  else if (opClass op).isNone then 0
  else if op ≤ 0x5B then
    s.weight (if 0x49 ≤ op ∧ op ≤ 0x4C then 3
              else if (0x40 ≤ op ∧ op ≤ 0x4E) ∨ op = 0x51 ∨ op = 0x52 then 2 else 1) * v
  else if op ≤ 0x67 then
    s.weight 4 * (if op = 0x5E ∨ op = 0x5F ∨ op = 0x67 ∨ (op = 0x66 ∧ field w.toNat 20 2 = 0) then 1 else v)
  else if op = 0x69 then s.weight 7
  else if op ≤ 0x6A then 0
  else if op = 0x6D then s.weight 5 * v
  else if op ≤ 0x70 then s.weight 6
  else if op = 0x75 then s.hvUnits * (hvCount s.curGroup (field w.toNat 0 5) + 1)
  else s.hvUnits

/-- A prefix charges with the word that it qualifies: the pair issues as one instruction (R218). -/
def State.wordUnits (s : State) (w : Word) : Nat :=
  if opOf w = 0x7F then
    match s.curParty.clause with
    | some c => if prefixable c then s.opUnits (c.words.getD c.idx 0) else 0
    | none => 0
  else s.opUnits w

/-- A word traps before its meaning decides. -/
def State.refuseWord (s : State) (w : Word) (cause : Byte) : State :=
  (s.chargeUnits s.cur.ctx (s.wordUnits w)).stopWord noEnergy s.trapRet (.trap cause 0 0 0)

/-- R225: a word that is no instruction raises ILLEGAL_INSTRUCTION precisely at that word. -/
def execIllegalInstruction (w : BitVec 32) (s : State) : Out := .next (s.refuseWord w cIllegalInstruction)

/-! ## Prefixes (R218) -/

/-- A prefix qualifies the word after it; the pair issues as one instruction. -/
def execPrefixWord (m : BitVec 4) (z : BitVec 1) (r : BitVec 3) (f : BitVec 8) (k : BitVec 3) (a : BitVec 6) (s : State) : Out :=
  .next (match s.curParty.clause with
    | none => s
    | some c =>
      if prefixable c then
        s.mapCurParty fun pt =>
          { pt with
            clause := some { c with
              idx := c.idx + 1
              pre := some { sel := m, zero := z, rnd := r, fourth := f, kind := k, amount := a } } }
      else s.stopWord noEnergy s.trapRet (.trap cIllegalPrefix 0 0 0))

/-! ## The checks of a word -/

/-- A memory word of lanes whose active set is empty: it raises nothing (R267). -/
def State.noLanes (s : State) (w : Word) (pre : Option Prefix) : Bool :=
  decide (0x5C ≤ opOf w) && decide (opOf w ≤ 0x65) && opOf w != 0x5E && opOf w != 0x5F &&
    s.curGroup.activeLanes s.cur.frag (pre.getD Prefix.absent).sel == 0

/-- R65, R315: the word consumes a poisoned scalar. -/
def State.poisonedScalar (s : State) (w : Word) (pre : Option Prefix) : Bool :=
  (s.curGroup.uses w pre).s.any s.curGroup.sPoison.contains && !s.noLanes w pre

/-- What happens to the next word of a party: it may not stand there, a register has first to be filled, it holds, it
consumes poison, or it issues. -/
inductive Issue where
  | refuse (cause : Byte)
  | fill (reg : Nat)
  | hold
  | poison
  | go
  deriving DecidableEq, Repr

/-- The checks of Table 08-16 that come before a word's decoding. A prefix is checked with the word after it, since they
issue as one (R218). -/
def misplaced (c : Clause) (w : Word) : Option Byte :=
  if !admitted c w then some cIllegalClause
  else if opOf w = 0x7F then
    if !prefixable c then some cIllegalPrefix
    else if !admitted { c with idx := c.idx + 1 } (c.words.getD c.idx 0) then some cIllegalClause
    else none
  else none

/-- The current word of the issuing party: its place, the registers it needs, and poison. -/
def State.issueCheck (s : State) (c : Clause) (w : Word) : Issue :=
  match misplaced c w with
  | some cause => .refuse cause
  | none =>
    match s.curGroup.needFill s.cur.frag w c.pre with
    | some r => .fill r
    | none =>
      if s.scoreboard s.cur.ctx s.cur.grp w c.pre then .hold else if s.poisonedScalar w c.pre then .poison else .go

/-! ## The start of a clause (R209) -/

/-- Copy words of a party that await slices (R365): those of its group, which its main side issued (R176). -/
def State.awaitsSlices (s : State) (p : PartyRef) : Bool :=
  p.frag.isNone && s.copies.any fun c => c.ctx == p.ctx && c.node.isNone && !c.started && c.parts.any fun x => x.grp == p.grp

/-- The start of a fetched clause: a stop at a safe point (R365), WAIT and what it sees of operations that wrote
tenant memory (R113), deferred traps (R305), which report word 0 of this clause (R239), the live mask (R61), and the
words begin, under the MODE in force now (R200). -/
def beginClause (c : Clause) : M Unit := do
  let s ← get
  let p := s.cur
  let live : State → State := fun s => s.mapCur fun g => s.afterLive c g
  if hdrSafe c.hdr && s.stopping p.ctx && !s.awaitsSlices p then
    modify fun s => (live s).mapCurParty fun pt => { pt with stopped := true, active := false }
  else
    if !s.curGroup.waitMet c.hdr then throw (.wait (.header c.hdr))
    modify fun s => (s.seeLanded p.ctx p.grp fun n => (hdrWait c.hdr).getLsbD n).mapCurParty fun pt =>
      { pt with clause := some { c with idx := 0 } }
    raiseDeferred fun d => match d.flag with
      | some n => (hdrWait c.hdr).getLsbD n
      | none => false
    modify fun s => (live s).mapCurParty fun pt => { pt with clause := some c, wait := .none }

/-- A party at its next header: one outside the code section (R232), in a page not yet verified (R159), or fetched. -/
def headerWord : M Unit := do
  let s ← get
  let pc := s.curParty.pc
  if !s.targetOk s.cur.ctx pc then illegal
  if !s.codeKnown s.cur.ctx pc then throw (.wait (.code ((pc - s.codeStart s.cur.ctx).toNat / 65536)))
  beginClause (← fetchClause s.cur.ctx pc s.curGroup.mode)

/-- A party that may begin a clause: its team is on its core with all that it needs there, and it stands at a header. -/
def State.atHeader (s : State) (p : PartyRef) : Bool :=
  let g := s.groupAt p.ctx p.grp
  let pt := g.party p.frag
  s.hasGroup p.ctx p.grp && g.live p.frag && s.onCore p && pt.clause.isNone && pt.wait == .none && !pt.stopped

/-- The outcome of a start that does not begin: a trap or fault at word 0, or a wait. -/
def State.startClause (s : State) : State :=
  match headerWord s with
  | .ok _ t => t
  | .error st t => t.stopWord noEnergy t.trapRet st

/-- A party of an ending group retires at its header, and one of a team past its time stops there (R414, R366);
otherwise the clause begins. -/
def execClauseStart (p : PartyRef) (s : State) : Out :=
  .next (if s.atHeader p then
      if (s.groupAt p.ctx p.grp).ending || (s.teamAt p.ctx).hard then s.boundary p else s.withCur p State.startClause
    else s)

end Sys2Proof.Machine
end

