-- ==== Sys2Proof/Machine/Sched.lean ====
section
/-!
DEFINITION. Quadrants: the active set (R352 to R355) and the choice of the party that issues (R353).
-/

namespace Sys2Proof.Machine

def State.activeOf (s : State) (core quad : Nat) : List PartyRef := (s.quadParties core quad).filter fun p => (s.partyOf p).active

/-- The ready parties of a quadrant's pending set. -/
def State.readyOf (s : State) (core quad : Nat) : List PartyRef := (s.quadParties core quad).filter s.pendingReady

/-- How long a party has been ready. -/
def State.readyFor (s : State) (p : PartyRef) : Nat := s.clock.toNat - (s.partyOf p).ready

/-- The longer ready first, then the order of R353: the one that issued in the earlier cycle. The list in which parties
are asked decides ties: slots, main side first, then entries. -/
def State.readyBefore (s : State) (p q : PartyRef) : Bool :=
  let a := s.partyOf p
  let b := s.partyOf q
  decide (a.ready < b.ready) || (a.ready == b.ready && decide (a.issued ≤ b.issued))

/-- The starving party that has been ready longest (R355). -/
def State.starving (s : State) (core quad : Nat) : Option PartyRef :=
  (sortBy s.readyBefore ((s.readyOf core quad).filter fun p => decide (3072 ≤ s.readyFor p))).head?

/-- The ready party of the best class, then ready longest. -/
def State.bestReady (s : State) (core quad : Nat) : Option PartyRef :=
  let cls (p : PartyRef) : Nat := (s.launchOf p.ctx).cls
  (sortBy (fun p q => decide (cls p < cls q) || (cls p == cls q && s.readyBefore p q)) (s.readyOf core quad)).head?

/-- A party has entered the quadrant's active set in this cycle: no other does (R355). -/
def State.enteredNow (s : State) (core quad : Nat) : Bool := (s.quadAt core quad).entered == some s.clock.toNat

/-- Entry into the active set, now; it counts as an issue (R353). -/
def State.enter (s : State) (p : PartyRef) : State :=
  { ((s.mapPartyOf p fun pt => { pt with active := true, wasReady := false, entered := s.stamp, issued := s.clock.toNat }).mapQuad
      (s.coreOf p.ctx) (p.grp % 4) fun q => { q with entered := some s.clock.toNat }) with
    stamp := s.stamp + 1 }

/-- The active party that entered longest ago goes back to the pending set. -/
def State.displace (s : State) (core quad : Nat) : State :=
  match leastBy (fun p => (s.partyOf p).entered) (s.activeOf core quad) with
  | some p => s.mapPartyOf p fun pt => { pt with active := false, ready := s.clock.toNat }
  | none => s

def execPartyActivate (core quad : Nat) (s : State) : Out :=
  .next (if (s.starving core quad).isNone && decide ((s.activeOf core quad).length < 8) && !s.enteredNow core quad then
      match s.bestReady core quad with
      | some p => s.enter p
      | none => s
    else s)

def execStarvation (core quad : Nat) (s : State) : Out :=
  .next (match s.starving core quad with
    | some p =>
      if s.enteredNow core quad then s
      else (if 8 ≤ (s.activeOf core quad).length then s.displace core quad else s).enter p
    | none => s)

/-! ## The next word (R353) -/

/-- An active party with a word to issue: in a clause, waiting for nothing, on its core. -/
def State.hasWord (s : State) (p : PartyRef) : Bool :=
  let pt := s.partyOf p
  pt.active && pt.clause.isSome && pt.wait == .none && !pt.stopped && s.onCore p

/-- Its word is ready to issue (R352). -/
def State.readyWord (s : State) (p : PartyRef) : Bool :=
  match (s.partyOf p).clause with
  | some c => s.hasWord p && s.wordReady p c
  | none => false

/-- The side that a party's next word needs: true for the scalar pipe. -/
def State.sideOf (s : State) (p : PartyRef) : Bool := scalarOp (opOf (s.partyOf p).word)

/-- A party of the quadrant has issued on a side in this cycle. -/
def State.issuedNow (s : State) (core quad : Nat) (side : Bool) : Bool :=
  let q := s.quadAt core quad
  (if side then q.scalar else q.other) == some s.clock.toNat

/-- The parties that compete for a side of a quadrant in this cycle: none once it has issued there; no party issues
two words in one cycle. -/
def State.contenders (s : State) (core quad : Nat) (side : Bool) : List PartyRef :=
  if s.issuedNow core quad side then []
  else (s.quadParties core quad).filter fun p =>
    s.readyWord p && s.sideOf p == side && (s.partyOf p).last.all fun x => x.1 != s.clock.toNat

/-- The party that a side of a quadrant takes in this cycle: the one whose last issue or entry is in the earliest cycle,
the first of equals in the order of slots and entries. A party's next word needs one side alone, so that neither choice
takes from the other. -/
def State.chosen (s : State) (core quad : Nat) (side : Bool) : Option PartyRef :=
  leastBy (fun p => (s.partyOf p).issued) (s.contenders core quad side)

/-- The party's side has chosen it for this cycle. -/
def State.isChosen (s : State) (p : PartyRef) : Bool :=
  s.chosen (s.coreOf p.ctx) (p.grp % 4) (s.sideOf p) == some p

/-- Words that the allocator serves in the order in which they arrive: PGROW, PSHRINK and EXIT (R50). -/
def poolRequest (w : Word) : Bool := opOf w == 0x0A || (opOf w == 0x67 && decide (field w.toNat 21 3 ≤ 1))

/-- The pool requests that the quadrants of a core issue in this cycle, in the allocator's order: by quadrant, then by
slot (R50). -/
def State.requests (s : State) (core : Nat) : List PartyRef :=
  (upTo 4).flatMap fun q => (s.quadParties core q).filter fun p => poolRequest (s.partyOf p).word && s.readyWord p && s.isChosen p

/-- The next word of a party is looked at now: it issues where its quadrant has chosen it, a pool request in the
allocator's turn, and one that is not ready moves to the pending set (R354). -/
def State.canIssue (s : State) (p : PartyRef) : Bool :=
  s.hasWord p &&
    (!s.readyWord p ||
      (s.isChosen p && (!poolRequest (s.partyOf p).word || (s.requests (s.coreOf p.ctx)).head? == some p)))

end Sys2Proof.Machine
end

