-- ==== Sys2Proof/Machine/Power.lean ====
section
/-!
DEFINITION. Energy at each tick (R358, R359), and the power manager (R408).
-/

namespace Sys2Proof.Machine

/-! ## The tick of 1 µs -/

/-- A context that is charged at a tick: resident, or saved in that very cycle (Table 15-4). -/
def State.chargeable (s : State) (t : Team) : Bool := t.resident || (t.isSaved && t.admitted == s.clock.toNat)

/-- Slot-cycles of a core's contexts since the last tick. -/
def State.slotCycles (s : State) (core : Nat) : Nat :=
  ((s.teams.filter fun t => t.core == core && s.chargeable t).map (·.slotTicks)).sum

/-- A context's share of its core's static energy. -/
def State.staticShare (s : State) (t : Team) : Nat :=
  if s.chargeable t && s.slotCycles t.core != 0 then s.ctl.static.toNat * t.slotTicks / s.slotCycles t.core else 0

/-- A launch's energy: exited contexts and those that it still has. -/
def State.launchEnergy (s : State) (l : Launch) : Nat :=
  l.energy + ((s.teams.filter fun t => t.launch == l.id).map (·.energy.toNat)).sum

/-- The budget in nJ: the record's within the limit, or the tenant function's default; 0 for none. -/
def State.budget (s : State) (l : Launch) : Nat :=
  let b := s.tf l.tf.toNat
  if l.energyField = 0 then b.eDef.toNat
  else if b.eLim = 0 then l.energyField
  else min l.energyField b.eLim.toNat

/-- The current class at a tick. -/
def State.classNow (s : State) (l : Launch) : Nat :=
  if s.budget l = 0 then l.base else min 7 (l.base + s.launchEnergy l / (s.budget l * 65536))

/-- Corrected errors count within one hour (R409). -/
def hourUs : Nat := 3600000000

/-- The tick: static shares, classes, time. -/
def State.tick (s : State) : State :=
  let s : State :=
    { s with
      teams := s.teams.map fun t =>
        { t with energy := BitVec.ofNat 64 (min (t.energy.toNat + s.staticShare t) (2 ^ 64 - 1)), slotTicks := 0 } }
  { s with
    launches := s.launches.map fun l => { l with cls := s.classNow l }
    us := s.us + 1
    tickAt := s.clock
    health := { s.health with errors := s.health.errors.filter fun e => decide (s.us + 1 - e.2 < hourUs) } }

/-- The arithmetic clock's cycles in 1 µs (R5, Table 21-3). -/
def State.tickCycles (s : State) : Nat := 100 * s.health.clk.toNat

/-- Cycles since the last tick, and whether the next is due (R358). -/
def State.sinceTick (s : State) : Nat := (s.clock - s.tickAt).toNat
def State.tickDue (s : State) : Bool := decide (s.tickCycles ≤ s.sinceTick)

/-- Cycles pass: the groups of resident contexts hold their slots (R358). -/
def State.passCycles (s : State) (n : Nat) : State :=
  { s with
    clock := s.clock + BitVec.ofNat 64 n
    teams := s.teams.map fun t =>
      if t.resident then { t with slotTicks := t.slotTicks + n * (s.groups.filter fun g => g.ctx == t.ctx).length } else t }

/-- The tick comes once in each µs. -/
def execEnergyTick (s : State) : Out := .next (if s.tickDue then s.tick else s)

/-- Cycles pass, with the tick at the end of each µs among them (R358); `fuel` bounds the ticks. -/
def State.passTime : Nat → Nat → State → State
  | 0, n, s => s.passCycles n
  | fuel + 1, n, s =>
    let k := s.tickCycles - s.sinceTick
    if n < k then s.passCycles n else State.passTime fuel (n - k) (s.passCycles k).tick

/-! ## Health events (R394, R410) -/

/-- The event of a change of ID, CORES or SLICES: to TF0 and every tenant function whose channel is enabled. -/
def State.healthEvent (s : State) : State := (dedup (0 :: s.tfs.map (·.1))).foldl (fun s t => s.sendEvent t 0x80000000) s

/-- ID is set, with its event. -/
def State.setDanger (s : State) : State :=
  if s.health.danger then s else State.healthEvent { s with health := { s.health with danger := true } }

/-! ## Capping (R408) -/

/-- The cap in force (Table 21-3). -/
def Health.cap (h : Health) : Nat := min h.pcap.toNat 2400

/-- A sample above a cap, and one above the marks that the clock must stay below to rise. -/
def Health.exceeds (h : Health) (watts celsius : Nat) : Bool := decide (h.cap < watts) || decide (95 < celsius)
def Health.near (h : Health) (watts celsius : Nat) : Bool := decide (95 * h.cap < 100 * watts) || decide (90 < celsius)

/-- One sample of the power manager, at `us`. The counts are of samples, one each 10 µs. -/
def Health.sample (h : Health) (us watts celsius : Nat) : Health :=
  { h with
    sampleAt := us + 10
    clk := if h.exceeds watts celsius && decide (12 < h.clk.toNat) then h.clk - 1 else h.clk
    overCap := if h.exceeds watts celsius && decide (h.clk.toNat ≤ 12) then h.overCap + 1 else 0
    headroom := if h.near watts celsius then 0 else h.headroom + 1 }

def execPowerSample (watts celsius : Nat) (s : State) : Out :=
  .next (if s.health.ready && decide (s.health.sampleAt ≤ s.us) then { s with health := s.health.sample s.us watts celsius } else s)

/-- After 1 ms of headroom the clock rises by one step, to 2.7 GHz at most. -/
def execClockStepUp (s : State) : Out :=
  .next (if decide (100 ≤ s.health.headroom) && decide (s.health.clk.toNat < 27) then
      { s with health := { s.health with clk := s.health.clk + 1, headroom := 0 } }
    else s)

/-- A cap exceeded at 1.2 GHz for 10 ms sets ID. -/
def execCapIsolatedDanger (s : State) : Out := .next (if 1000 ≤ s.health.overCap then s.setDanger else s)

end Sys2Proof.Machine
end

