-- ==== Sys2Proof/Machine/Registers.lean ====
section
/-!
DEFINITION. Writes to service registers as steps of their own (R34, R37, R142 to R148, R344, R393, R395, R397, R400,
R411), writes to a RESUME word (R144), and the ends of what they start (R147, R397, R411).
-/

namespace Sys2Proof.Machine

/-! ## RESUME (R144) -/

/-- A write of 8 bytes performs at a tenant function's RESUME word in local HBM. -/
def State.writeResume (s : State) (t : Nat) (v : Word) : State :=
  let pa := 8 * (s.tf t).resAddr.toNat
  if s.health.ready && decide (pa < Config.hbmBytes) then s.homeWrite [] pa ((leBytes 8 v.toNat).map some) else s

def execResumeToken (tf : BitVec 8) (token : Word) (s : State) : Out :=
  .next (if token = 0xFFFFFFFF then s else s.writeResume tf.toNat token)

def execResumeAll (tf : BitVec 8) (s : State) : Out := .next (s.writeResume tf.toNat 0xFFFFFFFF)

/-! ## Translation blocks -/

def ttOff (tf : BitVec 8) (off : Nat) : Nat := 4096 * tf.toNat + off

def execInvcmdRange (tf : BitVec 8) (v : DWord) (s : State) : Out := .next (s.svcEvent (ttOff tf 0x40) v (invOp v == 0))

def execInvcmdAsid (tf : BitVec 8) (v : DWord) (s : State) : Out := .next (s.svcEvent (ttOff tf 0x40) v (invOp v == 1))

/-- OP 2 and 3 change nothing. -/
def execInvcmdIgnored (tf : BitVec 8) (v : DWord) (s : State) : Out :=
  .next (s.svcEvent (ttOff tf 0x40) v (decide (2 ≤ invOp v)))

def execInvalidationComplete (tf : BitVec 8) (s : State) : Out := .next (s.completeInv tf.toNat).svcRelease

def execFaultQueueEnable (tf : BitVec 8) (v : DWord) (s : State) : Out :=
  .next (s.svcEvent (ttOff tf 0x18) v (v.getLsbD 0 && !(s.tf tf.toNat).fqEn))

def execFaultQueueDisable (tf : BitVec 8) (v : DWord) (s : State) : Out :=
  .next (s.svcEvent (ttOff tf 0x18) v (!v.getLsbD 0 && (s.tf tf.toNat).fqEn))

def execFqconsWrite (tf : BitVec 8) (v : DWord) (s : State) : Out := .next (s.svcEvent (ttOff tf 0x28) v true)

def execTtctlWrite (tf : BitVec 8) (v : DWord) (s : State) : Out := .next (s.svcEvent (ttOff tf 0) v true)

def execTtrootWrite (tf : BitVec 8) (v : DWord) (s : State) : Out := .next (s.svcEvent (ttOff tf 8) v true)

/-! ## Tenant function blocks, queues, partitions, slots -/

def tfOff (tf : BitVec 8) (off : Nat) : Nat := 0x102_0000 + 64 * tf.toNat + off

def execTfPartWrite (tf : BitVec 8) (v : DWord) (s : State) : Out := .next (s.svcEvent (tfOff tf 0) v true)

def execDaymarkKeyWrite (tf : BitVec 8) (half : Bool) (v : DWord) (s : State) : Out :=
  .next (s.svcEvent (tfOff tf (if half then 0x18 else 0x10)) v true)

def queueOff (q : BitVec 12) : Nat := 0x100_0000 + 32 * q.toNat + 0x10

def execQueueEnable (q : BitVec 12) (v : DWord) (s : State) : Out :=
  .next (s.svcEvent (queueOff q) v (v.getLsbD 0 && !(s.queueAt q.toNat).en))

def execQueueDisable (q : BitVec 12) (v : DWord) (s : State) : Out :=
  .next (s.svcEvent (queueOff q) v (!v.getLsbD 0 && (s.queueAt q.toNat).en))

/-- A write to PARTCTL: accepted, or refused with ERR. -/
def execPartitionChange (v : DWord) (s : State) : Out := .next (s.svcEvent 0x103_0000 v true)

/-- The change ends: the new P applies and BUSY clears. -/
def execPartitionChangeComplete (s : State) : Out :=
  .next (match s.ctl.pNext with
    | some p => { s with ctl := { s.ctl with p := p, pNext := none } }
    | none => s)

def execCollectiveSlotRelease (slot : BitVec 12) (v : DWord) (s : State) : Out :=
  .next (s.svcEvent (0x104_0000 + 8 * slot.toNat) v (!v.getLsbD 0 && (look s.slotTab slot.toNat SlotEntry.reset).en))

/-- A write to any service register, by its own rules. -/
def execServiceRegisterWrite (offset : Nat) (v : DWord) (s : State) : Out := .next (s.svcEvent offset v (offset % 8 == 0))

/-! ## Attestation (R411) -/

def execAttestationRequest (v : DWord) (s : State) : Out := .next (s.svcEvent 0x300_0008 v (v.getLsbD 0))

/-- The firmware image that flash holds. -/
def Health.firmware (h : Health) : List Byte := h.flash.getD Config.factoryImage

/-- The report of Table 21-5: the signature covers its first 128 bytes. -/
def State.report (s : State) (nonce : List Byte) : List Byte :=
  let body := nonce ++ (upTo 32).map Config.bootRomHash ++ sha256 s.health.firmware ++
    leBytes 8 s.hstat ++ leBytes 8 s.partctl ++ leBytes 8 s.fabctl ++ leBytes 8 0
  body ++ rsaSign (beBytes 384 identityModulus) identityExponent (sha256 body)

/-- The report is written at ADDR, in local HBM, and ABUSY clears. -/
def execAttestationComplete (s : State) : Out :=
  .next (if s.health.abusy then
      let pa := 512 * s.health.attAddr.toNat
      let (nonce, _, s) := s.homeRead pa 32
      let s : State := if pa < Config.hbmBytes then s.homeWrite [] pa ((s.report nonce).map some) else s
      { s with health := { s.health with abusy := false } }
    else s)

end Sys2Proof.Machine
end

