-- ==== Sys2Proof/Machine/Health.lean ====
section
/-!
DEFINITION. Errors and retirement (R65, R85, R315, R409, R410), power-up and reset (R403 to R405), and the management
responder of the fog-signal state (R406).
-/

namespace Sys2Proof.Machine

/-! ## Retirement (R409, R410) -/

/-- Clusters of a die that need a spare at the next reset: those with a retired core, and pairs of partner slices that
are both retired (R404). -/
def lostClusters (die : Nat) (clusters slices : List Nat) : Nat :=
  (dedup (clusters.filter fun c => c / 64 == die)).length +
    (dedup ((slices.filter fun k => k / 384 == die && slices.contains (k ^^^ 1)).map fun k => k / 2)).length

/-- Clusters of a die that spares serve already. -/
def Health.sparesOn (h : Health) (die : Nat) : Nat := (h.spares.filter fun c => c / 64 == die).length

/-- A die has no spare cluster left for the next reset. -/
def Health.spent (h : Health) (die : Nat) : Bool :=
  decide (4 ≤ h.sparesOn die + lostClusters die (h.retiredCores.map Config.clusterOf) h.retiredSlices)

/-- What a retirement does to ID, and the event for it. -/
def State.afterRetirement (s : State) (die : Nat) : State :=
  State.healthEvent { s with health := { s.health with danger := s.health.danger || s.health.spent die } }

/-- A core retires: its array's tile is gone, teams that cannot migrate end with DATA_POISON, the others are asked to
stop, to resume elsewhere. -/
def State.retireCore (s : State) (core : Nat) : State :=
  if s.health.retiredCores.contains core ∨ Config.cores ≤ core then s
  else
    let s : State := { s with health := { s.health with retiredCores := s.health.retiredCores ++ [core] } }
    let s := s.dropTiles [core]
    let s := (s.teams.filter fun t => t.core == core).foldl (fun s t =>
      if t.shared.isEmpty then s.requestStop t.ctx else s.faultCtx t.ctx 0xFF (plainFault cDataPoison 0)) s
    s.afterRetirement (Config.dieOf core)

/-- A slice retires: Daymark sets and watch records are lost, and its partner hosts its lines in ways 0 to 13, so that
both give up what is too much (R88). -/
def State.retireSlice (s : State) (slice : Nat) : State :=
  if s.health.retiredSlices.contains slice ∨ 768 ≤ slice then s
  else
    let s : State := { s with health := { s.health with retiredSlices := s.health.retiredSlices ++ [slice] } }
    ((s.retireWatches slice).l2Shrink (s.hostSlice slice)).afterRetirement (slice / 384)

def PoolEntry.retiredEntry : PoolEntry :=
  { ctx := 0, wg := 0, region := .frame, shared := false, retired := true, dirty := false, parked := none }

/-- At the L1's floor, the retained granule that R51 takes first passes to the L1, where there is one. -/
def State.liftFloor (s : State) (core : Nat) : State :=
  if 0 < s.l1Spare core then s
  else
    let (gs, s) := s.gather core 1 (s.teams.length + 1)
    (s.takeAll core gs).2

/-- Whether a granule's retirement waits for the L1. -/
def State.setDue (s : State) (u : HwUnit) (waits : Bool) : State :=
  let d := s.health.due
  { s with health := { s.health with due := if waits then (if d.contains u then d else d ++ [u]) else d.filter (· != u) } }

/-- A granule retires (R47, Table 02-13) once the L1 holds it and keeps 16 without it (R49); the L1 is written back and
invalidated before it gives the granule up. One that a team holds keeps its place until it returns to the L1. -/
def State.retireGranule (s : State) (core granule : Nat) : State :=
  if !(decide (granule < 256) && decide (core < Config.cores)) then s
  else
    match s.poolEntry core granule with
    | some e => if e.retired then s else s.setDue (.granule core granule) true
    | none =>
      let s := s.liftFloor core
      if 0 < s.l1Spare core then
        ((s.l1Flush core).setEntry core granule PoolEntry.retiredEntry).setDue (.granule core granule) false
      else s.setDue (.granule core granule) true

/-- A matrix array's retirement takes its core (R409). -/
def State.retire (s : State) (u : HwUnit) : State :=
  match u with
  | .core c => s.retireCore c
  | .mxa c => s.retireCore c
  | .slice k => s.retireSlice k
  | .granule c g => s.retireGranule c g

/-- Corrected errors of a unit within the hour. -/
def State.errorCount (s : State) (u : HwUnit) : Nat := (s.health.errors.filter fun e => e.1 == u).length

def State.retireDue (s : State) (u : HwUnit) : Bool :=
  s.health.ready &&
    (s.health.due.contains u || decide (0 < s.errorCount u) && decide (s.health.cethr.toNat ≤ s.errorCount u))

def execUnitRetirement (unit : HwUnit) (s : State) : Out := .next (if s.retireDue unit then s.retire unit else s)

def execCorrectedError (unit : HwUnit) (s : State) : Out :=
  .next (if s.health.ready then { s with health := { s.health with errors := s.health.errors ++ [(unit, s.us)] } } else s)

/-! ## Uncorrectable errors -/

def addMark (l : List Nat) (n : Nat) : List Nat := if l.contains n then l else l ++ [n]

/-- An uncorrectable error in an L1 sector: a clean one is dropped and refetched, a dirty one poisoned (R85). -/
def State.errorL1 (s : State) (core sector : Nat) : State :=
  match s.l1Find core sector with
  | some x =>
    if x.dirty = 0 then s.mapSide fun m => { m with l1 := m.l1.filter fun y => !(y.core == core && y.sector == sector) }
    else s.l1Map core sector fun y => { y with poison := true }
  | none => s

/-- A vector register whose data a frame region or operand cache holds (R65); one in format 4 has none. -/
def Group.errorV (g : Group) (reg : Nat) : Group :=
  match g.v.getD reg .zero with
  | .raw _ => { g with vPoison := addMark g.vPoison reg }
  | _ => g

/-- An uncorrectable error in a granule of a team's window, by region: the register whose bytes lie there is poisoned (R65,
R315), or the byte itself: for accumulators, staging and shared granules the spec gives no unit of poison (DESIGN CHOICE,
log 153). -/
def State.errorPool (s : State) (ctx off : Nat) : State :=
  let t := s.teamAt ctx
  let wg := off / 4096
  match t.granules.getD wg .inBacking with
  | .inBacking => s
  | .inPool _ =>
    match s.regionOf t wg with
    | .frame =>
      match s.frameGroup ctx wg with
      | some (g, lo) => s.mapGroup ctx g.idx fun g =>
          ((g.slotsIn lo).filter fun n =>
            decide (g.slotOff n ≤ lo + off % 4096) && decide (lo + off % 4096 < g.slotOff n + 4 * g.width)).foldl Group.errorV g
      | none => s
    | .hypervector =>
      match s.hvGroup ctx wg with
      | some g => match g.hvRegAt (off - 4096 * g.hvAt) with
        | some m => s.mapGroup ctx g.idx fun g => g.hvMark m true
        | none => s
      | none => s
    | _ => s.mapTeam ctx fun t => { t with poison := addMark t.poison off }

def State.uncorrectable (s : State) (site : ErrorSite) : State :=
  match site with
  | .home k => if 32 * k < Config.hbmBytes then s.poisonHome k else s
  | .l1 core k => s.errorL1 core k
  | .replica area k => s.mapSide fun m => { m with replicas := m.replicas.filter fun r => !(r.area == area && r.line == k / 8) }
  | .vreg ctx grp reg => s.mapGroup ctx grp fun g => g.errorV reg
  | .hreg ctx grp reg => s.mapGroup ctx grp fun g => if reg < g.h.length then g.hvMark (hMark reg) true else g
  | .breg ctx grp reg => s.mapGroup ctx grp fun g => if reg < g.b.length then g.hvMark (bMark reg) true else g
  | .pool ctx off => s.errorPool ctx off
  | .unit u => s.retire u

def execUncorrectableError (site : ErrorSite) (s : State) : Out := .next (if s.health.ready then s.uncorrectable site else s)

/-! ## Power-up (R403, R404) -/

/-- The signature that an image comes with verifies over the whole of it, under the key that is fused (R405). -/
def imageVerifies (image : List Byte) : Bool :=
  let key := Config.imageModulus image
  sha256 key == Config.fusedHash && rsaVerify key (Config.imageSignature image) (sha256 image)

/-- What flash holds passes step 1: an image whose write was interrupted does not (R406). -/
def Health.imageOk (h : Health) : Bool := !h.torn && imageVerifies h.firmware

/-- The failing step of Table 21-1, or none. -/
def bootFails (imageOk : Bool) (r : PowerUpReport) : Option Nat :=
  let lost (die : Nat) (slices : List Nat) : Bool := decide (4 < lostClusters die r.failedClusters slices)
  if !imageOk then some 1
  else if lost 0 [] || lost 1 [] then some 2
  else if !r.stacksTrained then some 3
  else if lost 0 r.failedSlices || lost 1 r.failedSlices then some 4
  else none

/-- The reset state with what lies outside the reset: flash, what has left the package, and the model's own fields. -/
def State.afterReset (s : State) : State :=
  { State.reset with
    health := { Health.reset with flash := s.health.flash, torn := s.health.torn, respAddr := s.health.respAddr }
    out := s.out, agenda := s.agenda, paces := s.paces, stamp := s.stamp, free := s.free }

/-- Power-up after a reset: the fog-signal state at the first step that fails, else READY. A slice whose partner failed
too counts as a failed cluster (R404): a spare serves both, and neither is retired (DEDUCED, log 138). -/
def State.powerUp (s : State) (r : PowerUpReport) : State :=
  let s := s.afterReset
  match bootFails s.health.imageOk r with
  | some k => { s with health := { s.health with fog := some k } }
  | none =>
    let s : State :=
      { s with
        health := { s.health with
          ready := true
          spares := dedup r.failedClusters ++
            (dedup ((r.failedSlices.filter fun k => r.failedSlices.contains (k ^^^ 1)).map fun k => k / 2)).map fun p =>
              p / 192 * 64 + p % 192 / 24 * 8
          retiredSlices := dedup (r.failedSlices.filter fun k => decide (k < 768) && !r.failedSlices.contains (k ^^^ 1)) } }
    r.failedGranules.foldl (fun s g => s.retireGranule g.1 g.2) s

def execPowerUpReset (report : PowerUpReport) (s : State) : Out := .next (s.powerUp report)

/-! ## The management responder (R406) -/

/-- The bytes of the buffered blocks: an offset that no block covers reads zero. -/
def Health.buffered (h : Health) : List Byte :=
  match h.image.getLast? with
  | some c => (upTo (c.1 + 1)).map fun i => look h.image i 0
  | none => []

/-- 64 MiB (Table 21-4). -/
def imageLimit : Nat := 64 * 2 ^ 20

/-- An answer of the responder, from its address in flash and its UDP port. -/
def State.respond (s : State) (code : Byte) (bytes : List Byte) : State :=
  s.emit (.responder s.health.respAddr Config.mgmtPort code bytes)

def execMgmtStatus (s : State) : Out :=
  .next (match s.health.fog with
    | some k => s.respond 1 (BitVec.ofNat 8 k :: leBytes 8 s.hstat)
    | none => s)

def execMgmtLog (offset : Nat) (s : State) : Out :=
  .next (match s.health.fog with
    | some _ => s.respond 2 ((upTo 1024).map fun i => Config.selfTestLog (offset + i))
    | none => s)

/-- A block is buffered and acknowledged (0), or refused (1). -/
def execMgmtImageBlock (offset : Nat) (bytes : List Byte) (s : State) : Out :=
  .next (match s.health.fog with
    | some _ =>
      if offset + bytes.length ≤ imageLimit then
        State.respond
          { s with
            health := { s.health with
              image := (bytes.zip (rangeFrom offset bytes.length)).foldl (fun m (b, a) => put m a b) s.health.image } }
          3 [0]
      else s.respond 3 [1]
    | none => s)

/-- An image is written to flash and Kutil resets. Whether the write is interrupted comes from outside: then flash holds
an image that fails step 1. -/
def State.writeImage (s : State) (img : List Byte) : State :=
  let (n, s) := s.draw
  if Config.writeInterrupted n then
    State.powerUp { s with health := { s.health with flash := some img, torn := true } } Config.powerUpReport
  else
    (State.respond { s with health := { s.health with flash := some img, torn := false } } 4 [0]).powerUp Config.powerUpReport

/-- The buffered image is verified and written; or it is refused and flash stays. -/
def execMgmtImageCommit (s : State) : Out :=
  .next (match s.health.fog with
    | some _ =>
      let img := s.health.buffered
      if imageVerifies img then s.writeImage img else s.respond 4 [1]
    | none => s)

/-- Any other datagram is ignored. -/
def execMgmtOtherDatagram (_bytes : List Byte) (s : State) : Out := .next s

end Sys2Proof.Machine
end

