-- ==== Sys2Proof/Machine/Rdma.lean ====
section
/-!
DEFINITION. RoCEv2 (R390 to R392): incoming WRITE, READ and SEND, invalid requests, and the rules of acknowledgement and
retransmission.
-/

namespace Sys2Proof.Machine

/-- A queue pair that answers: its entry in use and ready (R390). -/
def State.qpLive (s : State) (qp : Nat) : Bool := s.health.ready && (s.qpAt qp).en && (s.qpAt qp).state == 1

/-- Bytes of the path MTU: codes 1 to 5, others as 1. -/
def QueuePair.mtu (q : QueuePair) : Nat :=
  let k := q.pmtu.toNat
  128 * 2 ^ (if 1 ≤ k ∧ k ≤ 5 then k else 1)

/-- Packets of a message. -/
def QueuePair.packets (q : QueuePair) (n : Nat) : Nat := max 1 ((n + q.mtu - 1) / q.mtu)

/-- `a` stands before `b` in the order of PSNs. -/
def psnBefore (a b : BitVec 24) : Bool := a != b && decide ((b - a).toNat < 2 ^ 23)

/-- A message of `n` bytes has been taken: the next PSN expected, and the answer. -/
def State.accepted (s : State) (qp n : Nat) (m : OutMsg) : State :=
  (s.mapQp qp fun q => { q with rpsn := q.rpsn + BitVec.ofNat 24 (q.packets n) }).emit m

/-- What a request on a queue pair does by its PSN (R390): the one expected runs; one ahead of it is a gap, answered
with a sequence NAK; one before it is a duplicate, acknowledged or, where `again` tells how, answered once more. -/
def State.inSequence (s : State) (qp : Nat) (psn : BitVec 24) (run : State) (again : State) : State :=
  if !s.qpLive qp then s
  else if psn = (s.qpAt qp).rpsn then run
  else if psnBefore psn (s.qpAt qp).rpsn then again
  else s.emit (.nakSequence qp)

/-- NAK Invalid Request: the queue pair enters STATE 2. -/
def State.refuseQp (s : State) (qp : Nat) : State := (s.mapQp qp fun q => { q with state := 2 }).emit (.nakInvalid qp)

def execInvalidRequest (qp : Nat) (s : State) : Out := .next (if s.qpLive qp then s.refuseQp qp else s)

/-! ## WRITE and READ (R391) -/

/-- Every page of a message translated, before any byte performs. A page that a peer refuses fails its check with FABRIC
(R33, R391). -/
def rdmaPlan (t : Nat) (va : DWord) (n : Nat) (a : Access) : M (List (Nat × Nat × Nat)) :=
  (cutAt 4096 (n / 4096 + 2) va.toNat (List.replicate n 0)).mapM fun (v, bs) => do
    let x ← translate t keeperCore none (BitVec.ofNat 64 v) a
    fabricAsk x (BitVec.ofNat 64 v) a.bits
    pure (x.pa, v - va.toNat, bs.length)

/-- The strong accesses of a message, a release at .SYS (R123), as home slices record them (R111): one for each aligned
8-byte word that it writes, as a tail word is (DESIGN CHOICE, log 142). -/
def hostUnits (pa n : Nat) : List (Nat × Nat × Nat) :=
  (cutAt 8 (n / 8 + 2) pa (List.replicate n 0)).map fun (a, bs) => (a / 16, a % 16, bs.length)

/-- The bytes of a message at their homes, page by page as translated. -/
def hostPut (t : Nat) (ps : List (Nat × Nat × Nat)) (data : List Byte) : M Unit :=
  ps.forM fun (pa, o, k) => modify fun s =>
    let s := s.homeWrite [tfWriter t] pa (((data.drop o).take k).map some)
    if pa < Config.hbmBytes then s.recordStrong (hostUnits pa k) else s

def rdmaPut (t : Nat) (va : DWord) (data : List Byte) : M Unit := do
  hostPut t (← rdmaPlan t va data.length (Access.store false)) data

/-- The bytes that a message asks for, and whether a sector of them is poisoned (R85). -/
def rdmaGet (t : Nat) (va : DWord) (n : Nat) : M (List Byte × Bool) := do
  let ps ← rdmaPlan t va n (Access.load false)
  let parts ← ps.mapM fun (pa, _, k) => do
    let (bs, p, s) := (← get).homeRead pa k
    set s
    pure (bs, p)
  pure ((parts.map (·.1)).flatten, parts.any (·.2))

/-- A request in sequence with the queue pair's key: performed whole, or refused with nothing changed. -/
def State.rdma (s : State) (qp : Nat) (rkey : Word) (n : Nat) (m : M OutMsg) : State :=
  if (s.qpAt qp).rkey = rkey then
    match m s with
    | .ok x t => t.accepted qp n x
    | .error _ _ => s.emit (.nakAccess qp)
  else s.emit (.nakAccess qp)

def State.rdmaWrite (s : State) (qp : Nat) (psn : BitVec 24) (rkey : Word) (va : DWord) (data : List Byte) : State :=
  s.inSequence qp psn
    (s.rdma qp rkey data.length (do
      rdmaPut (s.qpAt qp).tf.toNat va data
      pure (.ack qp)))
    (s.emit (.ack qp))

def execRdmaWrite (req : RdmaRequest) (rkey : Word) (va : DWord) (data : List Byte) (s : State) : Out :=
  .next (s.rdmaWrite req.qp req.psn rkey va data)

/-- The immediate is discarded. -/
def execRdmaWriteWithImmediate (req : RdmaRequest) (rkey : Word) (va : DWord) (data : List Byte) (_imm : Word)
    (s : State) : Out :=
  .next (s.rdmaWrite req.qp req.psn rkey va data)

/-- The answer of a READ. -/
def readAnswer (qp t : Nat) (va : DWord) (len : Nat) : M OutMsg := do
  let (bs, poison) ← rdmaGet t va len
  return .readData qp bs poison

/-- A duplicate READ is performed again, and moves no PSN. -/
def execRdmaRead (req : RdmaRequest) (rkey : Word) (va : DWord) (len : Nat) (s : State) : Out :=
  let qp := req.qp
  let m := readAnswer qp (s.qpAt qp).tf.toNat va len
  .next (s.inSequence qp req.psn (s.rdma qp rkey len m)
    ((s.rdma qp rkey len m).mapQp qp fun q => { q with rpsn := (s.qpAt qp).rpsn }))

/-! ## SEND (R392) -/

/-- Whether a ring is full for a tail: its slots hold records not taken, or the slot's launch is not complete. -/
def State.ringFull (s : State) (q tail : Nat) : Bool :=
  let x := s.queueAt q
  let n := 2 ^ x.log2n.toNat
  decide (n ≤ (BitVec.ofNat 64 tail - x.qhead).toNat) ||
    s.launches.any fun l => l.taken && l.queue.toNat == q && l.done.isNone && l.qhead.toNat % n == tail % n

/-- The record is written to its slot and the tail advances: false, with nothing performed, when the ring is full. -/
def sendRecord (q : Nat) (payload : List Byte) : M Bool := do
  let x := (← get).queueAt q
  let t := x.tf.toNat
  let w ← translate t keeperCore none x.qtail Access.keeperAtomic
  fabricAsk w x.qtail Access.keeperAtomic.bits
  let (bs, _, s) := (← get).homeRead w.pa 8
  set s
  let tail := ofLe bs
  let at' := x.qbase + BitVec.ofNat 64 (512 * (tail % 2 ^ x.log2n.toNat))
  let ps ← rdmaPlan t at' payload.length (Access.store false)
  if (← get).ringFull q tail then pure false
  else
    hostPut t ps payload
    modify fun s => (s.strongUse w.pa 8 true true (allocOf w.cl w.ev.toNat)).homeWrite [tfWriter t] w.pa ((leBytes 8 (tail + 1)).map some)
    pure true

/-- A SEND in sequence. -/
def State.sendNext (s : State) (qp : Nat) (payload : List Byte) : State :=
  let p := s.qpAt qp
  let q := p.lq.toNat
  if payload.length != 512 || (s.queueAt q).tf != p.tf then s.refuseQp qp
  else
    match sendRecord q payload s with
    | .ok true t => t.accepted qp 512 (.ack qp)
    | .ok false _ => s.emit (.rnrNak qp)
    | .error _ _ => s.emit (.nakAccess qp)

def State.send (s : State) (qp : Nat) (psn : BitVec 24) (payload : List Byte) : State :=
  s.inSequence qp psn (s.sendNext qp payload) (s.emit (.ack qp))

def execSend (req : RdmaRequest) (payload : List Byte) (s : State) : Out := .next (s.send req.qp req.psn payload)

/-! ## Acknowledgement and retransmission (R390) -/

/-- The events that are not acknowledged leave again. -/
def State.resendEvents (s : State) (qp : Nat) : State :=
  (s.qpAt qp).sent.foldl (fun s x => s.emit (.event qp x.1 x.2)) s

/-- A NAK acknowledges the events before the one that it names; the others leave again. -/
def State.resendFrom (s : State) (qp : Nat) (psn : BitVec 24) : State :=
  (s.mapQp qp fun q => { q with sent := q.sent.filter fun x => !psnBefore x.1 psn }).resendEvents qp

/-- What happens beside the requests: an acknowledgement, a NAK or a timeout as requester; a duplicate WRITE or SEND, or
a packet out of order, as responder. A fatal NAK puts the queue pair into error. -/
def execRoceRetransmission (qp : Nat) (what : RoceSignal) (s : State) : Out :=
  .next (if s.qpLive qp then
      match what with
      | .ack psn => s.mapQp qp fun q => { q with sent := q.sent.filter fun x => psnBefore psn x.1 }
      | .nakSequence psn | .rnrNak psn => s.resendFrom qp psn
      | .nakFatal psn => s.mapQp qp fun q => { q with state := 2, sent := q.sent.filter fun x => !psnBefore x.1 psn }
      | .timeout => s.resendEvents qp
      | .duplicate psn => if psnBefore psn (s.qpAt qp).rpsn then s.emit (.ack qp) else s
      | .outOfOrder psn => if psnBefore (s.qpAt qp).rpsn psn then s.emit (.nakSequence qp) else s
    else s)

end Sys2Proof.Machine
end

