-- ==== Sys2Proof/Machine/Fabric.lean ====
section
/-!
DEFINITION. The Varla fabric: accesses from peers (R399), and the receiving side of a link (R401, R402).
-/

namespace Sys2Proof.Machine

/-! ## Accesses from peers (R399) -/

/-- Whether an import entry grants a byte to a device. -/
def State.imported (s : State) (dev : BitVec 20) (offset : Nat) (write : Bool) : Bool :=
  s.imports.any fun (_, e) =>
    e.en && e.src == dev && decide (e.base.toNat ≤ offset / 2 ^ 21) && decide (offset / 2 ^ 21 ≤ e.limit.toNat) && !(write && e.ro)

/-- Every byte of an access is granted, in local HBM. -/
def State.granted (s : State) (dev : BitVec 20) (offset n : Nat) (write : Bool) : Bool :=
  decide (offset + n ≤ Config.hbmBytes) && (rangeFrom offset n).all fun a => s.imported dev a write

/-- A peer's atomic at the home slice, a strong access (R93, R111): the new value, or none for no write. Its answer
tells the peer that the old value is poisoned (R85), and then nothing is written. -/
def State.peerRmw (s : State) (dev : BitVec 20) (offset n : Nat) (f : Nat → Option Nat) : State :=
  if s.granted dev offset n true then
    let (bs, p, s) := (s.strongUse offset n true true (some 0)).homeRead offset n
    let s := match (if p then none else f (ofLe bs)) with
      | some v => s.homeWrite [] offset ((leBytes n v).map some)
      | none => s
    s.emit (.peerData dev bs p)
  else s.emit (.peerReject dev)

def State.peerAccess (s : State) (dev : BitVec 20) (acc : PeerOp) : State :=
  match acc with
  | .read offset len =>
    if s.granted dev offset len false then
      let (bs, p, s) := s.homeRead offset len
      s.emit (.peerData dev bs p)
    else s.emit (.peerReject dev)
  | .write offset data =>
    if s.granted dev offset data.length true then
      (s.homeWrite [] offset (data.map some)).emit (.peerDone dev)
    else s.emit (.peerReject dev)
  | .atomic offset code size operand => s.peerRmw dev offset size fun old => some (atomOp code size old operand)
  | .cas offset size expected new => s.peerRmw dev offset size fun old => if old = expected then some new else none
  | .arrive offset => s.peerRmw dev offset 8 fun old => some (Sys2Proof.Machine.arrive old)

/-- While VEN = 0 no fabric access is accepted (R398). -/
def execPeerAccess (dev : BitVec 20) (acc : PeerOp) (s : State) : Out :=
  .next (if s.health.ready && s.ctl.ven then s.peerAccess dev acc else s)

/-! ## Flits (R401, R402) -/

/-- SEQ, KIND and the number in bytes 2 and 3 of a flit. -/
def flitSeq (f : List Byte) : BitVec 12 := BitVec.ofNat 12 (ofLe (f.take 2))
def flitKind (f : List Byte) : Nat := field (ofLe (f.take 2)) 12 4
def flitNum (f : List Byte) : BitVec 12 := BitVec.ofNat 12 (ofLe ((f.drop 2).take 2))
def flitPayload (f : List Byte) : List Byte := (f.drop 2).take 58

/-- A flit whose CRC holds. -/
def flitOk (f : List Byte) : Bool := f.length == 64 && ofLe (f.drop 60) == (crc32c (f.take 60)).toNat

/-- A link that takes a flit of a kind. -/
def State.takesFlit (s : State) (port : Nat) (f : List Byte) (kind : Nat) : Bool :=
  s.health.ready && s.ctl.ven && decide (port < 24) && (s.linkAt port).up && flitOk f && flitKind f == kind

/-- Held flits that follow in sequence are delivered; `n` bounds them. -/
def State.deliverHeld (s : State) (port : Nat) : Nat → State
  | 0 => s
  | n + 1 =>
    let l := s.linkAt port
    match l.held.find? fun x => x.1 == l.rxSeq with
    | some x =>
      let s := (s.mapLink port fun l =>
        { l with rxSeq := l.rxSeq + 1, held := l.held.filter fun y => y.1 != x.1, missing := l.missing.filter (·.1 != x.1) }).emit
          (.deliver port (flitPayload x.2))
      State.deliverHeld s port n
    | none => s

/-- The sequence numbers from the next expected one up to `q`. -/
def Link.gap (l : Link) (q : BitVec 12) : List (BitVec 12) :=
  (upTo (q - l.rxSeq).toNat).map fun i => l.rxSeq + BitVec.ofNat 12 i

def State.askReplay (s : State) (port : Nat) (qs : List (BitVec 12)) : State :=
  qs.foldl (fun s q => s.emit (.flit port (controlFlit flitReplay q))) s

/-- The newest number received in order is acknowledged. -/
def State.ackFlits (s : State) (port : Nat) : State := s.emit (.flit port (controlFlit flitAck ((s.linkAt port).rxSeq - 1)))

/-- A data flit: in sequence it is delivered with those held behind it; ahead of a gap it is held and the missing
numbers are requested; one received before is acknowledged again. -/
def State.dataFlit (s : State) (port : Nat) (f : List Byte) : State :=
  let l := s.linkAt port
  let q := flitSeq f
  let d := (q - l.rxSeq).toNat
  if d = 0 then
    let s := s.mapLink port fun l => { l with held := l.held ++ [(q, f)] }
    (s.deliverHeld port (s.linkAt port).held.length).ackFlits port
  else if d ≤ 512 then
    if (l.held.any fun x => x.1 == q) || decide (512 ≤ l.held.length) then s
    else
      let new := (l.gap q).filter fun m => !(l.held.any fun x => x.1 == m) && !(l.missing.any fun x => x.1 == m)
      (s.mapLink port fun l =>
        { l with
          held := l.held ++ [(q, f)]
          missing := (l.missing.filter (·.1 != q)) ++ new.map fun m => (m, s.us) }).askReplay port new
  else s.ackFlits port

def execFlitData (port : Nat) (flit : List Byte) (s : State) : Out :=
  .next (if s.takesFlit port flit flitData then s.dataFlit port flit else s)

/-- Flits up to the number named leave the replay buffer, and what waited for room is sent. -/
def execFlitAcknowledgement (port : Nat) (flit : List Byte) (s : State) : Out :=
  .next (if s.takesFlit port flit flitAck then
      let s := s.mapLink port fun l =>
        { l with replay := l.replay.filter fun x => !decide ((flitNum flit - x.seq).toNat < 2048) }
      s.pumpLink port (s.linkAt port).waiting.length
    else s)

/-- An access of a writer cannot be sent: FABRIC at the requester (R29). A store or an atomic that is still outstanding
names its address; of an engine's write, a copy node's or the Keeper's, the record gives none
(DESIGN CHOICE, log 122). -/
def State.failWriter (s : State) (w : Writer) : State :=
  match w.ctx, w.launch with
  | some ctx, _ =>
    if s.ops.any fun o => o.ctx == ctx && o.peer.isSome then s.refusePeers [w]
    else s.faultCtx ctx 0xFF (addrFault cFabric 0 0x22)
  | none, some id =>
    let l := s.launchAt id
    (s.addRecord l.tf.toNat (keeperRecord l.num (addrFault cFabric 0 0x22) 0 false) (some l.id) true).killLaunch l.id none cFabric
  | none, none => s.addRecord w.tf (keeperRecord 0 (addrFault cFabric 0 0x42) 0 false) none false

/-- A writer that still runs: its launch is not complete. The Keeper always does. -/
def State.writes (s : State) (w : Writer) : Bool :=
  w.launch.elim true fun id => s.launches.any fun l => l.id == id && l.done.isNone

/-- The accesses that flits carry fault at those of their requesters that still run. -/
def State.failFlit (s : State) (own : List Writer) : State :=
  (own.filter s.writes).foldl (fun s w => s.failWriter w) s

/-- A kept flit is sent again. One that fails ECC in the replay buffer cannot be, and the link retrains. -/
def State.replayFlit (s : State) (port : Nat) (q : BitVec 12) (eccOk : Bool) : State :=
  match (s.linkAt port).replay.find? fun x => x.seq == q with
  | some x =>
    if eccOk then s.emit (.flit port x.bytes)
    else (s.mapLink port fun l => { l with up := false, replay := l.replay.filter fun y => y.seq != q }).failFlit x.own
  | none => s

def execFlitReplayRequest (port : Nat) (flit : List Byte) (eccOk : Bool) (s : State) : Out :=
  .next (if s.takesFlit port flit flitReplay then s.replayFlit port (flitNum flit) eccOk else s)

/-- An idle flit consumes no sequence number and changes nothing. -/
def execFlitIdle (_port : Nat) (_flit : List Byte) (s : State) : Out := .next s

/-- A missing number whose last request is 2 µs old is requested again. -/
def State.repeatDue (s : State) (port : Nat) : List (BitVec 12) :=
  ((s.linkAt port).missing.filter fun x => decide (x.2 + 2 ≤ s.us)).map (·.1)

def execReplayRequestRepeat (port : Nat) (s : State) : Out :=
  .next (if s.ctl.ven && (s.linkAt port).up then
      let due := s.repeatDue port
      (s.mapLink port fun l =>
        { l with missing := l.missing.map fun x => if due.contains x.1 then (x.1, s.us) else x }).askReplay port due
    else s)

/-- A link is trained: sequence numbers start again, and the flits that it kept leave as new ones. -/
def State.trainLink (s : State) (port : Nat) : State :=
  let s := s.mapLink port fun l =>
    { up := true, txSeq := 0, rxSeq := 0, replay := []
      waiting := (l.replay.map fun x => (flitPayload x.bytes, x.own)) ++ l.waiting, held := [], missing := [] }
  s.pumpLink port (s.linkAt port).waiting.length

/-- A link loses its training: what it held cannot be sent. -/
def State.loseLink (s : State) (port : Nat) : State :=
  let l := s.linkAt port
  (s.mapLink port fun _ => Link.reset).failFlit ((l.replay.flatMap (·.own)) ++ l.waiting.flatMap (·.2)).eraseDups

def execLinkTraining (port : Nat) (up : Bool) (s : State) : Out :=
  .next (if s.health.ready && decide (port < 24) then
      if up then (if (s.linkAt port).up then s else s.trainLink port) else s.loseLink port
    else s)

end Sys2Proof.Machine
end

