-- ==== Sys2Proof/Machine/Mask.lean ====
section
/-!
DEFINITION. The mask words (R245, R246).
-/

namespace Sys2Proof.Machine

/-- A mask word into m(d): `f` of the state. -/
def mop (s : State) (d : BitVec 4) (f : State → DWord) : Out :=
  .next (runWord ⟨0, false⟩ (do writeMask d.toNat (f (← get))) s)

/-- A mask word into s(d). -/
def mtoScalar (s : State) (d : BitVec 5) (f : State → DWord) : Out :=
  .next (runWord ⟨0, false⟩ (modify fun s => s.writeS d.toNat (f s)) s)

/-- m(n) as the issuing party reads it. -/
def State.mreg (s : State) (n : BitVec 4) : DWord := s.curGroup.readM s.cur.frag n.toNat

def execMand (d : BitVec 4) (a b : BitVec 8) (s : State) : Out := mop s d fun s => s.selS a &&& s.selS b

def execMor (d : BitVec 4) (a b : BitVec 8) (s : State) : Out := mop s d fun s => s.selS a ||| s.selS b

def execMxor (d : BitVec 4) (a b : BitVec 8) (s : State) : Out := mop s d fun s => s.selS a ^^^ s.selS b

def execMandn (d : BitVec 4) (a b : BitVec 8) (s : State) : Out := mop s d fun s => s.selS a &&& ~~~ s.selS b

def execMnot (d a : BitVec 4) (s : State) : Out := mop s d fun s => ~~~ s.mreg a

def execMmov (d a : BitVec 4) (s : State) : Out := mop s d fun s => s.mreg a

def execMfroms (d : BitVec 4) (a : BitVec 8) (s : State) : Out := mop s d fun s => s.selS a

def execMtos (d : BitVec 5) (a : BitVec 4) (s : State) : Out := mtoScalar s d fun s => s.mreg a

def execMpopc (d : BitVec 5) (a : BitVec 4) (s : State) : Out :=
  mtoScalar s d fun s => BitVec.ofNat 64 (popcount 64 (s.mreg a).toNat)

/-- The index of the lowest set bit, all ones for none. -/
def lowestBit (m : DWord) : DWord :=
  match firstBelow 64 fun i => m.getLsbD i with
  | some i => BitVec.ofNat 64 i
  | none => BitVec.allOnes 64

def execMffs (d : BitVec 5) (a : BitVec 4) (s : State) : Out := mtoScalar s d fun s => lowestBit (s.mreg a)

/-- One bit, or zero when b is not below W. -/
def laneMask (w : Nat) (b : DWord) : DWord := if b.toNat < w then BitVec.ofNat 64 (2 ^ b.toNat) else 0

def execMlane (i : BitVec 1) (d : BitVec 4) (b : BitVec 8) (s : State) : Out :=
  mop s d fun s => laneMask s.curGroup.width (s.srcB .z i b)

def execMtest (d : BitVec 5) (a : BitVec 4) (b : BitVec 8) (s : State) : Out :=
  mtoScalar s d fun s => ofBool64 (s.mreg a &&& s.selS b != 0)

end Sys2Proof.Machine
end

