-- ==== Sys2Proof/Machine/Scalar.lean ====
section
/-!
DEFINITION. The scalar words (R241 to R244).
-/

namespace Sys2Proof.Machine

/-- A scalar word of operands a and b: `f` of their values into s(d). -/
def sop (s : State) (e : ImmExt) (i : BitVec 1) (d : BitVec 5) (a b : BitVec 8) (f : DWord → DWord → DWord) : Out :=
  .next (runWord ⟨0, false⟩ (modify fun s => s.writeS d.toNat (f (s.selS a) (s.srcB e i b))) s)

/-- A scalar word of operand a alone. -/
def sunary (s : State) (d : BitVec 5) (a : BitVec 8) (f : DWord → DWord) : Out :=
  .next (runWord ⟨0, false⟩ (modify fun s => s.writeS d.toNat (f (s.selS a))) s)

/-! ## Arithmetic (Table 09-5, R243, R244) -/

def mulHighS (a b : DWord) : DWord := w64 (a.toInt * b.toInt / 2 ^ 64)
def mulHighU (a b : DWord) : DWord := BitVec.ofNat 64 (a.toNat * b.toNat / 2 ^ 64)

def divS (a b : DWord) : DWord := if b = 0 then BitVec.allOnes 64 else w64 (a.toInt.tdiv b.toInt)
def divU (a b : DWord) : DWord := if b = 0 then BitVec.allOnes 64 else BitVec.ofNat 64 (a.toNat / b.toNat)
def remS (a b : DWord) : DWord := if b = 0 then a else w64 (a.toInt.tmod b.toInt)
def remU (a b : DWord) : DWord := if b = 0 then a else BitVec.ofNat 64 (a.toNat % b.toNat)

/-- b[5:0]. -/
def amount6 (b : DWord) : Nat := b.toNat % 64

/-- SBFE's shifted value and the width k of its field. -/
def fieldOf (a b : DWord) : Nat × Nat :=
  let n := if field b.toNat 8 6 = 0 then 64 else field b.toNat 8 6
  (a.toNat / 2 ^ amount6 b, min n (64 - amount6 b))

def extractU (a b : DWord) : DWord := BitVec.ofNat 64 ((fieldOf a b).1 % 2 ^ (fieldOf a b).2)
def extractS (a b : DWord) : DWord := w64 (sextNat (fieldOf a b).2 (fieldOf a b).1)

/-! ## The words -/

def execSadd (i : BitVec 1) (d : BitVec 5) (a b : BitVec 8) (s : State) : Out :=
  sop s .s i d a b (fun a b => a + b)

def execSsub (i : BitVec 1) (d : BitVec 5) (a b : BitVec 8) (s : State) : Out :=
  sop s .s i d a b (fun a b => a - b)

def execSmul (i : BitVec 1) (d : BitVec 5) (a b : BitVec 8) (s : State) : Out :=
  sop s .s i d a b (fun a b => a * b)

def execSmulh (i : BitVec 1) (d : BitVec 5) (a b : BitVec 8) (s : State) : Out :=
  sop s .s i d a b (mulHighS)

def execSmulhU (i : BitVec 1) (d : BitVec 5) (a b : BitVec 8) (s : State) : Out :=
  sop s .z i d a b (mulHighU)

def execSdiv (i : BitVec 1) (d : BitVec 5) (a b : BitVec 8) (s : State) : Out :=
  sop s .s i d a b (divS)

def execSdivU (i : BitVec 1) (d : BitVec 5) (a b : BitVec 8) (s : State) : Out :=
  sop s .z i d a b (divU)

def execSrem (i : BitVec 1) (d : BitVec 5) (a b : BitVec 8) (s : State) : Out :=
  sop s .s i d a b (remS)

def execSremU (i : BitVec 1) (d : BitVec 5) (a b : BitVec 8) (s : State) : Out :=
  sop s .z i d a b (remU)

def execSand (i : BitVec 1) (d : BitVec 5) (a b : BitVec 8) (s : State) : Out :=
  sop s .z i d a b (fun a b => a &&& b)

def execSor (i : BitVec 1) (d : BitVec 5) (a b : BitVec 8) (s : State) : Out :=
  sop s .z i d a b (fun a b => a ||| b)

def execSxor (i : BitVec 1) (d : BitVec 5) (a b : BitVec 8) (s : State) : Out :=
  sop s .z i d a b (fun a b => a ^^^ b)

def execSandn (i : BitVec 1) (d : BitVec 5) (a b : BitVec 8) (s : State) : Out :=
  sop s .z i d a b (fun a b => a &&& ~~~ b)

def execSshl (i : BitVec 1) (d : BitVec 5) (a b : BitVec 8) (s : State) : Out :=
  sop s .z i d a b (fun a b => a <<< amount6 b)

def execSshr (i : BitVec 1) (d : BitVec 5) (a b : BitVec 8) (s : State) : Out :=
  sop s .z i d a b (fun a b => a >>> amount6 b)

def execSsar (i : BitVec 1) (d : BitVec 5) (a b : BitVec 8) (s : State) : Out :=
  sop s .z i d a b (fun a b => a.sshiftRight (amount6 b))

def execSrot (i : BitVec 1) (d : BitVec 5) (a b : BitVec 8) (s : State) : Out :=
  sop s .z i d a b (fun a b => a.rotateLeft (amount6 b))

def execSmin (i : BitVec 1) (d : BitVec 5) (a b : BitVec 8) (s : State) : Out :=
  sop s .s i d a b (fun a b => if a.toInt ≤ b.toInt then a else b)

def execSminU (i : BitVec 1) (d : BitVec 5) (a b : BitVec 8) (s : State) : Out :=
  sop s .z i d a b (fun a b => if a.toNat ≤ b.toNat then a else b)

def execSmax (i : BitVec 1) (d : BitVec 5) (a b : BitVec 8) (s : State) : Out :=
  sop s .s i d a b (fun a b => if b.toInt ≤ a.toInt then a else b)

def execSmaxU (i : BitVec 1) (d : BitVec 5) (a b : BitVec 8) (s : State) : Out :=
  sop s .z i d a b (fun a b => if b.toNat ≤ a.toNat then a else b)

def execScmpEq (i : BitVec 1) (d : BitVec 5) (a b : BitVec 8) (s : State) : Out :=
  sop s .s i d a b (fun a b => ofBool64 (a == b))

def execScmpNe (i : BitVec 1) (d : BitVec 5) (a b : BitVec 8) (s : State) : Out :=
  sop s .s i d a b (fun a b => ofBool64 (a != b))

def execScmpLt (i : BitVec 1) (d : BitVec 5) (a b : BitVec 8) (s : State) : Out :=
  sop s .s i d a b (fun a b => ofBool64 (decide (a.toInt < b.toInt)))

def execScmpLe (i : BitVec 1) (d : BitVec 5) (a b : BitVec 8) (s : State) : Out :=
  sop s .s i d a b (fun a b => ofBool64 (decide (a.toInt ≤ b.toInt)))

def execScmpLtU (i : BitVec 1) (d : BitVec 5) (a b : BitVec 8) (s : State) : Out :=
  sop s .z i d a b (fun a b => ofBool64 (decide (a.toNat < b.toNat)))

def execScmpLeU (i : BitVec 1) (d : BitVec 5) (a b : BitVec 8) (s : State) : Out :=
  sop s .z i d a b (fun a b => ofBool64 (decide (a.toNat ≤ b.toNat)))

/-- SSEL reads the prior value of s(d). -/
def execSsel (i : BitVec 1) (d : BitVec 5) (a b : BitVec 8) (s : State) : Out :=
  sop s .s i d a b (fun x y => if s.curGroup.readS d.toNat = 0 then y else x)

def execSmov (i : BitVec 1) (d : BitVec 5) (b : BitVec 8) (s : State) : Out :=
  sop s .s i d 0xF0 b (fun _ y => y)

/-- SLI requires I = 1. -/
def execSli (d : BitVec 5) (a b : BitVec 8) (s : State) : Out :=
  sop s .z 1 d a b (fun x y => x <<< 8 ||| y)

def execSpopc (d : BitVec 5) (a : BitVec 8) (s : State) : Out :=
  sunary s d a fun x => BitVec.ofNat 64 (popcount 64 x.toNat)

def execSclz (d : BitVec 5) (a : BitVec 8) (s : State) : Out :=
  sunary s d a fun x => BitVec.ofNat 64 (leadingZeros 64 x.toNat)

def execSbfe (i : BitVec 1) (d : BitVec 5) (a b : BitVec 8) (s : State) : Out :=
  sop s .z i d a b extractU

def execSbfeS (i : BitVec 1) (d : BitVec 5) (a b : BitVec 8) (s : State) : Out :=
  sop s .z i d a b extractS

end Sys2Proof.Machine
end

