-- ==== Sys2Proof/Machine/Dispatch.lean ====
section
/-!
DEFINITION. The one match of the machine: every instruction and event to its meaning.
-/

namespace Sys2Proof.Machine

def exec (i : Instr) (s : State) : Host.Outcome State Fault Refusal :=
  match i with
  | .bra o => Sys2Proof.Machine.execBra o s
  | .brc n o => Sys2Proof.Machine.execBrc n o s
  | .brmAny n o => Sys2Proof.Machine.execBrmAny n o s
  | .brmNone n o => Sys2Proof.Machine.execBrmNone n o s
  | .jmpi n => Sys2Proof.Machine.execJmpi n s
  | .call o => Sys2Proof.Machine.execCall o s
  | .calli n => Sys2Proof.Machine.execCalli n s
  | .ret => Sys2Proof.Machine.execRet s
  | .loop n o => Sys2Proof.Machine.execLoop n o s
  | .split t c o => Sys2Proof.Machine.execSplit t c o s
  | .join t => Sys2Proof.Machine.execJoin t s
  | .joinMerge p => Sys2Proof.Machine.execJoinMerge p s
  | .exit => Sys2Proof.Machine.execExit s
  | .yield => Sys2Proof.Machine.execYield s
  | .nop => Sys2Proof.Machine.execNop s
  | .trap c => Sys2Proof.Machine.execTrap c s
  | .bkpt => Sys2Proof.Machine.execBkpt s
  | .eret => Sys2Proof.Machine.execEret s
  | .sadd ix d a b => Sys2Proof.Machine.execSadd ix d a b s
  | .ssub ix d a b => Sys2Proof.Machine.execSsub ix d a b s
  | .smul ix d a b => Sys2Proof.Machine.execSmul ix d a b s
  | .smulh ix d a b => Sys2Proof.Machine.execSmulh ix d a b s
  | .smulhU ix d a b => Sys2Proof.Machine.execSmulhU ix d a b s
  | .sdiv ix d a b => Sys2Proof.Machine.execSdiv ix d a b s
  | .sdivU ix d a b => Sys2Proof.Machine.execSdivU ix d a b s
  | .srem ix d a b => Sys2Proof.Machine.execSrem ix d a b s
  | .sremU ix d a b => Sys2Proof.Machine.execSremU ix d a b s
  | .sand ix d a b => Sys2Proof.Machine.execSand ix d a b s
  | .sor ix d a b => Sys2Proof.Machine.execSor ix d a b s
  | .sxor ix d a b => Sys2Proof.Machine.execSxor ix d a b s
  | .sandn ix d a b => Sys2Proof.Machine.execSandn ix d a b s
  | .sshl ix d a b => Sys2Proof.Machine.execSshl ix d a b s
  | .sshr ix d a b => Sys2Proof.Machine.execSshr ix d a b s
  | .ssar ix d a b => Sys2Proof.Machine.execSsar ix d a b s
  | .srot ix d a b => Sys2Proof.Machine.execSrot ix d a b s
  | .smin ix d a b => Sys2Proof.Machine.execSmin ix d a b s
  | .sminU ix d a b => Sys2Proof.Machine.execSminU ix d a b s
  | .smax ix d a b => Sys2Proof.Machine.execSmax ix d a b s
  | .smaxU ix d a b => Sys2Proof.Machine.execSmaxU ix d a b s
  | .scmpEq ix d a b => Sys2Proof.Machine.execScmpEq ix d a b s
  | .scmpNe ix d a b => Sys2Proof.Machine.execScmpNe ix d a b s
  | .scmpLt ix d a b => Sys2Proof.Machine.execScmpLt ix d a b s
  | .scmpLe ix d a b => Sys2Proof.Machine.execScmpLe ix d a b s
  | .scmpLtU ix d a b => Sys2Proof.Machine.execScmpLtU ix d a b s
  | .scmpLeU ix d a b => Sys2Proof.Machine.execScmpLeU ix d a b s
  | .ssel ix d a b => Sys2Proof.Machine.execSsel ix d a b s
  | .smov ix d b => Sys2Proof.Machine.execSmov ix d b s
  | .sli d a b => Sys2Proof.Machine.execSli d a b s
  | .spopc d a => Sys2Proof.Machine.execSpopc d a s
  | .sclz d a => Sys2Proof.Machine.execSclz d a s
  | .sbfe ix d a b => Sys2Proof.Machine.execSbfe ix d a b s
  | .sbfeS ix d a b => Sys2Proof.Machine.execSbfeS ix d a b s
  | .mand d a b => Sys2Proof.Machine.execMand d a b s
  | .mor d a b => Sys2Proof.Machine.execMor d a b s
  | .mxor d a b => Sys2Proof.Machine.execMxor d a b s
  | .mandn d a b => Sys2Proof.Machine.execMandn d a b s
  | .mnot d a => Sys2Proof.Machine.execMnot d a s
  | .mmov d a => Sys2Proof.Machine.execMmov d a s
  | .mfroms d a => Sys2Proof.Machine.execMfroms d a s
  | .mtos d a => Sys2Proof.Machine.execMtos d a s
  | .mpopc d a => Sys2Proof.Machine.execMpopc d a s
  | .mffs d a => Sys2Proof.Machine.execMffs d a s
  | .mlane ix d b => Sys2Proof.Machine.execMlane ix d b s
  | .mtest d a b => Sys2Proof.Machine.execMtest d a b s
  | .vadd ix d a b => Sys2Proof.Machine.execVadd ix d a b s
  | .vaddI16 ix d a b => Sys2Proof.Machine.execVaddI16 ix d a b s
  | .vaddI8 ix d a b => Sys2Proof.Machine.execVaddI8 ix d a b s
  | .vsub ix d a b => Sys2Proof.Machine.execVsub ix d a b s
  | .vsubI16 ix d a b => Sys2Proof.Machine.execVsubI16 ix d a b s
  | .vsubI8 ix d a b => Sys2Proof.Machine.execVsubI8 ix d a b s
  | .vmullo ix d a b => Sys2Proof.Machine.execVmullo ix d a b s
  | .vmulloI16 ix d a b => Sys2Proof.Machine.execVmulloI16 ix d a b s
  | .vmulloI8 ix d a b => Sys2Proof.Machine.execVmulloI8 ix d a b s
  | .vmulhi ix d a b => Sys2Proof.Machine.execVmulhi ix d a b s
  | .vmulhiU ix d a b => Sys2Proof.Machine.execVmulhiU ix d a b s
  | .vmad ix d a b => Sys2Proof.Machine.execVmad ix d a b s
  | .vmadI16 ix d a b => Sys2Proof.Machine.execVmadI16 ix d a b s
  | .vmadI8 ix d a b => Sys2Proof.Machine.execVmadI8 ix d a b s
  | .vmin ix d a b => Sys2Proof.Machine.execVmin ix d a b s
  | .vminI16 ix d a b => Sys2Proof.Machine.execVminI16 ix d a b s
  | .vminI8 ix d a b => Sys2Proof.Machine.execVminI8 ix d a b s
  | .vminU ix d a b => Sys2Proof.Machine.execVminU ix d a b s
  | .vminUI16 ix d a b => Sys2Proof.Machine.execVminUI16 ix d a b s
  | .vminUI8 ix d a b => Sys2Proof.Machine.execVminUI8 ix d a b s
  | .vmax ix d a b => Sys2Proof.Machine.execVmax ix d a b s
  | .vmaxI16 ix d a b => Sys2Proof.Machine.execVmaxI16 ix d a b s
  | .vmaxI8 ix d a b => Sys2Proof.Machine.execVmaxI8 ix d a b s
  | .vmaxU ix d a b => Sys2Proof.Machine.execVmaxU ix d a b s
  | .vmaxUI16 ix d a b => Sys2Proof.Machine.execVmaxUI16 ix d a b s
  | .vmaxUI8 ix d a b => Sys2Proof.Machine.execVmaxUI8 ix d a b s
  | .vabsd ix d a b => Sys2Proof.Machine.execVabsd ix d a b s
  | .vabsdU ix d a b => Sys2Proof.Machine.execVabsdU ix d a b s
  | .vaddsat ix d a b => Sys2Proof.Machine.execVaddsat ix d a b s
  | .vaddsatI16 ix d a b => Sys2Proof.Machine.execVaddsatI16 ix d a b s
  | .vaddsatI8 ix d a b => Sys2Proof.Machine.execVaddsatI8 ix d a b s
  | .vaddsatU8 ix d a b => Sys2Proof.Machine.execVaddsatU8 ix d a b s
  | .vsubsat ix d a b => Sys2Proof.Machine.execVsubsat ix d a b s
  | .vsubsatI16 ix d a b => Sys2Proof.Machine.execVsubsatI16 ix d a b s
  | .vsubsatI8 ix d a b => Sys2Proof.Machine.execVsubsatI8 ix d a b s
  | .vsubsatU8 ix d a b => Sys2Proof.Machine.execVsubsatU8 ix d a b s
  | .vand ix d a b => Sys2Proof.Machine.execVand ix d a b s
  | .vor ix d a b => Sys2Proof.Machine.execVor ix d a b s
  | .vxor ix d a b => Sys2Proof.Machine.execVxor ix d a b s
  | .vandn ix d a b => Sys2Proof.Machine.execVandn ix d a b s
  | .vshl ix d a b => Sys2Proof.Machine.execVshl ix d a b s
  | .vshr ix d a b => Sys2Proof.Machine.execVshr ix d a b s
  | .vsar ix d a b => Sys2Proof.Machine.execVsar ix d a b s
  | .vrot ix d a b => Sys2Proof.Machine.execVrot ix d a b s
  | .vpopc d a => Sys2Proof.Machine.execVpopc d a s
  | .vclz d a => Sys2Proof.Machine.execVclz d a s
  | .vbrev d a => Sys2Proof.Machine.execVbrev d a s
  | .vbfe ix d a b => Sys2Proof.Machine.execVbfe ix d a b s
  | .vbfeS ix d a b => Sys2Proof.Machine.execVbfeS ix d a b s
  | .vbfi ix d a b => Sys2Proof.Machine.execVbfi ix d a b s
  | .vcmp ix c m a b => Sys2Proof.Machine.execVcmp ix c m a b s
  | .vsel ix d a b => Sys2Proof.Machine.execVsel ix d a b s
  | .vmov ix d b => Sys2Proof.Machine.execVmov ix d b s
  | .vrdx ix d a b => Sys2Proof.Machine.execVrdx ix d a b s
  | .vwrx ix sx a b => Sys2Proof.Machine.execVwrx ix sx a b s
  | .vdead d n => Sys2Proof.Machine.execVdead d n s
  | .vfadd d a b => Sys2Proof.Machine.execVfadd d a b s
  | .vfaddF16 d a b => Sys2Proof.Machine.execVfaddF16 d a b s
  | .vfaddBf16 d a b => Sys2Proof.Machine.execVfaddBf16 d a b s
  | .vfsub d a b => Sys2Proof.Machine.execVfsub d a b s
  | .vfsubF16 d a b => Sys2Proof.Machine.execVfsubF16 d a b s
  | .vfsubBf16 d a b => Sys2Proof.Machine.execVfsubBf16 d a b s
  | .vfmul d a b => Sys2Proof.Machine.execVfmul d a b s
  | .vfmulF16 d a b => Sys2Proof.Machine.execVfmulF16 d a b s
  | .vfmulBf16 d a b => Sys2Proof.Machine.execVfmulBf16 d a b s
  | .vfma d a b => Sys2Proof.Machine.execVfma d a b s
  | .vfmaF16 d a b => Sys2Proof.Machine.execVfmaF16 d a b s
  | .vfmaBf16 d a b => Sys2Proof.Machine.execVfmaBf16 d a b s
  | .vfmin d a b => Sys2Proof.Machine.execVfmin d a b s
  | .vfminF16 d a b => Sys2Proof.Machine.execVfminF16 d a b s
  | .vfminBf16 d a b => Sys2Proof.Machine.execVfminBf16 d a b s
  | .vfmax d a b => Sys2Proof.Machine.execVfmax d a b s
  | .vfmaxF16 d a b => Sys2Proof.Machine.execVfmaxF16 d a b s
  | .vfmaxBf16 d a b => Sys2Proof.Machine.execVfmaxBf16 d a b s
  | .vfsgn d a b => Sys2Proof.Machine.execVfsgn d a b s
  | .vfsgnN d a b => Sys2Proof.Machine.execVfsgnN d a b s
  | .vfsgnX d a b => Sys2Proof.Machine.execVfsgnX d a b s
  | .vfcmp c m a b => Sys2Proof.Machine.execVfcmp c m a b s
  | .vfclass d a => Sys2Proof.Machine.execVfclass d a s
  | .vfdiv d a b => Sys2Proof.Machine.execVfdiv d a b s
  | .vfsqrt d a => Sys2Proof.Machine.execVfsqrt d a s
  | .vfrcp d a => Sys2Proof.Machine.execVfrcp d a s
  | .vfrsq d a => Sys2Proof.Machine.execVfrsq d a s
  | .vfexp2 d a => Sys2Proof.Machine.execVfexp2 d a s
  | .vflog2 d a => Sys2Proof.Machine.execVflog2 d a s
  | .vfsin d a => Sys2Proof.Machine.execVfsin d a s
  | .vfcos d a => Sys2Proof.Machine.execVfcos d a s
  | .vfrnd d a => Sys2Proof.Machine.execVfrnd d a s
  | .vfrndF16 d a => Sys2Proof.Machine.execVfrndF16 d a s
  | .vfrndBf16 d a => Sys2Proof.Machine.execVfrndBf16 d a s
  | .vcvt g d a t sx => Sys2Proof.Machine.execVcvt g d a t sx s
  | .vpack g d a f => Sys2Proof.Machine.execVpack g d a f s
  | .vunpk g d a f => Sys2Proof.Machine.execVunpk g d a f s
  | .vquantE4m3 d a => Sys2Proof.Machine.execVquantE4m3 d a s
  | .vquantE5m2 d a => Sys2Proof.Machine.execVquantE5m2 d a s
  | .vquantE2m1 d a => Sys2Proof.Machine.execVquantE2m1 d a s
  | .vdeqE4m3 d a => Sys2Proof.Machine.execVdeqE4m3 d a s
  | .vdeqE5m2 d a => Sys2Proof.Machine.execVdeqE5m2 d a s
  | .vdeqE2m1 d a => Sys2Proof.Machine.execVdeqE2m1 d a s
  | .vperm d a b => Sys2Proof.Machine.execVperm d a b s
  | .vbcast ix d a b => Sys2Proof.Machine.execVbcast ix d a b s
  | .vlshiftUp ix d a b => Sys2Proof.Machine.execVlshiftUp ix d a b s
  | .vlshiftDn ix d a b => Sys2Proof.Machine.execVlshiftDn ix d a b s
  | .vred d a o => Sys2Proof.Machine.execVred d a o s
  | .vredScalar d a o => Sys2Proof.Machine.execVredScalar d a o s
  | .vredmi d a => Sys2Proof.Machine.execVredmi d a s
  | .vredmiScalar d a => Sys2Proof.Machine.execVredmiScalar d a s
  | .vscan d a o => Sys2Proof.Machine.execVscan d a o s
  | .vscanEx d a o => Sys2Proof.Machine.execVscanEx d a o s
  | .vballot m a => Sys2Proof.Machine.execVballot m a s
  | .vextr ix d a b => Sys2Proof.Machine.execVextr ix d a b s
  | .vins ix d a b => Sys2Proof.Machine.execVins ix d a b s
  | .prefixWord m z r f k a => Sys2Proof.Machine.execPrefixWord m z r f k a s
  | .ld f z d o b k n => Sys2Proof.Machine.execLd f z d o b k n s
  | .st f z d o b k n => Sys2Proof.Machine.execSt f z d o b k n s
  | .lds f z d o b k n => Sys2Proof.Machine.execLds f z d o b k n s
  | .sts f z d o b k n => Sys2Proof.Machine.execSts f z d o b k n s
  | .ldp f z d o b k n => Sys2Proof.Machine.execLdp f z d o b k n s
  | .stp f z d o b k n => Sys2Proof.Machine.execStp f z d o b k n s
  | .ldcl f z d o b k n => Sys2Proof.Machine.execLdcl f z d o b k n s
  | .atomAdd f w d o b => Sys2Proof.Machine.execAtomAdd f w d o b s
  | .atomExch f w d o b => Sys2Proof.Machine.execAtomExch f w d o b s
  | .atomAnd f w d o b => Sys2Proof.Machine.execAtomAnd f w d o b s
  | .atomOr f w d o b => Sys2Proof.Machine.execAtomOr f w d o b s
  | .atomXor f w d o b => Sys2Proof.Machine.execAtomXor f w d o b s
  | .atomMin f w d o b => Sys2Proof.Machine.execAtomMin f w d o b s
  | .atomMax f w d o b => Sys2Proof.Machine.execAtomMax f w d o b s
  | .atomMinU f w d o b => Sys2Proof.Machine.execAtomMinU f w d o b s
  | .atomMaxU f w d o b => Sys2Proof.Machine.execAtomMaxU f w d o b s
  | .atomFadd f d o b => Sys2Proof.Machine.execAtomFadd f d o b s
  | .atomc f z d o b => Sys2Proof.Machine.execAtomc f z d o b s
  | .atompAdd f w d o b => Sys2Proof.Machine.execAtompAdd f w d o b s
  | .atompExch f w d o b => Sys2Proof.Machine.execAtompExch f w d o b s
  | .atompAnd f w d o b => Sys2Proof.Machine.execAtompAnd f w d o b s
  | .atompOr f w d o b => Sys2Proof.Machine.execAtompOr f w d o b s
  | .atompXor f w d o b => Sys2Proof.Machine.execAtompXor f w d o b s
  | .atompMin f w d o b => Sys2Proof.Machine.execAtompMin f w d o b s
  | .atompMax f w d o b => Sys2Proof.Machine.execAtompMax f w d o b s
  | .atompMinU f w d o b => Sys2Proof.Machine.execAtompMinU f w d o b s
  | .atompMaxU f w d o b => Sys2Proof.Machine.execAtompMaxU f w d o b s
  | .atompFadd f d o b => Sys2Proof.Machine.execAtompFadd f d o b s
  | .fence o sx => Sys2Proof.Machine.execFence o sx s
  | .prefL1 f o b k n => Sys2Proof.Machine.execPrefL1 f o b k n s
  | .prefL2 f o b k n => Sys2Proof.Machine.execPrefL2 f o b k n s
  | .cctlWb f o b k n => Sys2Proof.Machine.execCctlWb f o b k n s
  | .cctlDc f o b k n => Sys2Proof.Machine.execCctlDc f o b k n s
  | .cctlWbdc f o b k n => Sys2Proof.Machine.execCctlWbdc f o b k n s
  | .memoryAccessComplete op => Sys2Proof.Machine.execMemoryAccessComplete op s
  | .fabricRejection op => Sys2Proof.Machine.execFabricRejection op s
  | .pgrow ix d b => Sys2Proof.Machine.execPgrow ix d b s
  | .pshrink ix d b => Sys2Proof.Machine.execPshrink ix d b s
  | .pquery d x => Sys2Proof.Machine.execPquery d x s
  | .pshare ix d a b => Sys2Proof.Machine.execPshare ix d a b s
  | .barinit d a p c => Sys2Proof.Machine.execBarinit d a p c s
  | .bararr a p c => Sys2Proof.Machine.execBararr a p c s
  | .barwait d a p c => Sys2Proof.Machine.execBarwait d a p c s
  | .bartest d a p c => Sys2Proof.Machine.execBartest d a p c s
  | .barrierPass p => Sys2Proof.Machine.execBarrierPass p s
  | .cpy f d b => Sys2Proof.Machine.execCpy f d b s
  | .cpyim f d b => Sys2Proof.Machine.execCpyim f d b s
  | .cpygt f d b => Sys2Proof.Machine.execCpygt f d b s
  | .bxeChunkComplete copy chunk => Sys2Proof.Machine.execBxeChunkComplete copy chunk s
  | .copyComplete copy => Sys2Proof.Machine.execCopyComplete copy s
  | .chkw d b => Sys2Proof.Machine.execChkw d b s
  | .chkwT d a b => Sys2Proof.Machine.execChkwT d a b s
  | .chkwPass p => Sys2Proof.Machine.execChkwPass p s
  | .csend f d => Sys2Proof.Machine.execCsend f d s
  | .crecv f d => Sys2Proof.Machine.execCrecv f d s
  | .csendComplete op => Sys2Proof.Machine.execCsendComplete op s
  | .crecvComplete op others => Sys2Proof.Machine.execCrecvComplete op others s
  | .ldw f sx c => Sys2Proof.Machine.execLdw f sx c s
  | .ldwLatch op latchErrors => Sys2Proof.Machine.execLdwLatch op latchErrors s
  | .mma f f2 t a x => Sys2Proof.Machine.execMma f f2 t a x s
  | .mmaz f f2 t a x => Sys2Proof.Machine.execMmaz f f2 t a x s
  | .mmaStep op => Sys2Proof.Machine.execMmaStep op s
  | .accrd d g t c => Sys2Proof.Machine.execAccrd d g t c s
  | .accwr d g t => Sys2Proof.Machine.execAccwr d g t s
  | .accz t => Sys2Proof.Machine.execAccz t s
  | .acccvt d g t sx f => Sys2Proof.Machine.execAcccvt d g t sx f s
  | .accalloc t => Sys2Proof.Machine.execAccalloc t s
  | .accfree t => Sys2Proof.Machine.execAccfree t s
  | .hvld f h p sx => Sys2Proof.Machine.execHvld f h p sx s
  | .hvst f h p sx => Sys2Proof.Machine.execHvst f h p sx s
  | .hvxor d a b => Sys2Proof.Machine.execHvxor d a b s
  | .hvmaj3 d a c b => Sys2Proof.Machine.execHvmaj3 d a c b s
  | .hvrotS d a n => Sys2Proof.Machine.execHvrotS d a n s
  | .hvrotImm d a n => Sys2Proof.Machine.execHvrotImm d a n s
  | .hvbun d a => Sys2Proof.Machine.execHvbun d a s
  | .hvbunSub d a => Sys2Proof.Machine.execHvbunSub d a s
  | .hvthr d a t => Sys2Proof.Machine.execHvthr d a t s
  | .hvthrAlt d a => Sys2Proof.Machine.execHvthrAlt d a s
  | .hvclrb d => Sys2Proof.Machine.execHvclrb d s
  | .hvdist d a b => Sys2Proof.Machine.execHvdist d a b s
  | .hvpopc d a => Sys2Proof.Machine.execHvpopc d a s
  | .hvnear f p d a b => Sys2Proof.Machine.execHvnear f p d a b s
  | .hvgen d c => Sys2Proof.Machine.execHvgen d c s
  | .hvget d a ix => Sys2Proof.Machine.execHvget d a ix s
  | .hvset d a ix => Sys2Proof.Machine.execHvset d a ix s
  | .hvuWordComplete op => Sys2Proof.Machine.execHvuWordComplete op s
  | .hvldComplete op => Sys2Proof.Machine.execHvldComplete op s
  | .hvnearComplete op => Sys2Proof.Machine.execHvnearComplete op s
  | .emit f p c j => Sys2Proof.Machine.execEmit f p c j s
  | .eflush f j => Sys2Proof.Machine.execEflush f j s
  | .launch f r => Sys2Proof.Machine.execLaunch f r s
  | .signal f r => Sys2Proof.Machine.execSignal f r s
  | .sysrd d x => Sys2Proof.Machine.execSysrd d x s
  | .modewMode b => Sys2Proof.Machine.execModewMode b s
  | .moderMode d => Sys2Proof.Machine.execModerMode d s
  | .modewFstat b => Sys2Proof.Machine.execModewFstat b s
  | .moderFstat d => Sys2Proof.Machine.execModerFstat d s
  | .trapinfo d a b => Sys2Proof.Machine.execTrapinfo d a b s
  | .fwd => Sys2Proof.Machine.execFwd s
  | .clauseStart p => Sys2Proof.Machine.execClauseStart p s
  | .operandFill p reg => Sys2Proof.Machine.execOperandFill p reg s
  | .poolGrant core => Sys2Proof.Machine.execPoolGrant core s
  | .poolStallLimit p => Sys2Proof.Machine.execPoolStallLimit p s
  | .poolDeadlock core => Sys2Proof.Machine.execPoolDeadlock core s
  | .granulePassToL1 core granule => Sys2Proof.Machine.execGranulePassToL1 core granule s
  | .pshareMoveComplete p => Sys2Proof.Machine.execPshareMoveComplete p s
  | .l1TimedWriteback core sector => Sys2Proof.Machine.execL1TimedWriteback core sector s
  | .combiningBufferTimeout core quad line => Sys2Proof.Machine.execCombiningBufferTimeout core quad line s
  | .replicaPlacement core sector => Sys2Proof.Machine.execReplicaPlacement core sector s
  | .replicaDrop area sector => Sys2Proof.Machine.execReplicaDrop area sector s
  | .uncorrectableError site => Sys2Proof.Machine.execUncorrectableError site s
  | .correctedError unit => Sys2Proof.Machine.execCorrectedError unit s
  | .unitRetirement unit => Sys2Proof.Machine.execUnitRetirement unit s
  | .queueRecordTake part => Sys2Proof.Machine.execQueueRecordTake part s
  | .daymarkCopyComplete launch => Sys2Proof.Machine.execDaymarkCopyComplete launch s
  | .deviceLaunchAccept op => Sys2Proof.Machine.execDeviceLaunchAccept op s
  | .teamAdmit part => Sys2Proof.Machine.execTeamAdmit part s
  | .teamResume part => Sys2Proof.Machine.execTeamResume part s
  | .teamRetire ctx => Sys2Proof.Machine.execTeamRetire ctx s
  | .launchComplete launch => Sys2Proof.Machine.execLaunchComplete launch s
  | .emitAccept op => Sys2Proof.Machine.execEmitAccept op s
  | .eflushAccept op => Sys2Proof.Machine.execEflushAccept op s
  | .timeSlice ctx => Sys2Proof.Machine.execTimeSlice ctx s
  | .preemptForRoom part => Sys2Proof.Machine.execPreemptForRoom part s
  | .placementAging part => Sys2Proof.Machine.execPlacementAging part s
  | .keeperSave ctx => Sys2Proof.Machine.execKeeperSave ctx s
  | .preemptHardStop ctx => Sys2Proof.Machine.execPreemptHardStop ctx s
  | .partyActivate core quad => Sys2Proof.Machine.execPartyActivate core quad s
  | .starvation core quad => Sys2Proof.Machine.execStarvation core quad s
  | .energyTick => Sys2Proof.Machine.execEnergyTick s
  | .powerSample watts celsius => Sys2Proof.Machine.execPowerSample watts celsius s
  | .clockStepUp => Sys2Proof.Machine.execClockStepUp s
  | .capIsolatedDanger => Sys2Proof.Machine.execCapIsolatedDanger s
  | .resumeToken tf token => Sys2Proof.Machine.execResumeToken tf token s
  | .resumeAll tf => Sys2Proof.Machine.execResumeAll tf s
  | .invcmdRange tf v => Sys2Proof.Machine.execInvcmdRange tf v s
  | .invcmdAsid tf v => Sys2Proof.Machine.execInvcmdAsid tf v s
  | .invcmdIgnored tf v => Sys2Proof.Machine.execInvcmdIgnored tf v s
  | .invalidationComplete tf => Sys2Proof.Machine.execInvalidationComplete tf s
  | .faultQueueEnable tf v => Sys2Proof.Machine.execFaultQueueEnable tf v s
  | .faultQueueDisable tf v => Sys2Proof.Machine.execFaultQueueDisable tf v s
  | .fqconsWrite tf v => Sys2Proof.Machine.execFqconsWrite tf v s
  | .codeLoad tf slot v => Sys2Proof.Machine.execCodeLoad tf slot v s
  | .codeLoadVerify tf slot => Sys2Proof.Machine.execCodeLoadVerify tf slot s
  | .codeUnload tf slot v => Sys2Proof.Machine.execCodeUnload tf slot v s
  | .codeUnloadForce tf slot v => Sys2Proof.Machine.execCodeUnloadForce tf slot v s
  | .codeCmdIgnored tf slot v => Sys2Proof.Machine.execCodeCmdIgnored tf slot v s
  | .codePageVerify tf slot page => Sys2Proof.Machine.execCodePageVerify tf slot page s
  | .codeObjectEmpty tf slot => Sys2Proof.Machine.execCodeObjectEmpty tf slot s
  | .ttctlWrite tf v => Sys2Proof.Machine.execTtctlWrite tf v s
  | .ttrootWrite tf v => Sys2Proof.Machine.execTtrootWrite tf v s
  | .tfPartWrite tf v => Sys2Proof.Machine.execTfPartWrite tf v s
  | .daymarkKeyWrite tf half v => Sys2Proof.Machine.execDaymarkKeyWrite tf half v s
  | .queueEnable q v => Sys2Proof.Machine.execQueueEnable q v s
  | .queueDisable q v => Sys2Proof.Machine.execQueueDisable q v s
  | .partitionChange v => Sys2Proof.Machine.execPartitionChange v s
  | .partitionChangeComplete => Sys2Proof.Machine.execPartitionChangeComplete s
  | .collectiveSlotRelease slot v => Sys2Proof.Machine.execCollectiveSlotRelease slot v s
  | .attestationRequest v => Sys2Proof.Machine.execAttestationRequest v s
  | .attestationComplete => Sys2Proof.Machine.execAttestationComplete s
  | .serviceRegisterWrite offset v => Sys2Proof.Machine.execServiceRegisterWrite offset v s
  | .rdmaWrite req rkey va data => Sys2Proof.Machine.execRdmaWrite req rkey va data s
  | .rdmaWriteWithImmediate req rkey va data imm => Sys2Proof.Machine.execRdmaWriteWithImmediate req rkey va data imm s
  | .rdmaRead req rkey va len => Sys2Proof.Machine.execRdmaRead req rkey va len s
  | .send req payload => Sys2Proof.Machine.execSend req payload s
  | .invalidRequest qp => Sys2Proof.Machine.execInvalidRequest qp s
  | .roceRetransmission qp what => Sys2Proof.Machine.execRoceRetransmission qp what s
  | .peerAccess dev acc => Sys2Proof.Machine.execPeerAccess dev acc s
  | .flitData port flit => Sys2Proof.Machine.execFlitData port flit s
  | .flitAcknowledgement port flit => Sys2Proof.Machine.execFlitAcknowledgement port flit s
  | .flitReplayRequest port flit eccOk => Sys2Proof.Machine.execFlitReplayRequest port flit eccOk s
  | .flitIdle port flit => Sys2Proof.Machine.execFlitIdle port flit s
  | .replayRequestRepeat port => Sys2Proof.Machine.execReplayRequestRepeat port s
  | .powerUpReset report => Sys2Proof.Machine.execPowerUpReset report s
  | .mgmtStatus => Sys2Proof.Machine.execMgmtStatus s
  | .mgmtLog offset => Sys2Proof.Machine.execMgmtLog offset s
  | .mgmtImageBlock offset bytes => Sys2Proof.Machine.execMgmtImageBlock offset bytes s
  | .mgmtImageCommit => Sys2Proof.Machine.execMgmtImageCommit s
  | .mgmtOtherDatagram bytes => Sys2Proof.Machine.execMgmtOtherDatagram bytes s
  | .illegalInstruction word => Sys2Proof.Machine.execIllegalInstruction word s
  | .linkTraining port up => Sys2Proof.Machine.execLinkTraining port up s

end Sys2Proof.Machine
end

