-- ==== Sys2Proof/Machine/Issue.lean ====
section
/-!
DEFINITION. The issue of a party's next word: its place in the clause (R207, R208), its decoding (R225), the registers
it needs (R63, R211), and its meaning.
The section is noncomputable for the reason that Sys2Proof/Decode.lean gives.
-/

noncomputable section

namespace Sys2Proof.Machine

/-- The cause of the trap that a word raises in a group that has a handler and is not in it, if any. TRAPINFO in a
handler is legal there only. -/
def State.trapOf (s : State) (i : Instr) : Option Byte :=
  if opOf s.curParty.word = 0x7C ∧ s.curGroup.trap.hb then none
  else
    match exec i (s.mapCur fun g => { g with handler := 0, trap := TrapState.reset, ending := false }) with
    | .next t => if t.curGroup.trap.hb then some ((t.curGroup.trap.words.getD 0 0).setWidth 8) else none
    | _ => none

/-- A launch's record with PURE and PV at 0. -/
def Launch.ordinary (l : Launch) : Launch :=
  { l with bytes := l.bytes.take 2 ++ leBytes 2 (l.lflags - l.lflags / 2 % 4 * 2) ++ l.bytes.drop 4 }

/-- The issuing party with nothing in its registers on which a check of Table 08-16 does not rest: vectors of zeros, the
code section's start in every scalar, no poison, and every lane or, where lanes index registers (R254), none. Its launch
counts as an ordinary one, since what these registers name is no access of a pure task. -/
def State.plainRegs (s : State) (w : Word) : State :=
  (s.mapLaunch (s.launchOf s.cur.ctx).id Launch.ordinary).mapCur fun g =>
    { (g.setMask s.cur.frag (if opOf w = 0x3B ∨ opOf w = 0x3C then 0 else onesBelow g.width)) with
      s := List.replicate 32 (s.codeStart s.cur.ctx), sPoison := []
      v := List.replicate 128 .zero, vPoison := [], hbPoison := [] }

/-- Table 08-16 decides before a word's registers are looked at, and PURITY before every other check (R225, R346). What a
control transfer checks rests on registers and masks alone. -/
def State.trapsFirst (s : State) (i : Instr) (purity : Bool) : Bool :=
  let w := s.curParty.word
  (decide (0x10 ≤ opOf w) &&
    (match (s.plainRegs w).trapOf i with
     | some c => [cIllegalInstruction, cIllegalClause, cIllegalPrefix, cRegbound].contains c
     | none => false)) ||
    (purity && s.trapOf i == some cPurity)

/-- The party's word misses a register: it leaves the active set, and the Tender fills the register (R63, R354). -/
def State.missReg (s : State) : State := s.mapCurParty fun pt => { pt with active := false }

/-- The word consumes a poisoned register (R65, R315). -/
def State.consumePoison (s : State) (w : Word) : State :=
  (s.chargeUnits s.cur.ctx (s.wordUnits w)).stopWord noEnergy s.trapRet (.fault (plainFault cDataPoison 0))

/-- The word of the issuing party, by what the checks before its meaning find (Table 08-16). -/
def State.runCurrent (s : State) (c : Clause) : Out :=
  match s.issueCheck c c.curWord, decodeWord c.curWord with
  | .refuse cause, _ => .next (s.refuseWord c.curWord cause)
  | _, .error _ => exec (.illegalInstruction c.curWord) s
  | .fill _, .ok i => if s.trapsFirst i false then exec i s else .next s.missReg
  | .hold, .ok _ => .next (s.waitCur (.hold .scoreboard))
  | .poison, .ok i => if s.trapsFirst i true then exec i s else .next (s.consumePoison c.curWord)
  | .go, .ok i => exec i s

/-- The word of a party would take a trap of its group. -/
def State.wouldTrap (s : State) (p : PartyRef) : Bool :=
  match (s.partyOf p).clause with
  | none => false
  | some c => match State.runCurrent { s with cur := p } c with
    | .next t => (t.groupAt p.ctx p.grp).trap.hb && !(s.groupAt p.ctx p.grp).trap.hb
    | _ => false

/-- The clause at which a party stands would take a trap of its group as it starts: at a header that fails its checks,
outside the code section, or on which a deferred trap falls due. -/
def State.startTraps (s : State) (p : PartyRef) : Bool :=
  let g := s.groupAt p.ctx p.grp
  s.atHeader p && !g.ending && !(s.teamAt p.ctx).hard && !g.trap.hb &&
    ((s.withCur p State.startClause).groupAt p.ctx p.grp).trap.hb

/-- A party of the same group in a lower place, main side first, traps in this cycle, at the word that it issues or at the
header at which it stands: it enters the handler first (Table 16-3). Parties that may issue or start in one cycle are
taken to do so in it (DESIGN CHOICE, log 139). -/
def State.trapsBefore (s : State) (p : PartyRef) : Bool :=
  ((s.groupAt p.ctx p.grp).parties.takeWhile (· != p.frag)).any fun w =>
    let q := { p with frag := w }
    s.startTraps q || (s.canIssue q && s.wouldTrap q)

/-- A party may issue its next word now. -/
def State.mayIssue (s : State) (p : PartyRef) : Bool := s.canIssue p && !s.trapsBefore p

/-- A party may start its clause now: one that would trap there lets a lower place's trap of the same cycle go first. -/
def State.mayStart (s : State) (p : PartyRef) : Bool := !(s.startTraps p && s.trapsBefore p)

/-- An event may occur now. -/
def State.mayHappen (s : State) (i : Instr) : Bool :=
  match i with
  | .clauseStart p => s.mayStart p
  | _ => true

/-- The party that issued least recently of all that may issue. -/
def State.nextIssue (s : State) : Option PartyRef :=
  leastBy (fun p => (s.partyOf p).issued) (s.allParties.filter s.mayIssue)

/-- A party's next word, where the party may issue one. -/
def State.issueWord (s : State) (p : PartyRef) : Out :=
  if s.mayIssue p then
    match (s.partyOf p).clause with
    | some c => State.runCurrent { s with cur := p } c
    | none => .next s
  else .next s

end Sys2Proof.Machine

end
end

