-- ==== Sys2Proof/Machine/Events.lean ====
section
/-!
DEFINITION. What the machine does next when nothing from outside says so: power-up, the tick of 1 µs, the issue of a
word, or an event whose condition holds. The spec fixes no order among agents; this one serves words and events in
turn, and the events round robin.
The section is noncomputable for the reason that Sys2Proof/Decode.lean gives.
-/

noncomputable section

namespace Sys2Proof.Machine

/-! ## The events that may come -/

/-- What an operation in flight may do next. Errors of a latch (R304), a collective's result (R297) and a peer's
rejection (R29) come from outside. -/
def Op.events (o : Op) : List Instr :=
  match o.kind with
  | .load | .store .. | .posted _ | .peerAtomic _ | .atomic | .cacheHint => [.memoryAccessComplete o.id]
  | .refused .. => [.fabricRejection o.id]
  | .copy _ => []
  | .csend .. => [.csendComplete o.id]
  | .crecv .. => []
  | .ldw .. => [.ldwLatch o.id 0]
  | .mma .. => [.mmaStep o.id]
  | .hv _ => [.hvuWordComplete o.id]
  | .hvld .. | .hvst .. => [.hvldComplete o.id]
  | .hvnear .. => [.hvnearComplete o.id]
  | .emit .. => [.emitAccept o.id]
  | .eflush _ => [.eflushAccept o.id]
  | .launch _ | .signal _ | .start _ => [.deviceLaunchAccept o.id]

/-- What a party may do next: begin its clause, or have a missing register of its next word filled; or what it waits for
may come about. -/
def State.partyEvents (s : State) (p : PartyRef) : List Instr :=
  match (s.partyOf p).wait with
  | .none =>
    match (s.partyOf p).clause with
    | none => [.clauseStart p]
    | some c =>
      match (s.groupAt p.ctx p.grp).needFill p.frag c.ahead.curWord c.ahead.pre with
      | some r => if (s.partyOf p).active || !s.onCore p then [] else [.operandFill p (BitVec.ofNat 7 r)]
      | none => []
  | .code page =>
    let l := s.launchOf p.ctx
    [.codePageVerify l.tf (BitVec.ofNat 7 l.codeSlot) page]
  | .join _ => [.joinMerge p]
  | .pgrow .. => [.poolStallLimit p]
  | .barwait .. => [.barrierPass p]
  | .chkw .. => [.chkwPass p]
  | .pshare .. => [.pshareMoveComplete p]
  | .header _ | .joined | .parked _ | .handler | .hold _ | .exited => []

def State.copyEvents (c : Copy) : List Instr := (c.chunks.map fun k => .bxeChunkComplete c.id k) ++ [.copyComplete c.id]

/-- Cores with a resident team. -/
def State.busyCores (s : State) : List Nat := dedup (s.teams.map (·.core))

def State.coreEvents (s : State) (core : Nat) : List Instr :=
  [.poolGrant core, .poolDeadlock core] ++ ((upTo 4).flatMap fun q => [.starvation core q, .partyActivate core q]) ++
    ((s.teams.filter fun t => t.core == core).flatMap fun t => t.leaving.map fun x => .granulePassToL1 core x.phys)

def State.teamEvents (t : Team) : List Instr := [.teamRetire t.ctx, .timeSlice t.ctx, .preemptHardStop t.ctx, .keeperSave t.ctx]

def State.launchEvents (l : Launch) : List Instr := [.launchComplete l.id, .daymarkCopyComplete l.id]

def State.tfEvents (t : Nat) (b : TfBlock) : List Instr :=
  .invalidationComplete (BitVec.ofNat 8 t) ::
    b.slots.flatMap fun (k, _) => [.codeLoadVerify (BitVec.ofNat 8 t) (BitVec.ofNat 7 k), .codeObjectEmpty (BitVec.ofNat 8 t) (BitVec.ofNat 7 k)]

/-- Placement and the queues of one partition. -/
def partEvents (part : Nat) : List Instr :=
  [.teamResume part, .teamAdmit part, .queueRecordTake part, .placementAging part, .preemptForRoom part]

/-- The events of the machine itself. -/
def State.candidates (s : State) : List Instr :=
  s.ops.flatMap Op.events ++ s.copies.flatMap State.copyEvents ++ s.allParties.flatMap s.partyEvents ++
    s.busyCores.flatMap s.coreEvents ++ s.teams.flatMap State.teamEvents ++ s.launches.flatMap State.launchEvents ++
    (s.tfs.flatMap fun (t, b) => State.tfEvents t b) ++ (upTo 4).flatMap partEvents ++
    (s.health.due ++ s.health.errors.map (·.1)).map Instr.unitRetirement ++
    (s.links.filter fun l => !l.2.missing.isEmpty).map (fun l => .replayRequestRepeat l.1) ++
    [.clockStepUp, .capIsolatedDanger, .partitionChangeComplete, .attestationComplete]

/-- What caches do when nothing else is left to do (R77, R78). -/
def State.lateCandidates (s : State) : List Instr :=
  (s.side.combine.map fun b => .combiningBufferTimeout b.core b.quad b.line) ++
    (s.side.l1.filter fun x => x.dirty != 0).map fun x => .l1TimedWriteback x.core x.sector

/-- An event occurs only where it may, and changes the state. -/
def State.occurs (s : State) (i : Instr) : Bool :=
  s.mayHappen i &&
    (match exec i s with
     | .next t => decide (t ≠ s)
     | _ => false)

def rotate {α : Type} (l : List α) (n : Nat) : List α := l.drop n ++ l.take n

/-- The next event of the machine itself, in turn. -/
def State.nextEvent (s : State) : Option Instr :=
  let cs := s.candidates
  (rotate cs (s.stamp / 2 % (cs.length + 1))).find? s.occurs

/-- What comes next: words and events in turn. The ticks come as time passes. -/
def State.choose (s : State) : Option Agenda :=
  if !s.health.ready then
    if s.health.fog.isNone then some (.event (.powerUpReset Config.powerUpReport)) else none
  else
    let issue := s.nextIssue.map Agenda.issue
    let ev := s.nextEvent.map Agenda.event
    match (if s.stamp % 2 = 0 then issue <|> ev else ev <|> issue) with
    | some a => some a
    | none => (s.lateCandidates.find? s.occurs).map Agenda.event

/-! ## Waiters without a token (R140) -/

/-- Every park of the machine. -/
def State.allParks (s : State) : List Park :=
  (s.allParties.filterMap fun p => match (s.partyOf p).wait with | .parked k => some k | _ => none) ++
    s.ops.filterMap (·.parked) ++ s.copies.filterMap (·.parked) ++ s.teams.filterMap (·.refill) ++
    s.launches.filterMap (·.parked) ++ (s.tfs.flatMap fun x => x.2.slots.filterMap (·.2.parked)) ++
    s.queues.filterMap (·.2.parked) ++ s.poolMap.filterMap (·.2.parked)

/-- The walk of a waiter without a token is tried again, with the waiter's own access: on a page that still misses it takes
the entry that has come free, and the record that it may owe names the entry that ended this walk (R140, R141); otherwise
the waiter goes on, and executes again. Where DP or EN has become 0 meanwhile, the spec does not say whether the waiter
counts as parked already or its retry as a walk begun afterwards (R143): it takes a token and stays parked, with no record
while EN = 0 (DESIGN CHOICE, log 147). -/
def State.retryPark (s : State) (k : Park) : State :=
  match translate k.tf k.core k.who k.record.va k.access s with
  | .error (.miss f) _ =>
    let (n, s) := s.joinToken { k with record := { k.record with entry := f.entry, level := f.level } }
    s.mapParks fun x => some (if x.order = k.order then n else x)
  | .ok _ t => t.wakeParks fun x => x.order == k.order
  | .error _ _ => s.wakeParks fun x => x.order == k.order

/-- The walkers with an entry free retry, in the order in which their waiters parked. -/
def State.retryParks (s : State) : State :=
  let ks := s.allParks.filter fun k => k.token == 0 && s.side.retry.contains k.sector
  (sortBy (fun (a b : Park) => decide (a.order ≤ b.order)) ks).foldl State.retryPark (s.mapSide fun m => { m with retry := [] })

/-! ## One step -/

/-- The records of parks are written after the cycle in which their tokens were issued (Table 05-2). -/
def State.writeOwed (s : State) : State :=
  s.side.owed.foldl (fun s x => s.addRecord x.1 x.2 none false) (s.mapSide fun m => { m with owed := [] })

/-- What every agent does before the next thing happens: waiting barriers look at their words, released slots abort what
is left on them, caches write back what is due, walkers retry, and words that nothing holds any more are ready. -/
def State.lookAround (s : State) : State :=
  let s := s.noteBarriers.abortReleased.writeDue.retryParks.noteBarriers
  s.teams.foldl (fun s t => s.unhold t.ctx) s

/-- What an entry of the agenda does. -/
def State.perform (s : State) : Agenda → Out
  | .event i => if s.mayHappen i then exec i { s with stamp := s.stamp + 1 } else .next s
  | .issue p => s.issueWord p

/-- Time before a step: one cycle, or the pace that the step draws, which may be none. -/
def State.passStep (s : State) : State :=
  let n := s.paces.headD 1
  let s := State.passTime (n / s.tickCycles + 1) n { s.noteReady with paces := s.paces.drop 1 }
  (if n = 0 then s else s.writeOwed).lookAround.noteReady

/-- Nothing happens in this cycle: a party that is ready goes on in the next one, else time passes to the next tick,
or the fog-signal state goes on. -/
def State.idle (s : State) : Out :=
  if !s.health.ready then .next s
  else if s.allParties.any fun p => s.readyWord p || s.pendingReady p then .next (s.passCycles 1)
  else exec .energyTick (s.passCycles (s.tickCycles - s.sinceTick))

/-- Time passes, and the head of the agenda happens, else the machine's own next. -/
def State.proceed (s : State) : Out :=
  let t := s.passStep
  match s.agenda with
  | a :: rest => State.perform { t with agenda := rest } a
  | [] =>
    match t.choose with
    | some a => t.perform a
    | none => t.idle

end Sys2Proof.Machine

end
end

