-- ==== Sys2Proof/Machine/Load.lean ====
section
/-!
DEFINITION. A word placed to issue next: a party of one group of one team, at that word of a clause, in a machine that
has powered up. It stands for what a launch does (R165 to R172).
-/

namespace Sys2Proof.Machine

/-- A clause of one word, of a class that takes the word; its header lies before the word (R204). -/
def wordClause (w : Word) : Clause :=
  let k : BitVec 3 := BitVec.ofNat 3 ((opClass (opOf w)).getD 0)
  { addr := 0, hdr := 1#4 ++ k ++ 0#12 ++ 0#4 ++ 1#4 ++ 0#5, words := [w], idx := 1, pre := none, mode := 0 }

/-- The party at the word. -/
def wordParty (w : Word) : Party := { Party.start 0 with clause := some (wordClause w), active := true }

/-- Its group: lanes 0 to 15, all registers of the budget 128, one hypervector and one bundle register. -/
def wordGroup (w : Word) : Group :=
  { Group.reset with main := wordParty w, budget := 128, m := (List.replicate 16 0).set 0 0xFFFF, h := [0], b := [[]] }

def wordTeam : Team := { Team.reset with state := .resident, nGroups := 1, acc := [AccTile.reset] }

/-- The code object that the word runs in: one verified page. -/
def wordSlot : CodeSlot :=
  { CodeSlot.reset with
    state := .ready
    object := some { mmrev := 1, codeOff := 0, codeSize := 65536, hashes := [], safe := [], roles := [], consts := [], verified := [0], hash := none } }

/-- The word stands to issue next. -/
def State.withWord (s : State) (w : Word) : State :=
  { s with
    health := { s.health with ready := true }
    tfs := put s.tfs 0 ((s.tf 0).mapSlot 0 fun _ => wordSlot)
    groups := [wordGroup w]
    teams := [wordTeam]
    agenda := [.issue { ctx := 0, grp := 0, frag := none }] }

end Sys2Proof.Machine
end

