-- ==== Sys2Proof/Machine/Step.lean ====
section
/-!
DEFINITION. One step of the machine: time passes, and the next thing happens.
The section is noncomputable for the reason that Sys2Proof/Decode.lean gives.
-/

noncomputable section

namespace Sys2Proof.Machine

/-- One step: a word issues, a clause starts, or an event occurs. -/
def step (s : State) : Host.Outcome State Fault Refusal := s.proceed

/-- The state in which the next step issues the given word. -/
def State.withFetchWord (s : State) (nbits w : Nat) : State :=
  if nbits = 32 then s.withWord (BitVec.ofNat 32 w) else s

end Sys2Proof.Machine

end
end

