-- ==== Sys2Proof/Safety.lean ====
section
/-!
DEFINITION. The terms in which claims are stated: canonical memories, what the issue of a word leaves alone, and the
results of the instructions as the spec's tables give them, written with integer and bit-vector arithmetic of their own.
-/

namespace Sys2Proof.Machine

/-! ## Safe states -/

/-- Home memory, and the bytes of every team's pool window, are in canonical form. -/
def State.MemWf (s : State) : Prop :=
  Memory.wf s.side.mem = true ∧ ∀ t ∈ s.teams, Memory.wf t.pool = true

/-- A group holds as many registers of each kind as the spec gives it: 32 scalar registers, 16 mask registers, 128
vector registers, 12 flags and 8 fragment entries. -/
def Group.Shape (g : Group) : Prop :=
  g.s.length = 32 ∧ g.m.length = 16 ∧ g.v.length = 128 ∧ g.flags.length = 12 ∧ g.frags.length = 8

/-- Every group of the state has that shape. -/
def State.Shape (s : State) : Prop := ∀ g ∈ s.groups, g.Shape

/-- What every step keeps. -/
def State.Inv (s : State) : Prop := s.MemWf ∧ s.Shape

/-! ## What the issue of a word leaves alone -/

/-- The state after a word whose own effect left `t`: its energy is charged, the issue counted, and the party goes on
to the next word of its clause or to the next header. -/
def State.issued (t : State) (e : Energy) : State := (t.charge e).stampIssue.advance

/-- The state after a word that traps and whose own effect left `t`: its energy is charged, the issue counted, and the
trap taken with its return point. -/
def State.trapWith (t : State) (e : Energy) (cause : Byte) (detail : Word) (addr lanes ret : DWord) : State :=
  ((t.charge e).stampIssue).takeTrap cause detail addr lanes ret

/-- A group without the places of its parties in their code. -/
def Group.bare (g : Group) : Group :=
  { g with main := Party.start 0, frags := g.frags.map fun f => { f with party := Party.start 0 } }

/-- A state without the places of parties in their code, the energy counters (R356), the cycles in which quadrants last
issued (R353) and the model's running count of events. What is left is every register, mask, flag, mode and special
register of every group, all memory, caches, pool windows, operations in flight, teams, launches, tables and devices. -/
def State.bare (s : State) : State :=
  { s with
    groups := s.groups.map Group.bare
    teams := s.teams.map fun t => { t with energy := 0 }
    quads := []
    stamp := 0 }

/-- Two groups hold the same registers and special registers, except as the arguments say: scalar registers `ss`, mask
registers `ms`, vector registers `vs` and FSTAT may differ. -/
def Group.sameBut (g h : Group) (ss ms vs : List Nat) (fstat : Bool) : Prop :=
  (∀ n, n ∉ ss → h.s.getD n 0 = g.s.getD n 0) ∧ (∀ n, n ∉ ms → h.m.getD n 0 = g.m.getD n 0) ∧
    (∀ n, n ∉ vs → h.v.getD n .zero = g.v.getD n .zero) ∧ (fstat = false → h.fstat = g.fstat) ∧
    h.mode = g.mode ∧ h.flags = g.flags ∧ h.tokens = g.tokens ∧ h.h = g.h ∧ h.b = g.b ∧ h.trap = g.trap ∧
    h.sq = g.sq ∧ h.handler = g.handler

/-- The issuing party is a live party of a group that exists and is not being ended. -/
def State.running (s : State) : Prop :=
  s.hasGroup s.cur.ctx s.cur.grp = true ∧ s.curGroup.live s.cur.frag = true ∧ s.curGroup.ending = false

/-! ## Scalar words (Table 09-5) -/

/-- The bits of a value that are one. -/
def onesIn {w : Nat} (x : BitVec w) : Nat := ((List.range w).filter fun i => x.getLsbD i).length

/-- Leading zeros: the bits above the highest one. -/
def zerosAbove {w : Nat} (x : BitVec w) : Nat :=
  ((List.range w).takeWhile fun i => !x.getLsbD (w - 1 - i)).length

/-- s(d) and its new value, for each scalar word. -/
def scalarTable (s : State) (ins : Instr) : Option (BitVec 5 × DWord) :=
  let x (a : BitVec 8) : DWord := s.selS a
  let bs (i : BitVec 1) (b : BitVec 8) : DWord := if i = 1 then b.signExtend 64 else s.selS b
  let bz (i : BitVec 1) (b : BitVec 8) : DWord := if i = 1 then b.setWidth 64 else s.selS b
  let sh (i : BitVec 1) (b : BitVec 8) : Nat := (bz i b).toNat % 64
  let len (y : DWord) : Nat := if (y.extractLsb' 8 6).toNat = 0 then 64 else (y.extractLsb' 8 6).toNat
  let k (y : DWord) : Nat := min (len y) (64 - (y.extractLsb' 0 6).toNat)
  let flag (p : Bool) : DWord := if p then 1 else 0
  match ins with
  | .sadd i d a b => some (d, BitVec.ofNat 64 ((x a).toNat + (bs i b).toNat))
  | .ssub i d a b => some (d, BitVec.ofInt 64 ((x a).toInt - (bs i b).toInt))
  | .smul i d a b => some (d, BitVec.ofNat 64 ((x a).toNat * (bs i b).toNat))
  | .smulh i d a b => some (d, ((x a).signExtend 128 * (bs i b).signExtend 128).extractLsb' 64 64)
  | .smulhU i d a b => some (d, ((x a).setWidth 128 * (bz i b).setWidth 128).extractLsb' 64 64)
  | .sdiv i d a b => some (d, if bs i b = 0 then -1 else (x a).sdiv (bs i b))
  | .sdivU i d a b => some (d, if bz i b = 0 then -1 else (x a).udiv (bz i b))
  | .srem i d a b => some (d, if bs i b = 0 then x a else x a - bs i b * (x a).sdiv (bs i b))
  | .sremU i d a b => some (d, if bz i b = 0 then x a else x a - bz i b * (x a).udiv (bz i b))
  | .sand i d a b => some (d, x a &&& bz i b)
  | .sor i d a b => some (d, x a ||| bz i b)
  | .sxor i d a b => some (d, x a ^^^ bz i b)
  | .sandn i d a b => some (d, x a &&& ~~~(bz i b))
  | .sshl i d a b => some (d, BitVec.ofNat 64 ((x a).toNat * 2 ^ sh i b))
  | .sshr i d a b => some (d, BitVec.ofNat 64 ((x a).toNat / 2 ^ sh i b))
  | .ssar i d a b => some (d, BitVec.ofInt 64 ((x a).toInt / 2 ^ sh i b))
  | .srot i d a b => some (d, x a <<< sh i b ||| x a >>> (64 - sh i b))
  | .smin i d a b => some (d, if (x a).slt (bs i b) then x a else bs i b)
  | .sminU i d a b => some (d, if x a < bz i b then x a else bz i b)
  | .smax i d a b => some (d, if (x a).slt (bs i b) then bs i b else x a)
  | .smaxU i d a b => some (d, if x a < bz i b then bz i b else x a)
  | .scmpEq i d a b => some (d, flag (decide (x a = bs i b)))
  | .scmpNe i d a b => some (d, flag (decide (x a ≠ bs i b)))
  | .scmpLt i d a b => some (d, flag ((x a).slt (bs i b)))
  | .scmpLe i d a b => some (d, flag ((x a).sle (bs i b)))
  | .scmpLtU i d a b => some (d, flag ((x a).ult (bz i b)))
  | .scmpLeU i d a b => some (d, flag ((x a).ule (bz i b)))
  | .ssel i d a b => some (d, if s.curGroup.s.getD d.toNat 0 ≠ 0 then x a else bs i b)
  | .smov i d b => some (d, bs i b)
  | .sli d a b => some (d, (x a <<< 8) ||| b.setWidth 64)
  | .spopc d a => some (d, BitVec.ofNat 64 (onesIn (x a)))
  | .sclz d a => some (d, BitVec.ofNat 64 (zerosAbove (x a)))
  | .sbfe i d a b =>
    let y := bz i b
    some (d, BitVec.ofNat 64 ((x a >>> (y.extractLsb' 0 6).toNat).toNat % 2 ^ k y))
  | .sbfeS i d a b =>
    let y := bz i b
    some (d, ((x a >>> (y.extractLsb' 0 6).toNat) <<< (64 - k y)).sshiftRight (64 - k y))
  | _ => none

/-! ## Mask words (Table 09-6) -/

/-- m(d) and the value written, before bits at and above W are discarded (R245). -/
def maskTable (s : State) (ins : Instr) : Option (BitVec 4 × DWord) :=
  let m (n : BitVec 4) : DWord := if n = 0 then s.curGroup.mask s.cur.frag else s.curGroup.m.getD n.toNat 0
  match ins with
  | .mand d a b => some (d, s.selS a &&& s.selS b)
  | .mor d a b => some (d, s.selS a ||| s.selS b)
  | .mxor d a b => some (d, s.selS a ^^^ s.selS b)
  | .mandn d a b => some (d, s.selS a &&& ~~~ s.selS b)
  | .mnot d a => some (d, ~~~ m a)
  | .mmov d a => some (d, m a)
  | .mfroms d a => some (d, s.selS a)
  | .mlane i d b =>
    let y : DWord := if i = 1 then b.setWidth 64 else s.selS b
    some (d, if y.toNat < s.curGroup.width then 1 <<< y.toNat else 0)
  | _ => none

/-- s(d) and its new value, for the mask words that write a scalar register. -/
def maskScalarTable (s : State) (ins : Instr) : Option (BitVec 5 × DWord) :=
  let m (n : BitVec 4) : DWord := if n = 0 then s.curGroup.mask s.cur.frag else s.curGroup.m.getD n.toNat 0
  match ins with
  | .mtos d a => some (d, m a)
  | .mpopc d a => some (d, BitVec.ofNat 64 (onesIn (m a)))
  | .mffs d a =>
    some (d, match (List.range 64).find? fun i => (m a).getLsbD i with
      | some i => BitVec.ofNat 64 i
      | none => 0xFFFFFFFFFFFFFFFF)
  | .mtest d a b => some (d, if m a &&& s.selS b = 0 then 0 else 1)
  | _ => none

/-! ## Vector words -/

/-- What the current word works on (R247). -/
def State.vecCtx (s : State) : VCtx :=
  let p := s.curPrefix.getD Prefix.absent
  { g := s.curGroup, who := s.cur.frag, consts := (s.launchOf s.cur.ctx).consts, act := s.active p.sel,
    z := p.zero == 1, pre := p, hasPre := s.curPrefix.isSome, mode := s.curMode }

/-- Registers named by a word lie below the budget (R164), and those it reads hold no poison (R65). -/
def VCtx.regsOk (c : VCtx) (named sources : List Nat) : Prop :=
  (∀ n ∈ named, n < c.g.budget) ∧ ∀ n ∈ sources, n ∉ c.g.vPoison

/-- A word's effect on one vector register: its destination, the registers it reads, and the value of each lane. -/
structure VEffect where
  dest  : Nat
  reads : List Nat
  lane  : Nat → Word

/-- `f` on the two halves of two lane values; on their four bytes. -/
def onHalves (f : BitVec 16 → BitVec 16 → BitVec 16) (x y : Word) : Word :=
  f (x.extractLsb' 16 16) (y.extractLsb' 16 16) ++ f (x.extractLsb' 0 16) (y.extractLsb' 0 16)

def onBytes (f : Byte → Byte → Byte) (x y : Word) : Word :=
  f (x.extractLsb' 24 8) (y.extractLsb' 24 8) ++ f (x.extractLsb' 16 8) (y.extractLsb' 16 8) ++
    f (x.extractLsb' 8 8) (y.extractLsb' 8 8) ++ f (x.extractLsb' 0 8) (y.extractLsb' 0 8)

/-- An immediate as a lane value: extended to the element width and used for every element (R248). -/
def immWord (sign : Bool) (w : Nat) (b : BitVec 8) : Word :=
  if w = 8 then b ++ b ++ b ++ b
  else if w = 16 then (if sign then b.signExtend 16 ++ b.signExtend 16 else b.setWidth 16 ++ b.setWidth 16)
  else if sign then b.signExtend 32 else b.setWidth 32

/-- Operand b in lane l. -/
def VCtx.opB (c : VCtx) (sign : Bool) (w : Nat) (i : BitVec 1) (b : BitVec 8) (l : Nat) : Word :=
  if i = 1 then immWord sign w b else c.sel b l

/-- A two-source word. -/
def VCtx.two (c : VCtx) (sign : Bool) (w : Nat) (i : BitVec 1) (d a : BitVec 7) (b : BitVec 8) (f : Word → Word → Word) :
    VEffect :=
  { dest := d.toNat, reads := a.toNat :: bRegs i b, lane := fun l => f (c.srcA a l) (c.opB sign w i b l) }

/-- A word of source a alone. -/
def VCtx.one (c : VCtx) (d a : BitVec 7) (f : Word → Word) : VEffect :=
  { dest := d.toNat, reads := [a.toNat], lane := fun l => f (c.srcA a l) }

/-- The integer words of Table 10-1 that compute on two sources or one, modulo the element width. -/
def vectorTable (c : VCtx) (ins : Instr) : Option VEffect :=
  let pos (y : Word) : Nat := (y.extractLsb' 0 5).toNat
  let len (y : Word) : Nat := if (y.extractLsb' 8 5).toNat = 0 then 32 else (y.extractLsb' 8 5).toNat
  let k (y : Word) : Nat := min (len y) (32 - pos y)
  match ins with
  | .vadd i d a b => some (c.two true 32 i d a b (· + ·))
  | .vaddI16 i d a b => some (c.two true 16 i d a b (onHalves (· + ·)))
  | .vaddI8 i d a b => some (c.two true 8 i d a b (onBytes (· + ·)))
  | .vsub i d a b => some (c.two true 32 i d a b (· - ·))
  | .vsubI16 i d a b => some (c.two true 16 i d a b (onHalves (· - ·)))
  | .vsubI8 i d a b => some (c.two true 8 i d a b (onBytes (· - ·)))
  | .vmullo i d a b => some (c.two true 32 i d a b (· * ·))
  | .vmulloI16 i d a b => some (c.two true 16 i d a b (onHalves (· * ·)))
  | .vmulloI8 i d a b => some (c.two true 8 i d a b (onBytes (· * ·)))
  | .vmulhi i d a b => some (c.two true 32 i d a b fun x y => (x.signExtend 64 * y.signExtend 64).extractLsb' 32 32)
  | .vmulhiU i d a b => some (c.two false 32 i d a b fun x y => (x.setWidth 64 * y.setWidth 64).extractLsb' 32 32)
  | .vmin i d a b => some (c.two true 32 i d a b fun x y => if x.slt y then x else y)
  | .vminI16 i d a b => some (c.two true 16 i d a b (onHalves fun x y => if x.slt y then x else y))
  | .vminI8 i d a b => some (c.two true 8 i d a b (onBytes fun x y => if x.slt y then x else y))
  | .vminU i d a b => some (c.two false 32 i d a b fun x y => if x < y then x else y)
  | .vminUI16 i d a b => some (c.two false 16 i d a b (onHalves fun x y => if x < y then x else y))
  | .vminUI8 i d a b => some (c.two false 8 i d a b (onBytes fun x y => if x < y then x else y))
  | .vmax i d a b => some (c.two true 32 i d a b fun x y => if x.slt y then y else x)
  | .vmaxI16 i d a b => some (c.two true 16 i d a b (onHalves fun x y => if x.slt y then y else x))
  | .vmaxI8 i d a b => some (c.two true 8 i d a b (onBytes fun x y => if x.slt y then y else x))
  | .vmaxU i d a b => some (c.two false 32 i d a b fun x y => if x < y then y else x)
  | .vmaxUI16 i d a b => some (c.two false 16 i d a b (onHalves fun x y => if x < y then y else x))
  | .vmaxUI8 i d a b => some (c.two false 8 i d a b (onBytes fun x y => if x < y then y else x))
  | .vabsd i d a b => some (c.two true 32 i d a b fun x y => BitVec.ofNat 32 (x.toInt - y.toInt).natAbs)
  | .vabsdU i d a b => some (c.two false 32 i d a b fun x y => if x < y then y - x else x - y)
  | .vand i d a b => some (c.two false 32 i d a b (· &&& ·))
  | .vor i d a b => some (c.two false 32 i d a b (· ||| ·))
  | .vxor i d a b => some (c.two false 32 i d a b (· ^^^ ·))
  | .vandn i d a b => some (c.two false 32 i d a b fun x y => x &&& ~~~ y)
  | .vshl i d a b => some (c.two false 32 i d a b fun x y => x <<< pos y)
  | .vshr i d a b => some (c.two false 32 i d a b fun x y => x >>> pos y)
  | .vsar i d a b => some (c.two false 32 i d a b fun x y => x.sshiftRight (pos y))
  | .vrot i d a b => some (c.two false 32 i d a b fun x y => x <<< pos y ||| x >>> (32 - pos y))
  | .vpopc d a => some (c.one d a fun x => BitVec.ofNat 32 (onesIn x))
  | .vclz d a => some (c.one d a fun x => BitVec.ofNat 32 (zerosAbove x))
  | .vbrev d a => some (c.one d a BitVec.reverse)
  | .vbfe i d a b => some (c.two false 32 i d a b fun x y => BitVec.ofNat 32 ((x >>> pos y).toNat % 2 ^ k y))
  | .vbfeS i d a b => some (c.two false 32 i d a b fun x y => ((x >>> pos y) <<< (32 - k y)).sshiftRight (32 - k y))
  | _ => none

/-- The words that read a fourth operand (R218): VMAD, VBFI and VSEL. -/
def VCtx.three (c : VCtx) (sign : Bool) (w : Nat) (i : BitVec 1) (d a : BitVec 7) (b : BitVec 8)
    (f : Word → Word → Word → Word) : VEffect :=
  { dest := d.toNat
    reads := a.toNat :: bRegs i b ++ (if c.hasPre then c.fourthRegs else [d.toNat])
    lane := fun l => f (c.srcA a l) (c.opB sign w i b l) (c.fourth d l) }

def fourthTable (c : VCtx) (ins : Instr) : Option VEffect :=
  let pos (y : Word) : Nat := (y.extractLsb' 0 5).toNat
  let len (y : Word) : Nat := if (y.extractLsb' 8 5).toNat = 0 then 32 else (y.extractLsb' 8 5).toNat
  let k (y : Word) : Nat := min (len y) (32 - pos y)
  match ins with
  | .vmad i d a b => some (c.three true 32 i d a b fun x y z => x * y + z)
  | .vmadI16 i d a b => some (c.three true 16 i d a b fun x y z => onHalves (· + ·) (onHalves (· * ·) x y) z)
  | .vmadI8 i d a b => some (c.three true 8 i d a b fun x y z => onBytes (· + ·) (onBytes (· * ·) x y) z)
  | .vbfi i d a b =>
    some (c.three false 32 i d a b fun x y z =>
      let m : Word := (BitVec.ofNat 32 (2 ^ k y) - 1) <<< pos y
      (z &&& ~~~ m) ||| ((x <<< pos y) &&& m))
  | .vsel i d a b => some (c.three true 32 i d a b fun x y z => if z ≠ 0 then x else y)
  | _ => none

/-- The saturating words (R185): whether elements are signed, whether they are subtracted, and their width. -/
def satTable (ins : Instr) : Option (Bool × Bool × Nat × BitVec 1 × BitVec 7 × BitVec 7 × BitVec 8) :=
  match ins with
  | .vaddsat i d a b => some (true, false, 32, i, d, a, b)
  | .vaddsatI16 i d a b => some (true, false, 16, i, d, a, b)
  | .vaddsatI8 i d a b => some (true, false, 8, i, d, a, b)
  | .vaddsatU8 i d a b => some (false, false, 8, i, d, a, b)
  | .vsubsat i d a b => some (true, true, 32, i, d, a, b)
  | .vsubsatI16 i d a b => some (true, true, 16, i, d, a, b)
  | .vsubsatI8 i d a b => some (true, true, 8, i, d, a, b)
  | .vsubsatU8 i d a b => some (false, true, 8, i, d, a, b)
  | _ => none

/-- Element j of `w` bits of a lane value, as a number. -/
def elemOf (signed : Bool) (w : Nat) (x : Word) (j : Nat) : Int :=
  if signed then (x.extractLsb' (w * j) w).toInt else ((x.extractLsb' (w * j) w).toNat : Int)

/-- The exact sum or difference of elements j, and the greatest and least value of an element. -/
def satExact (signed sub : Bool) (w : Nat) (x y : Word) (j : Nat) : Int :=
  if sub then elemOf signed w x j - elemOf signed w y j else elemOf signed w x j + elemOf signed w y j

def satTop (signed : Bool) (w : Nat) : Int := if signed then 2 ^ (w - 1) - 1 else 2 ^ w - 1
def satLow (signed : Bool) (w : Nat) : Int := if signed then -(2 ^ (w - 1)) else 0

/-- VMOV, and the cross-lane words that write vd from va (Table 10-3). -/
def moveTable (c : VCtx) (ins : Instr) : Option VEffect :=
  let one (i : BitVec 1) (b : BitVec 8) : Nat := if i = 1 then b.toNat else (c.sel b 0).toNat
  match ins with
  | .vmov i d b => some { dest := d.toNat, reads := bRegs i b, lane := c.opB true 32 i b }
  | .vperm d a b =>
    some { dest := d.toNat, reads := a.toNat :: selRegs b, lane := fun l => c.srcA a ((c.sel b l).toNat % c.g.width) }
  | .vbcast i d a b => some { dest := d.toNat, reads := [a.toNat], lane := fun _ => c.srcA a (one i b % c.g.width) }
  | .vlshiftUp i d a b =>
    some { dest := d.toNat, reads := [a.toNat], lane := fun l => if l < one i b then 0 else c.srcA a (l - one i b) }
  | .vlshiftDn i d a b =>
    some { dest := d.toNat, reads := [a.toNat]
           lane := fun l => if c.g.width ≤ l + one i b then 0 else c.srcA a (l + one i b) }
  | _ => none

/-- Whether the permutation of a prefix may stand on the word (R219). -/
def permAllowed (ins : Instr) : Bool :=
  match ins with
  | .vmov .. | .vdead .. | .vins .. => false
  | _ => true

/-! ## Packing and sign words (R257, R261) -/

/-- Bits of an element of a format code, and whether VUNPK sign-extends it (Table 08-13, R261). -/
def packWidth (f : BitVec 4) : Nat := if f = 5 ∨ f = 9 then 4 else if f = 1 ∨ f = 2 then 16 else 8
def packSigned (f : BitVec 4) : Bool := f == 8 || f == 9

/-- The class of an FP32 value from its sign, exponent and fraction (R257). -/
def classOf (x : Word) : Nat :=
  let neg := x.getLsbD 31
  let e := (x.extractLsb' 23 8).toNat
  let m := (x.extractLsb' 0 23).toNat
  if e = 255 then (if m = 0 then (if neg then 0 else 7) else if x.getLsbD 22 then 9 else 8)
  else if e = 0 then (if m = 0 then (if neg then 3 else 4) else if neg then 2 else 5)
  else if neg then 1 else 6

/-- VFSGN, VFCLASS and VUNPK, with their energy class. -/
def bitTable (c : VCtx) (ins : Instr) : Option (Nat × VEffect) :=
  let sgn (s : BitVec 1) (x : Word) : Word := s ++ x.extractLsb' 0 31
  match ins with
  | .vfsgn d a b => some (2, c.two false 32 0 d a b fun x y => sgn (y.extractLsb' 31 1) x)
  | .vfsgnN d a b => some (2, c.two false 32 0 d a b fun x y => sgn (~~~ y.extractLsb' 31 1) x)
  | .vfsgnX d a b => some (2, c.two false 32 0 d a b fun x y => sgn (x.extractLsb' 31 1 ^^^ y.extractLsb' 31 1) x)
  | .vfclass d a => some (2, c.one d a fun x => 1 <<< classOf x)
  | .vunpk g d a f =>
    let w := packWidth f
    let one (x : Word) (j k : Nat) : Word :=
      if packSigned f then (x.extractLsb' (w * j) w).signExtend k |>.setWidth 32 else (x.extractLsb' (w * j) w).setWidth 32
    some (1, c.one d a fun x =>
      if w = 4 then (one x (2 * g.toNat + 1) 16) <<< 16 ||| one x (2 * g.toNat) 16 else one x g.toNat 32)
  | .vpack g d a f =>
    let w := packWidth f
    let ins (old v : Word) (w j : Nat) : Word :=
      let m : Word := BitVec.ofNat 32 (2 ^ w - 1)
      (old &&& ~~~ (m <<< (w * j))) ||| ((v &&& m) <<< (w * j))
    some (1, { dest := d.toNat, reads := [d.toNat, a.toNat]
               lane := fun l =>
                 let x := c.srcA a l
                 let old := c.g.lane d.toNat l
                 if w = 4 then ins (ins old x 4 (2 * g.toNat)) (x >>> 16) 4 (2 * g.toNat + 1)
                 else ins old x w g.toNat })
  | _ => none

/-! ## Floating-point words (R256, R259, R262) -/

/-- A floating-point word: its destination, the registers it reads, its energy class, whether it rounds by the effective
mode, the width of its results, and each element's result with its flags. -/
structure FEffect where
  dest   : Nat
  reads  : List Nat
  energy : Nat
  rounds : Bool
  width  : Nat
  elem   : Nat → Nat → FRes

/-- Element j of a lane value as a source of FP32, FP16 or BF16, decoded under DAZ (R192). -/
def VCtx.fval (c : VCtx) (f : Fmt) (x : Word) (j : Nat) : FVal :=
  f.decode (modeDaz c.mode && (f == .fp32 || f == .fp16 || f == .bf16)) (x.toNat / 2 ^ (f.width * j) % 2 ^ f.width)

def fpTable (s : State) (ins : Instr) : Option FEffect :=
  let c := s.vecCtx
  let two (f : Fmt) (rounds : Bool) (op : FEnv → FVal → FVal → FRes) (e : Nat) (d a : BitVec 7) (b : BitVec 8) : FEffect :=
    { dest := d.toNat, reads := a.toNat :: selRegs b, energy := e, rounds := rounds, width := f.width
      elem := fun l j => op (s.fenv c f l j) (c.fval f (c.srcA a l) j) (c.fval f (c.sel b l) j) }
  let one (f : Fmt) (rounds : Bool) (op : FEnv → FVal → FRes) (e : Nat) (d a : BitVec 7) : FEffect :=
    { dest := d.toNat, reads := [a.toNat], energy := e, rounds := rounds, width := f.width
      elem := fun l j => op (s.fenv c f l j) (c.fval f (c.srcA a l) j) }
  let deq (f : Fmt) (d a : BitVec 7) : FEffect :=
    { dest := d.toNat, reads := [a.toNat], energy := 2, rounds := true, width := 32
      elem := fun l _ => dequant f (s.fenv c .fp32 l 0) (c.srcA a l) }
  match ins with
  | .vfadd d a b => some (two .fp32 true (fAdd .fp32) 2 d a b)
  | .vfaddF16 d a b => some (two .fp16 true (fAdd .fp16) 2 d a b)
  | .vfaddBf16 d a b => some (two .bf16 true (fAdd .bf16) 2 d a b)
  | .vfsub d a b => some (two .fp32 true (fun v x y => fAdd .fp32 v x y.negate) 2 d a b)
  | .vfsubF16 d a b => some (two .fp16 true (fun v x y => fAdd .fp16 v x y.negate) 2 d a b)
  | .vfsubBf16 d a b => some (two .bf16 true (fun v x y => fAdd .bf16 v x y.negate) 2 d a b)
  | .vfmul d a b => some (two .fp32 true (fMul .fp32) 2 d a b)
  | .vfmulF16 d a b => some (two .fp16 true (fMul .fp16) 2 d a b)
  | .vfmulBf16 d a b => some (two .bf16 true (fMul .bf16) 2 d a b)
  | .vfmin d a b => some (two .fp32 false (fun _ => fMinMax .fp32 false) 2 d a b)
  | .vfminF16 d a b => some (two .fp16 false (fun _ => fMinMax .fp16 false) 2 d a b)
  | .vfminBf16 d a b => some (two .bf16 false (fun _ => fMinMax .bf16 false) 2 d a b)
  | .vfmax d a b => some (two .fp32 false (fun _ => fMinMax .fp32 true) 2 d a b)
  | .vfmaxF16 d a b => some (two .fp16 false (fun _ => fMinMax .fp16 true) 2 d a b)
  | .vfmaxBf16 d a b => some (two .bf16 false (fun _ => fMinMax .bf16 true) 2 d a b)
  | .vfdiv d a b => some (two .fp32 true (fDiv .fp32) 3 d a b)
  | .vfsqrt d a => some (one .fp32 true (fSqrt .fp32) 3 d a)
  | .vfrcp d a => some (one .fp32 false fRcp 3 d a)
  | .vfrsq d a => some (one .fp32 false fRsq 3 d a)
  | .vfexp2 d a => some (one .fp32 false fExp2 3 d a)
  | .vflog2 d a => some (one .fp32 false fLog2 3 d a)
  | .vfsin d a => some (one .fp32 false (fTrig false) 3 d a)
  | .vfcos d a => some (one .fp32 false (fTrig true) 3 d a)
  | .vfrnd d a => some (one .fp32 true (fRnd .fp32) 2 d a)
  | .vfrndF16 d a => some (one .fp16 true (fRnd .fp16) 2 d a)
  | .vfrndBf16 d a => some (one .bf16 true (fRnd .bf16) 2 d a)
  | .vdeqE4m3 d a => some (deq .e4m3 d a)
  | .vdeqE5m2 d a => some (deq .e5m2 d a)
  | .vdeqE2m1 d a => some (deq .e2m1 d a)
  | _ => none

/-- VFMA in a format, with its fourth operand. -/
def fmaTable (s : State) (ins : Instr) : Option FEffect :=
  let c := s.vecCtx
  let fma (f : Fmt) (d a : BitVec 7) (b : BitVec 8) : FEffect :=
    { dest := d.toNat, reads := a.toNat :: selRegs b ++ (if c.hasPre then c.fourthRegs else [d.toNat]), energy := 2
      rounds := true, width := f.width
      elem := fun l j =>
        fFma f (s.fenv c f l j) (c.fval f (c.srcA a l) j) (c.fval f (c.sel b l) j) (c.fval f (c.fourth d l) j) }
  match ins with
  | .vfma d a b => some (fma .fp32 d a b)
  | .vfmaF16 d a b => some (fma .fp16 d a b)
  | .vfmaBf16 d a b => some (fma .bf16 d a b)
  | _ => none

/-- The flags of all elements of a lane, and of all active lanes. -/
def FEffect.laneFlags (e : FEffect) (l : Nat) : Nat :=
  (List.range (32 / e.width)).foldl (fun f j => f ||| (e.elem l j).flags) 0

def FEffect.flags (e : FEffect) (c : VCtx) : Nat := c.lanes.foldl (fun f l => f ||| e.laneFlags l) 0

/-- A lane's elements side by side, element 0 lowest. -/
def FEffect.word (e : FEffect) (l : Nat) : Word :=
  BitVec.ofNat 32 (((List.range (32 / e.width)).map fun j => (e.elem l j).bits % 2 ^ e.width * 2 ^ (e.width * j)).sum)

/-- The vector words without memory accesses: energy class, the vector registers that a word names, in the order in which
REGBOUND looks at them, and those that it reads whatever its lanes hold. -/
def vectorRegs (s : State) (ins : Instr) : Option (Nat × List Nat × List Nat) :=
  let c := s.vecCtx
  match (vectorTable c ins <|> moveTable c ins <|> fourthTable c ins).map (fun e => (1, e)) <|> bitTable c ins with
  | some (n, e) => some (n, e.dest :: e.reads, e.reads)
  | none =>
    match fpTable s ins <|> fmaTable s ins with
    | some e => some (e.energy, e.dest :: e.reads, e.reads)
    | none =>
      match ins with
      | .vcmp k _ _ a b => some (1, a.toNat :: bRegs k b, a.toNat :: bRegs k b)
      | .vfcmp _ _ a b => some (2, a.toNat :: selRegs b, a.toNat :: selRegs b)
      | .vrdx k d a b => some (1, d.toNat :: a.toNat :: bRegs k b, a.toNat :: bRegs k b)
      | .vwrx k d a b => some (1, d.toNat :: a.toNat :: bRegs k b, d.toNat :: a.toNat :: bRegs k b)
      | .vdead d n => some (1, (List.range (n.toNat + 1)).map (d.toNat + ·), [])
      | .vcvt _ d a t q =>
        some (2, [d.toNat, a.toNat], if (numFmt t.toNat).width < (numFmt q.toNat).width then [d.toNat, a.toNat] else [a.toNat])
      | .vquantE4m3 d a | .vquantE5m2 d a | .vquantE2m1 d a =>
        some (if c.g.width = 16 then (2, [d.toNat, d.toNat + 1, a.toNat, a.toNat + 1], [a.toNat, a.toNat + 1])
              else (2, [d.toNat, a.toNat], [a.toNat]))
      | .vred d a _ | .vscan d a _ | .vscanEx d a _ => some (1, [d.toNat, a.toNat], [a.toNat])
      | .vredScalar _ a _ | .vredmiScalar _ a | .vballot _ a | .vextr _ _ a _ => some (1, [a.toNat], [a.toNat])
      | .vredmi d a => some (1, [d.toNat, d.toNat + 1, a.toNat], [a.toNat])
      | .vins k d _ b => some (1, d.toNat :: bRegs k b, bRegs k b)
      | i => (satTable i).map fun (_, _, _, k, d, a, b) => (1, d.toNat :: a.toNat :: bRegs k b, a.toNat :: bRegs k b)

/-- What a vector word's own operands forbid: a fourth operand that is no selector (R218), Z on VINS (R263), and a pair of
registers that would begin at v127 on VQUANT in width 16 (R262). -/
def badOperand (c : VCtx) (ins : Instr) : Bool :=
  match ins with
  | .vmad .. | .vmadI16 .. | .vmadI8 .. | .vbfi .. | .vsel .. | .vfma .. | .vfmaF16 .. | .vfmaBf16 .. =>
    c.hasPre && !selOkV c.pre.fourth
  | .vins .. => c.z
  | .vquantE4m3 d a | .vquantE5m2 d a | .vquantE2m1 d a => c.g.width == 16 && (d == 127 || a == 127)
  | _ => false

/-- A vector word may not stand as it does (R219): rounding code 111; a reserved permutation, an amount where none stands, or
a permutation where the word takes none; or its own operands. -/
def badForm (c : VCtx) (ins : Instr) : Prop :=
  c.pre.rnd = 7 ∨ 4 < c.pre.kind.toNat ∨ (c.pre.amount ≠ 0 ∧ (c.pre.kind = 0 ∨ c.pre.kind = 4)) ∨
  (permAllowed ins = false ∧ c.pre.kind ≠ 0) ∨ badOperand c ins = true

/-- FSTAT after a floating-point word (R190, R191): its flags are ORed in, and RSEQ rises by 1 modulo 2^24 when the word
rounds by RSTOCH with an active lane. -/
def fstatAfter (c : VCtx) (rounds : Bool) (flags : Nat) (fstat : Word) : Word :=
  let f := fstat ||| BitVec.ofNat 32 (flags % 128)
  if rounds = true ∧ c.rm = 6 ∧ c.act ≠ 0 then (f.extractLsb' 8 24 + 1) ++ f.extractLsb' 0 8 else f

/-! ## Control words (R231 to R239) -/

/-- A target that R232 accepts: a word address inside the party's code section. -/
def State.inCode (s : State) (a : DWord) : Prop :=
  a.toNat % 4 = 0 ∧ (a - s.codeStart s.cur.ctx).toNat < s.codeSize s.cur.ctx

/-- A: the byte address of the current word, the word `idx` of a clause whose header stands at `addr`. -/
def State.here (s : State) : DWord :=
  match s.curParty.clause with
  | some c => c.addr + 4 * BitVec.ofNat 64 c.idx
  | none => s.curParty.pc

/-- What a transfer does to registers, and where it goes: none when it is not taken (R233). -/
def transferTable (s : State) (ins : Instr) : Option (State × Option DWord) :=
  let g := s.curGroup
  let rel (o : BitVec 21) : DWord := s.here + 4 * o.signExtend 64
  let r (n : Nat) : DWord := g.s.getD n 0
  let m (n : BitVec 3) : DWord := if n = 0 then g.mask s.cur.frag else g.m.getD n.toNat 0 &&& g.mask s.cur.frag
  match ins with
  | .bra o => some (s, some (rel o))
  | .brc n o => some (s, if r n.toNat ≠ 0 then some (rel o) else none)
  | .brmAny n o => some (s, if m n ≠ 0 then some (rel o) else none)
  | .brmNone n o => some (s, if m n = 0 then some (rel o) else none)
  | .jmpi n => some (s, some (r n.toNat))
  | .call o => some (s.writeS 31 (s.here + 4), some (rel o))
  | .calli n => some (s.writeS 31 (s.here + 4), some (r n.toNat))
  | .ret => some (s, some (r 31))
  | .loop n o => some (s.writeS n.toNat (r n.toNat - 1), if r n.toNat - 1 ≠ 0 then some (rel o) else none)
  | _ => none

/-- A scalar word's energy (Table 15-3 class 0). -/
def plainEnergy : Energy := ⟨0, false⟩

/-- The state after a transfer of a party that goes to `x`, or on to the next word. -/
def State.goesTo (t : State) (p : PartyRef) (x : Option DWord) : State :=
  match x with
  | none => t.issued plainEnergy
  | some a => ((t.charge plainEnergy).stampIssue).endClause p a

/-- The lanes that a party may never take by a write to m0: those of the other live parties, and those of its serial
records (R245). -/
def State.m0Value (s : State) (rs : List SerialRec) (v : DWord) : DWord :=
  rs.foldl (fun v r => v &&& ~~~ r.pmask) (v &&& onesBelow s.curGroup.width &&& ~~~ s.curGroup.otherLanes s.cur.frag)

/-! ## Words that write masks, and reductions -/

/-- `out` is what a word leaves that writes the value `v` to m(n) in the state `t`, where its other effects have been
made: bits at and above W are dropped, and m0 is the party's own mask under R245. -/
def State.WritesMask (t : State) (out : Out) (n : BitVec 4) (v : DWord) (e : Energy) : Prop :=
  (n ≠ 0 → out = .next ((t.mapCur fun g => { g with m := g.m.set n.toNat (v &&& onesBelow g.width) }).issued e)) ∧
  (n = 0 → ∀ rs u, ownSerials t = .ok rs u → out = .next ((u.mapCur fun g => g.setMask u.cur.frag (t.m0Value rs v)).issued e))

/-- The mask that an active set gives with a condition (R253): an inactive lane keeps its bit, or loses it under Z =
1. -/
def VCtx.maskBit (c : VCtx) (m : BitVec 4) (f : Nat → Bool) (l : Nat) : Bool :=
  decide (l < c.g.width) &&
    (if c.act.getLsbD l then f l
     else !c.z && (if m = 0 then c.g.mask c.who else c.g.m.getD m.toNat 0).getLsbD l)

/-- VCMP's conditions (Table 08-14). -/
def compareHolds (code : BitVec 3) (x y : Word) : Bool :=
  if code = 0 then decide (x = y) else if code = 1 then decide (x ≠ y) else if code = 2 then x.slt y
  else if code = 3 then x.sle y else if code = 4 then x.ult y else x.ule y

/-- VFCMP's conditions on numbers and NaNs. -/
def fcompareHolds (code : BitVec 3) (x y : FVal) : Bool :=
  let eq := fEq x y
  let lt := !x.isNan && !y.isNan && !eq && fLess x y
  if code = 0 then eq else if code = 1 then !eq else if code = 2 then lt else if code = 3 then lt || eq
  else if code = 4 then x.isNan || y.isNan else !(x.isNan || y.isNan)

/-- IV of VFCMP: any NaN for LT and LE, a signalling one for the others (R258). -/
def fcompareFlags (code : BitVec 3) (x y : FVal) : Nat :=
  if (if code = 2 ∨ code = 3 then x.isNan || y.isNan else x.isSnan || y.isSnan) then 1 else 0

/-- The fold of a reduction over some lanes in order, from the first lane's value; none for no lane (R264). -/
def foldOver (s : State) (c : VCtx) (code : Nat) (a : BitVec 7) (ls : List Nat) : Option Word :=
  match ls with
  | [] => none
  | l :: rest => some (rest.foldl (fun acc k => (redStep s c code k acc (c.srcA a k)).1) (c.srcA a l))

/-- The flags of the whole fold. -/
def foldFlags (s : State) (c : VCtx) (code : Nat) (a : BitVec 7) : Nat :=
  match c.lanes with
  | [] => 0
  | l :: rest =>
    (rest.foldl (fun (x : Word × Nat) k =>
      ((redStep s c code k x.1 (c.srcA a k)).1, x.2 ||| (redStep s c code k x.1 (c.srcA a k)).2)) (c.srcA a l, 0)).2

/-- The identity of a reduction code (R264). -/
def foldIdentity (code : Nat) : Word :=
  if code = 1 then 0x7FFFFFFF else if code = 2 then 0x80000000 else if code = 3 ∨ code = 5 then 0xFFFFFFFF
  else if code = 8 then 0x80000000 else if code = 9 then 0x7F800000 else if code = 10 then 0xFF800000 else 0

/-- The state with FSTAT as a floating-point word leaves it. -/
def State.withFlags (s : State) (rounds : Bool) (flags : Nat) : State :=
  s.mapCur fun g => { g with fstat := fstatAfter s.vecCtx rounds flags g.fstat }

/-- No exception that MODE enables is among the flags (R201). -/
def State.quiet (s : State) (flags : Nat) : Prop := flags &&& (s.curMode.extractLsb' 7 5).toNat = 0

/-- Lane l of the index that VRDX and VWRX form (R254). -/
def VCtx.indexAt (c : VCtx) (i : BitVec 1) (a : BitVec 7) (b : BitVec 8) (l : Nat) : Nat :=
  (c.srcA a l + c.opB false 32 i b l).toNat

/-- What R247 writes into a lane of a destination: its value where the lane is active, zero elsewhere under Z = 1. -/
def VCtx.into (c : VCtx) (f : Nat → Word) (l : Nat) : Option Word :=
  if c.act.getLsbD l then some (f l) else if c.z then some 0 else none

/-- A run of registers written so: `f l j` is lane l of its register j. -/
def State.withRun (t : State) (c : VCtx) (d n : Nat) (f : Nat → Nat → Word) : State :=
  (List.range n).foldl (fun t j => t.mapCur fun g => g.writeLanes (d + j) (c.into fun l => f l j)) t

/-! ## Operations under a flag (R210) -/

/-- The flag that the word chooses, if it chooses one, can count one more. -/
def State.flagRoom (s : State) (f : BitVec 1) : Prop := ∀ n, s.flagOf f = some n → s.curGroup.flags.getD n 0 < 63

/-- The flag counts one more. -/
def State.counted (s : State) (f : BitVec 1) : State :=
  match s.flagOf f with
  | some n => s.mapCur fun g => { g with flags := modifyAt g.flags n (· + 1) }
  | none => s

/-- An operation is under way, counted on its flag, with the registers that it has still to read and to write (R211). -/
def State.opUnder (s : State) (f : BitVec 1) (k : OpKind) : State :=
  let t := s.counted f
  t.addOp s.cur.ctx s.cur.grp (s.flagOf f) k t.curRegs

/-- A memory word's operation; the word of a party with no active lane counts and completes at once (R267). -/
def State.memOp (s : State) (f : BitVec 1) (k : OpKind) (empty : Bool) : State :=
  if empty then (s.counted f).dropFlag s.cur.ctx s.cur.grp (s.flagOf f) else s.opUnder f k

/-! ## Memory words (R221, R267 to R274) -/

/-- What the prefix of a memory word asks for (Table 08-11), and its non-temporal hint. -/
def VCtx.memForm (c : VCtx) (nt : BitVec 1) : MemForm :=
  let x := c.pre.fourth
  if c.hasPre then
    { ord := (x.extractLsb' 6 2).toNat, scope := (x.extractLsb' 3 3).toNat, w16 := x.getLsbD 2, sx := x.getLsbD 1, free := false
      nt := decide (nt = 1) }
  else { ord := 0, scope := 4, w16 := false, sx := false, free := false, nt := decide (nt = 1) }

/-- The prefix may stand on the word: no permutation, no reserved bit, an ordering that the word accepts (Table 04-3), a
scope of Table 04-1, W16 and SX only where the size allows them, and no mask select or Z on LDS and STS. -/
def VCtx.memOk (c : VCtx) (k : MemKind) (wide ext party : Bool) : Prop :=
  prefixOk false c.pre = true ∧ (c.hasPre = true → c.pre.fourth.getLsbD 0 = false) ∧
    (party = true → c.pre.sel = 0 ∧ c.pre.zero = 0) ∧ ordOk k (c.memForm 0).ord = true ∧ (c.memForm 0).scope ≤ 5 ∧
    ((c.memForm 0).w16 = true → wide = true) ∧ ((c.memForm 0).sx = true → ext = true)

/-- The form that the word runs under: strengthened for MM1 (R121). -/
def State.formOf (s : State) (k : MemKind) (sp : Space) (nt : BitVec 1) : MemForm :=
  if s.mm1 s.cur.ctx then (s.vecCtx.memForm nt).strengthen k sp else s.vecCtx.memForm nt

/-- The address of a lane (R217), and the active lanes with theirs. -/
def State.laneAt (s : State) (b : BitVec 5) (o : BitVec 7) (k : Nat) (l : Nat) : DWord :=
  s.curGroup.s.getD b.toNat 0 + (s.curGroup.lane o.toNat l).signExtend 64 <<< k

def State.lanesAt (s : State) (b : BitVec 5) (o : BitVec 7) (k : Nat) : List (Nat × DWord) :=
  s.vecCtx.lanes.map fun l => (l, s.laneAt b o k l)

/-- Bytes of a memory word and registers of its run (Table 11-1). -/
def memBytes (z : BitVec 2) (w16 : Bool) : Nat := if w16 then 16 else 2 ^ z.toNat
def memRegs (z : BitVec 2) (w16 : Bool) : Nat := if w16 then 4 else if z = 3 then 2 else 1

/-- Up to four bytes as a lane word, little-endian. -/
def le32 (bs : List Byte) : Word := bs.foldr (fun b x => x <<< 8 ||| b.setWidth 32) 0

/-- Up to eight bytes as a scalar, little-endian. -/
def le64 (bs : List Byte) : DWord := bs.foldr (fun b x => x <<< 8 ||| b.setWidth 64) 0

/-- Register j of the run that loaded bytes give: extended from the loaded width where they are fewer than four. -/
def loadedLane (sx : Bool) (bs : List Byte) (j : Nat) : Word :=
  if bs.length < 4 then
    if j = 0 then (if sx then (le32 bs <<< (32 - 8 * bs.length)).sshiftRight (32 - 8 * bs.length) else le32 bs) else 0
  else if j < bs.length / 4 then le32 ((bs.drop (4 * j)).take 4) else 0

/-- The bytes that a lane of a run of registers stores, little-endian, register after register. -/
def State.storedBytes (s : State) (d regs n : Nat) (l : Nat) : List Byte :=
  ((List.range regs).flatMap fun j => (List.range 4).map fun i => (s.curGroup.lane (d + j) l).extractLsb' (8 * i) 8).take n

/-- The accesses of a store in the space of the word: the operation that they start. -/
def storeTo (sp : Space) (m : MemForm) (n : Nat) (lanes : List (Nat × DWord)) (data : Nat → List Byte) : M OpKind := do
  match sp with
  | .tenant => tenantStore m n lanes data
  | _ => do
    poolStore m n lanes data
    pure (.store none false)

/-- The accesses of an atomic in the space of the word. -/
def atomicOn (sp : Space) (m : MemForm) (code n : Nat) (lanes : List (Nat × DWord)) (ops : Nat → List Nat)
    (f : Nat → Nat → Option Nat) : M (List (Nat × Nat)) :=
  match sp with
  | .pool => poolAtomic m n lanes f
  | _ => tenantAtomic m code n lanes ops f

/-- What PURITY does before any other check (R345, R346), for a store and for an atomic of the space. -/
def storePure (sp : Space) (n : Nat) (lanes : List (Nat × DWord)) : M Unit := do
  match sp with
  | .tenant => pureLanes ((← get).badTenant true n lanes)
  | _ => pure ()

def atomicPure (sp : Space) (lanes : List (Nat × DWord)) : M Unit :=
  match sp with
  | .tenant => atomPure lanes
  | _ => pure ()

/-- The operand of an atomic in lane l: one register, or two. -/
def State.atomSource (s : State) (d regs l : Nat) : Nat :=
  (s.curGroup.lane d l).toNat + (if regs = 2 then (s.curGroup.lane (d + 1) l).toNat * 2 ^ 32 else 0)

/-- The operations of Table 08-9 on words of some width; code 9 is not among them. -/
def atomOn {w : Nat} (code : Nat) (old x : BitVec w) : BitVec w :=
  if code = 0 then old + x else if code = 1 then x else if code = 2 then old &&& x else if code = 3 then old ||| x
  else if code = 4 then old ^^^ x else if code = 5 then (if x.slt old then x else old)
  else if code = 6 then (if old.slt x then x else old) else if code = 7 then (if x.ult old then x else old)
  else if old.ult x then x else old

/-- The atomic words: their space and code, whether they take 8 bytes, the flag bit and their registers. -/
def atomTable (ins : Instr) : Option (Space × Nat × BitVec 1 × BitVec 1 × BitVec 7 × BitVec 7 × BitVec 5) :=
  match ins with
  | .atomAdd f w d o b => some (.tenant, 0, w, f, d, o, b)
  | .atomExch f w d o b => some (.tenant, 1, w, f, d, o, b)
  | .atomAnd f w d o b => some (.tenant, 2, w, f, d, o, b)
  | .atomOr f w d o b => some (.tenant, 3, w, f, d, o, b)
  | .atomXor f w d o b => some (.tenant, 4, w, f, d, o, b)
  | .atomMin f w d o b => some (.tenant, 5, w, f, d, o, b)
  | .atomMax f w d o b => some (.tenant, 6, w, f, d, o, b)
  | .atomMinU f w d o b => some (.tenant, 7, w, f, d, o, b)
  | .atomMaxU f w d o b => some (.tenant, 8, w, f, d, o, b)
  | .atomFadd f d o b => some (.tenant, 9, 0, f, d, o, b)
  | .atompAdd f w d o b => some (.pool, 0, w, f, d, o, b)
  | .atompExch f w d o b => some (.pool, 1, w, f, d, o, b)
  | .atompAnd f w d o b => some (.pool, 2, w, f, d, o, b)
  | .atompOr f w d o b => some (.pool, 3, w, f, d, o, b)
  | .atompXor f w d o b => some (.pool, 4, w, f, d, o, b)
  | .atompMin f w d o b => some (.pool, 5, w, f, d, o, b)
  | .atompMax f w d o b => some (.pool, 6, w, f, d, o, b)
  | .atompMinU f w d o b => some (.pool, 7, w, f, d, o, b)
  | .atompMaxU f w d o b => some (.pool, 8, w, f, d, o, b)
  | .atompFadd f d o b => some (.pool, 9, 0, f, d, o, b)
  | _ => none

/-- A memory word: its space, kind and form, the bytes of a lane, the active lanes with their addresses, whether its prefix
and its run of registers may stand, the registers that it names and reads, and its energy. -/
structure MemWord where
  space   : Space
  kind    : MemKind
  form    : MemForm
  bytes   : Nat
  lanes   : List (Nat × DWord)
  ok      : Prop
  named   : List Nat
  sources : List Nat
  energy  : Energy

/-- The memory words. -/
def memTable (s : State) (ins : Instr) : Option MemWord :=
  let c := s.vecCtx
  let vec (k : MemKind) (sp : Space) (z : BitVec 2) (d o : BitVec 7) (b : BitVec 5) (sc : BitVec 2) (nt : BitVec 1) : MemWord :=
    let m := s.formOf k sp nt
    let regs := memRegs z m.w16
    let run := (List.range regs).map (d.toNat + ·)
    let lanes := s.lanesAt b o sc.toNat
    { space := sp, kind := k, form := m, bytes := memBytes z m.w16, lanes := lanes
      ok := c.memOk k (z == 3) (k == .load && decide (z.toNat < 2)) false ∧ d.toNat + regs ≤ 128
      named := run ++ [o.toNat]
      sources := if lanes = [] then [] else if k = .load then [o.toNat] else run ++ [o.toNat]
      energy := ⟨4, true⟩ }
  let one (k : MemKind) (z : BitVec 2) (o : BitVec 7) (b : BitVec 5) (sc : BitVec 2) (nt : BitVec 1) : MemWord :=
    { space := .tenant, kind := k, form := s.formOf k .tenant nt, bytes := 2 ^ z.toNat
      lanes := [(partyLane, s.curGroup.s.getD b.toNat 0 + o.signExtend 64 <<< sc.toNat)]
      ok := c.memOk k false (k == .load && decide (z.toNat < 2)) true, named := [], sources := [], energy := ⟨4, false⟩ }
  match ins with
  | .ld _ z d o b k nt => some (vec .load .tenant z d o b k nt)
  | .ldp _ z d o b k nt => some (vec .load .pool z d o b k nt)
  | .ldcl _ z d o b k nt => some (vec .load .cluster z d o b k nt)
  | .st _ z d o b k nt => some (vec .store .tenant z d o b k nt)
  | .stp _ z d o b k nt => some (vec .store .pool z d o b k nt)
  | .lds _ z _ o b k nt => some (one .load z o b k nt)
  | .sts _ z _ o b k nt => some (one .store z o b k nt)
  | .atomc _ z d o b =>
    let k := 2 ^ z.toNat
    let lanes := s.lanesAt b o 0
    some { space := .tenant, kind := .atomic, form := s.formOf .atomic .tenant 0, bytes := 4 * k, lanes := lanes
           ok := c.memOk .atomic false false false, named := (List.range (3 * k)).map (d.toNat + ·) ++ [o.toNat]
           sources := if lanes = [] then [] else (List.range (2 * k)).map (d.toNat + ·) ++ [o.toNat], energy := ⟨4, true⟩ }
  | i => (atomTable i).map fun (sp, _, w, _, d, o, b) =>
    let lanes := s.lanesAt b o 0
    let regs := (List.range (w.toNat + 1)).map (d.toNat + ·) ++ [o.toNat]
    { space := sp, kind := .atomic, form := s.formOf .atomic sp 0, bytes := 4 * (w.toNat + 1), lanes := lanes
      ok := c.memOk .atomic false false false, named := regs, sources := if lanes = [] then [] else regs, energy := ⟨4, true⟩ }

/-- What a lane's translation asks for (Table 01-5), and its ACC bits. -/
def MemWord.access (m : MemWord) (va : DWord) : Access :=
  match m.kind with
  | .load => Access.load (svcFits m.bytes va)
  | .store => Access.store (svcFits m.bytes va)
  | .atomic => Access.atomic

def MemWord.bits (m : MemWord) : Byte :=
  match m.kind with
  | .load => 0x01
  | .store => 0x02
  | .atomic => 0x0B

/-- PURITY, which comes before every other check (R345, R346). -/
def MemWord.pure (m : MemWord) : M Unit :=
  match m.kind with
  | .load => loadPure m.space m.bytes m.lanes
  | .store => storePure m.space m.bytes m.lanes
  | .atomic => atomicPure m.space m.lanes

/-- The plan of one lane in tenant memory; a store asks no peer. -/
def MemWord.plan (m : MemWord) (x : Nat × DWord) : M Plan := 
  planLane m.access (decide (m.kind ≠ .store)) (m.form.strong || decide (m.kind = .atomic)) m.bytes x

/-- A strong word in the sense of R267: one with an ordering that its own prefix names, or an atomic. -/
def MemWord.aligned (m : MemWord) : Prop := m.kind = .atomic ∨ m.form.ord ≠ 0 ∧ m.form.free = false

/-- Bytes of a number of n bytes, lowest first. -/
def byteOf (v i : Nat) : Byte := BitVec.ofNat 8 (v / 256 ^ i)

/-! ## Words of the engines -/

/-- The issuing party is the main side and holds every lane of its group (R176). -/
def State.fullMask (s : State) : Prop :=
  s.cur.frag = none ∧ s.curGroup.m.getD 0 0 = BitVec.ofNat 64 (2 ^ s.curGroup.width - 1)

/-- An operation of an engine is under way on its flag, after the actions of R113; `regs` says whether it has still to
read or to write registers of its group (R211). -/
def State.engineOp (s : State) (f : BitVec 1) (tenant : Bool) (k : OpKind) (regs : Bool) : State :=
  let t := s.counted f
  (t.engineIssue s.cur.ctx s.cur.grp tenant).addOp s.cur.ctx s.cur.grp (s.flagOf f) k (if regs then t.curRegs else ({}, {}))

/-- The current word is the last of its clause. -/
def State.atLast (s : State) : Prop := ∃ c, s.curParty.clause = some c ∧ c.idx = (c.hdr.extractLsb' 28 4).toNat

/-- The current word is the first of its clause (R283). -/
def State.atFirst (s : State) : Prop := ∃ c, s.curParty.clause = some c ∧ c.idx = 1

/-- A scalar operand b that is zero-extended. -/
def State.opZ (s : State) (i : BitVec 1) (b : BitVec 8) : DWord := if i = 1 then b.setWidth 64 else s.selS b

/-- BARARR on a barrier word: expected, arrived and phase counts (Table 11-7, R285). -/
def barrierArrive (w : DWord) : DWord :=
  let e := w.extractLsb' 0 16
  let a := w.extractLsb' 16 16
  let p := w.extractLsb' 32 16
  let top := w.extractLsb' 48 16
  if e.toNat ≤ a.toNat + 1 then top ++ (p + 1) ++ (0 : BitVec 16) ++ e else top ++ p ++ (a + 1) ++ e

/-- How far the phase of a barrier word is past a target (R285). -/
def barrierLag (w : DWord) (t : BitVec 16) : DWord := (w.extractLsb' 32 16 - t).signExtend 64

/-- Scopes of a barrier word: 1 in the pool window, 1 to 5 in tenant memory (R284). -/
def barrierScope (p : BitVec 1) (c : BitVec 3) : Prop := c ≠ 0 ∧ c.toNat ≤ 5 ∧ (p = 1 → c = 1)

/-- PQUERY's sizes and places (Table 11-6). -/
def State.poolSizes (s : State) : List Nat :=
  let t := s.teamAt s.cur.ctx
  [4096 * t.granules.length, 4096 * (t.sharedAt + (s.launchAt t.launch).shMax), 4096 * t.sharedAt,
   4096 * (t.granules.length - t.sharedAt), 4096 * t.stagingAt, 4096 * (t.sharedAt - t.stagingAt),
   (s.l1Granules t.core).length, s.grantable t.core]

/-- The team of the issuing party. -/
def State.myTeam (s : State) : Team := s.teamAt s.cur.ctx

/-- An accumulator tile of the issuing team. -/
def State.accTile (s : State) (t : Nat) : AccTile := s.myTeam.acc.getD t AccTile.reset

/-- The tile exists in the launch, and is allocated (R301). -/
def State.tileReady (s : State) (t : Nat) : Prop := t < (s.launchOf s.cur.ctx).nAcc ∧ (s.accTile t).alloc = true

/-- Row m and column j of a tile. -/
def AccTile.elem (a : AccTile) (m j : Nat) : Word := look a.elems (128 * m + j) 0

/-- The hypervector words that name only registers: hypervectors, bundles, and what the HVU is asked to do. -/
def hvTable (s : State) (ins : Instr) : Option (List Nat × List Nat × HvWord) :=
  match ins with
  | .hvxor d a b => some ([d.toNat, a.toNat, b.toNat], [], .xor d.toNat a.toNat b.toNat)
  | .hvmaj3 d a c b => some ([d.toNat, a.toNat, b.toNat, c.toNat], [], .maj3 d.toNat a.toNat b.toNat c.toNat)
  | .hvrotS d a n => some ([d.toNat, a.toNat], [], .rot d.toNat a.toNat (s.curGroup.s.getD n.toNat 0))
  | .hvrotImm d a n => some ([d.toNat, a.toNat], [], .rot d.toNat a.toNat (n.setWidth 64))
  | .hvbun d a => some ([a.toNat], [d.toNat], .bun d.toNat a.toNat false)
  | .hvbunSub d a => some ([a.toNat], [d.toNat], .bun d.toNat a.toNat true)
  | .hvthr d a t => some ([d.toNat, t.toNat], [a.toNat], .thr d.toNat a.toNat (some t.toNat))
  | .hvthrAlt d a => some ([d.toNat], [a.toNat], .thr d.toNat a.toNat none)
  | .hvclrb d => some ([], [d.toNat], .clrb d.toNat)
  | .hvdist d a b => some ([a.toNat, b.toNat], [], .dist d.toNat a.toNat b.toNat)
  | .hvpopc d a => some ([a.toNat], [], .popc d.toNat a.toNat)
  | .hvgen d c => some ([d.toNat], [], .gen d.toNat (s.selS c))
  | _ => none

/-- Registers below the group's counts (R313). -/
def State.hvOk (s : State) (hs bs : List Nat) : Prop :=
  (∀ n ∈ hs, n < s.curGroup.h.length) ∧ ∀ n ∈ bs, n < s.curGroup.b.length

/-- The state after a hypervector word, which charges `k` times its class for each 4096 bits (Table 15-3). -/
def State.hvIssued (t s : State) (k : Nat) : State :=
  ((t.chargeUnits s.cur.ctx ((s.ctl.weights.getD 8 0).toNat * (s.curGroup.hdim / 4096) * k)).stampIssue).advance

/-- SYSRD's values (Table 14-3). -/
def State.sysList (s : State) : List DWord :=
  let g := s.curGroup
  let t := s.myTeam
  let own := g.mask s.cur.frag
  [(match (List.range g.width).find? fun l => own.getLsbD l with
    | some l => BitVec.ofNat 64 l
    | none => BitVec.allOnes 64),
   BitVec.ofNat 64 g.width, BitVec.ofNat 64 g.idx, BitVec.ofNat 64 t.tx, BitVec.ofNat 64 t.ty, BitVec.ofNat 64 t.tz,
   BitVec.ofNat 64 g.role, BitVec.ofNat 64 t.core, BitVec.ofNat 64 (t.core / 4), BitVec.ofNat 64 (t.core / 256),
   s.clock, t.energy, BitVec.ofNat 64 (s.tfOf s.cur.ctx), ((s.launchOf s.cur.ctx).num).setWidth 64]

/-- The party runs its group's trap handler (R361). -/
def State.handling (s : State) : Prop := s.curGroup.trap.hb = true ∧ s.curGroup.trap.owner = s.cur.frag

/-! ## Events -/

/-- An operation in flight whose completion can be counted: it is not parked, and its group's control area is in the
pool. -/
def State.canEnd (s : State) (o : Op) : Prop := s.opAt o.id = some o ∧ s.opFree o = true

/-- Runs of bytes that perform at their home slices as writes of some launches. -/
def State.putHome (s : State) (own : List Writer) (ps : List (Nat × List Byte)) : State :=
  ps.foldl (fun u x => u.homeWrite own x.1 (x.2.map some)) s

/-- A fault that names no address. -/
def bareFault (cause : Byte) (detail : Word) : FaultInfo :=
  { cause := cause, va := 0, entry := 0, level := 0xFF, acc := 0, detail := detail }

/-- An operation's collective slot, for CSEND and CRECV. -/
def OpKind.slotNo (k : OpKind) : Option Nat :=
  match k with
  | .csend n _ _ _ _ _ => some n
  | .crecv n _ _ _ _ => some n
  | _ => none

/-- Where the collective descriptor of a CSEND or CRECV lies in the pool window. -/
def OpKind.statusAt (k : OpKind) : Option Nat :=
  match k with
  | .csend _ _ _ _ _ d => some d
  | .crecv _ _ _ _ d => some d
  | _ => none

/-- A peer's atomic at an offset: its size, and the new value that it makes of the old one (Table 08-9, R274, R285). -/
def peerAtomic (off : Nat) (a : PeerOp) : Option (Nat × (Nat → Option Nat)) :=
  match a with
  | .atomic o code n x => if o = off then some (n, fun old => some (atomOp code n old x)) else none
  | .cas o n old' new => if o = off then some (n, fun old => if old = old' then some new else none) else none
  | .arrive o => if o = off then some (8, fun old => some (barrierArrive (BitVec.ofNat 64 old)).toNat) else none
  | _ => none

/-- A series of like registers of the service window that read the bits written to them. -/
structure PlainReg where
  first : Nat
  step  : Nat
  count : Nat
  mask  : DWord

/-- Plain registers of Tables 01-10, 05-1, 14-5, 15-1, 16-4, 20-2, 20-4, 20-6 and 21-3. -/
def plainRegs : List PlainReg :=
  [⟨0x10_0000, 8, 4096, 0x0FFFFF03⟩, ⟨0x10, 4096, 256, 0x000FFFFFFFFFFFC0⟩, ⟨0x30, 4096, 256, 0x000FFFFFFFFFFFF8⟩,
   ⟨0x38, 4096, 256, 0x000FFFFFFFFFFFF8⟩, ⟨0x102_0008, 64, 256, 0x9FFF⟩, ⟨0x102_0010, 64, 256, 0xFFFFFFFFFFFFFFFF⟩,
   ⟨0x102_0018, 64, 256, 0xFFFFFFFFFFFFFFFF⟩, ⟨0x102_0020, 64, 256, 0x1FFFF⟩, ⟨0x102_0028, 64, 256, 0xFFFFFFFFFFFF⟩,
   ⟨0x102_0030, 64, 256, 0xFFFFFFFFFFFF⟩, ⟨0x103_1000, 16, 64, 0x000FFFFFFFE00003⟩, ⟨0x103_1008, 16, 64, 0x000FFFFFFFEFFFFF⟩,
   ⟨0x108_0000, 64, 8192, 0xFFFFFFFFFFFF0107⟩, ⟨0x108_0008, 64, 8192, 0x00FFFFFF00FFFFFF⟩,
   ⟨0x108_0010, 64, 8192, 0xFFFFFFFFFFFFFFFF⟩, ⟨0x108_0018, 64, 8192, 0xFFFFFFFFFFFFFFFF⟩, ⟨0x108_0020, 64, 8192, 0xFFFFFFFF⟩,
   ⟨0x200_0000, 8, 1, 0xFFFFFFFFFFFF⟩, ⟨0x200_0008, 8, 1, 0xFFFFFFFF⟩, ⟨0x200_0010, 8, 1, 0xFFFF⟩,
   ⟨0x300_0010, 8, 1, 0x000FFFFFFFFFFE00⟩]

/-- The new party's place in the active set (R353): it enters now, and no other does in this cycle (R355). -/
def State.entered (s : State) (p : PartyRef) : State :=
  let k := 4 * (s.teamAt p.ctx).core + p.grp % 4
  { (s.mapPartyOf p fun pt => { pt with active := true, wasReady := false, entered := s.stamp, issued := s.clock.toNat }) with
    quads := put s.quads k { look s.quads k Quadrant.reset with entered := some s.clock.toNat }
    stamp := s.stamp + 1 }

end Sys2Proof.Machine
end

