-- ==== Sys2Proof/Certificates/Slice0/Obligations.lean ====
section
/-!
DEFINITION. The statements of this package.
-/

open Sys2Proof Sys2Proof.Machine

/-! ## Encoding -/

/-- Every instruction that is well formed and has a word is read back from that word, each operand at every value
(R213 to R225). -/
def Obligations.DecodeAfterEncode : Prop :=
  ∀ (i : Instr) (w : Word), WellFormed i → encode i = some w → decodeWord w = .ok i

/-- Every word that decodes is the word of the instruction read from it, and that instruction is well formed: no word
has two readings, and no bit of a word is dropped. -/
def Obligations.EncodeAfterDecode : Prop :=
  ∀ (w : Word) (i : Instr), decodeWord w = .ok i → encode i = some w ∧ WellFormed i

/-- Words that the spec writes out bit by bit, and the instructions that it gives for them. -/
def Obligations.DecodeExamples : Prop :=
  decodeWord 0x3101F004 = .ok (.smov 1 1 4) ∧ decodeWord 0x4802F0C1 = .ok (.mlane 0 2 0xC1) ∧
  decodeWord 0x4021E1E2 = .ok (.mor 1 0xE1 0xE2) ∧ decodeWord 0x2002C2C1 = .ok (.sadd 0 2 0xC2 0xC1) ∧
  decodeWord 0x0E3FFFFC = .ok (.loop 1 (-4)) ∧ decodeWord 0x1046000C = .ok (.split 2 3 12) ∧
  decodeWord 0x12400000 = .ok (.join 2) ∧ decodeWord 0xB00303F0 = .ok (.vredmi 6 3) ∧
  decodeWord 0xC7028218 = .ok (.atomAdd 1 0 5 2 3) ∧ decodeWord 0xCC080000 = .ok (.fence 0 4)

/-! ## Steps -/

/-- A step whose turn it is to issue a party's word runs the instruction that the word decodes to: time passes, the
entry leaves the agenda, the party becomes the issuing one, and `exec` of the instruction gives the outcome. The word
may stand where it does, and its registers are at hand (R207 to R211, R225); no party of its group in a lower place
traps in the same cycle (Table 16-3). A step whose turn it is to let an event occur runs that event; only the start of a
clause that would trap there has to let a lower place's trap of the same cycle go first. That parties which may issue or
start in one cycle do so in it is the model's choice (assumption 139). -/
def Obligations.StepRunsDecoded : Prop :=
  (∀ (s : State) (p : PartyRef) (rest : List Agenda) (c : Clause) (i : Instr),
     s.agenda = .issue p :: rest →
     let t : State := { s.passStep with agenda := rest }
     let u : State := { t with cur := p }
     t.mayIssue p = true → (t.partyOf p).clause = some c → u.issueCheck c c.curWord = .go →
     decodeWord c.curWord = .ok i → step s = exec i u) ∧
  ∀ (s : State) (i : Instr) (rest : List Agenda), s.agenda = .event i :: rest →
    let t : State := { s.passStep with agenda := rest }
    ((∀ p, i = .clauseStart p → (t.startTraps p && t.trapsBefore p) = false) →
      step s = exec i { t with stamp := t.stamp + 1 }) ∧
    (∀ p, i = .clauseStart p → (t.startTraps p && t.trapsBefore p) = true → step s = .next t)

/-- A word that is no instruction traps ILLEGAL_INSTRUCTION, a word that may not stand in its clause ILLEGAL_CLAUSE,
and a prefix before a word that it may not qualify, or before none, ILLEGAL_PREFIX, whatever its own fields, at the
word itself (R207, R208, R218, R225). An opcode that Table 08-15 does not assign is no instruction, whatever the
word's other bits. The energy that such a word charges, the `wordUnits` here, is the model's choice (assumptions 55 and
95). -/
def Obligations.RefusedWordsTrap : Prop :=
  (∀ w : Word, (w.extractLsb' 25 7).toNat ∈
       [0x1B, 0x1C, 0x1D, 0x1E, 0x1F, 0x26, 0x27, 0x3E, 0x3F, 0x53, 0x6B, 0x7D, 0x7E] →
     decodeWord w = .error .unassignedOpcode) ∧
  (∀ (w : Word) (s : State),
    exec (.illegalInstruction w) s =
      .next ((s.chargeUnits s.cur.ctx (s.wordUnits w)).trapWith noEnergy 0x01 0 0 0 s.trapRet)) ∧
  ∀ (s : State) (c : Clause),
    let w := c.curWord
    let traps (cause : Byte) : Prop :=
      s.runCurrent c = .next ((s.chargeUnits s.cur.ctx (s.wordUnits w)).trapWith noEnergy cause 0 0 0 s.trapRet)
    (admitted c w = false → traps 0x02) ∧
    (admitted c w = true → (w.extractLsb' 25 7).toNat = 0x7F → prefixable c = false → traps 0x03) ∧
    (∀ e, misplaced c w = none → decodeWord w = .error e → traps 0x01)

/-- No instruction and no event ends a run: `exec` answers a next state for every one of them in every state, and so
does every step. That nothing halts this machine is the model's reading of R360 to R363 and R414 (assumption 92); what
the next state is, the other statements say. -/
def Obligations.NothingStops : Prop :=
  (∀ (i : Instr) (s : State), ∃ t, exec i s = .next t) ∧ ∀ s : State, ∃ t, step s = .next t

/-- What goes with every word beside its own effect changes no register, mask, flag, memory byte, cache or table: only
the place of the party, the energy counter of its context, and the model's count of events. -/
def Obligations.IssueFrame : Prop :=
  ∀ (t : State) (e : Energy), t.curGroup.ending = false → (t.issued e).bare = t.bare

/-- After a word the party stands at the next word of its clause, under the same header and MODE and with no prefix
left; after the clause's last word at the header that follows (R200, R209). A clause that ends leaves its party at the
header it goes to, in no clause, waiting for nothing. -/
def Obligations.IssueAdvances : Prop :=
  (∀ (t : State) (e : Energy) (c : Clause), t.running → t.curParty.clause = some c →
     ((t.issued e).curParty.clause =
       if c.idx < (c.hdr.extractLsb' 28 4).toNat then some { c with idx := c.idx + 1, pre := none } else none) ∧
     ((c.hdr.extractLsb' 28 4).toNat ≤ c.idx →
       (t.issued e).curParty.pc = c.addr + 4 * (((c.hdr.extractLsb' 28 4).setWidth 64) + 1))) ∧
  ∀ (s : State) (a : DWord), s.running →
    (s.endClause s.cur a).curParty.pc = a ∧ (s.endClause s.cur a).curParty.clause = none ∧
    (s.endClause s.cur a).curParty.wait = .none ∧ (s.endClause s.cur a).bare = s.bare

/-! ## Reset and memory -/

/-- What reset leaves, as the spec's tables give it: the package not ready and %clock at 0 (R337, R403), no team, no
launch, nothing translated or cached, the Keepers' controls (Tables 15-1, 16-4), the power and error controls (Table
21-3), and a tenant function that grants nothing (Tables 01-11, 05-1, 20-4). -/
def Obligations.ResetValues : Prop :=
  State.reset.health.ready = false ∧ State.reset.clock = 0 ∧ State.reset.teams = [] ∧ State.reset.launches = [] ∧
  State.reset.groups = [] ∧ State.reset.side.tlb = [] ∧ State.reset.side.l1 = [] ∧
  State.reset.ctl.age = 0x03E8 ∧ State.reset.ctl.prewait = 0x0064 ∧ State.reset.ctl.quantum = 0x07D0 ∧
  State.reset.ctl.static = 0x024A0000 ∧ State.reset.ctl.ven = false ∧
  State.reset.health.cethr = 0x0100 ∧ State.reset.health.pcap = 0x0960 ∧
  (State.reset.tf 0).en = false ∧ (State.reset.tf 0).vr = true ∧ (State.reset.tf 0).windows.all (fun w => !w.en) = true

/-- The invariant holds at reset. -/
def Obligations.ResetInv : Prop :=
  State.reset.Inv

/-- Every step keeps home memory and every team's pool window in canonical form, and every group at the registers the
spec gives it: no step adds or loses a register, and a write outside the file is none. -/
def Obligations.StepKeepsInv : Prop :=
  ∀ s t : State, s.Inv → step s = .next t → t.Inv

/-- A byte that a write names reads as written, every other byte as before, and the canonical form stays; so memories
that read alike are equal. -/
def Obligations.MemoryLaws : Prop :=
  (∀ m a b, Memory.wf m = true → Memory.wf (Memory.set m a b) = true ∧ Memory.get (Memory.set m a b) a = b) ∧
  (∀ m a b x, x ≠ a → Memory.get (Memory.set m a b) x = Memory.get m x) ∧
  (∀ m n, Memory.wf m = true → Memory.wf n = true → (∀ a, Memory.get m a = Memory.get n a) → m = n)

/-! ## Traps and the return from them -/

/-- Taking a trap (R361, Table 16-2): with no handler running and a handler installed, the record takes the cause, the
word index, DETAIL, the clause's header, the return point, the party's mask, ADDR, LANES, FSTAT and the flags that
count once its group's loads have completed; the handler bit and its party are set, and the party continues at the
handler, outside any clause. That the loads complete in the same step is the model's choice (assumption 11). -/
def Obligations.TrapEntry : Prop :=
  ∀ (s : State) (cause : Byte) (detail : Word) (addr lanes ret : DWord) (c : Clause),
    s.running → s.curParty.clause = some c → s.curGroup.trap.hb = false → s.curGroup.handler ≠ 0xFFFFFFFF →
    let t := s.takeTrap cause detail addr lanes ret
    let g := s.curGroup
    t.curGroup.trap.hb = true ∧ t.curGroup.trap.owner = s.cur.frag ∧ t.curGroup.trap.clause = some c ∧
    t.curGroup.trap.words =
      [detail.setWidth 64 <<< 32 ||| BitVec.ofNat 64 (c.trapIdx * 256) ||| cause.setWidth 64, c.addr, ret,
       g.mask s.cur.frag, addr, lanes, g.fstat.setWidth 64 <<< 12 ||| BitVec.ofNat 64 t.curGroup.outFlags, g.trap.words.getD 7 0] ∧
    (∀ o ∈ t.ops, o.ctx = s.cur.ctx → o.grp = s.cur.grp → o.kind ≠ .load) ∧
    t.curParty.pc = t.codeStart s.cur.ctx + 4 * g.handler.setWidth 64 ∧ t.curParty.clause = none

/-- A trap of another party while a handler runs holds that party behind the handler, at its word, or at the header for
a trap raised there, with no other effect; a trap of the handler's own party ends its team with DOUBLE_TRAP; and a trap
without a handler ends it with the trap's own cause (R361 to R363). That the records of the last two give the trap's
ADDR as VA is the model's choice (assumption 33). -/
def Obligations.TrapOtherwise : Prop :=
  ∀ (s : State) (cause : Byte) (detail : Word) (addr lanes ret : DWord),
    (s.curGroup.trap.hb = true → s.curGroup.trap.owner ≠ s.cur.frag →
      s.takeTrap cause detail addr lanes ret = s.mapCurParty fun pt =>
        { pt with wait := .handler, active := false, clause := pt.clause.filter fun c => 0 < c.idx }) ∧
    (s.curGroup.trap.hb = true → s.curGroup.trap.owner = s.cur.frag →
      s.takeTrap cause detail addr lanes ret =
        s.faultParty s.cur { cause := 0x1D, va := addr, entry := 0, level := 0xFF, acc := 0, detail := cause.setWidth 32 }) ∧
    (s.curGroup.trap.hb = false → s.curGroup.handler = 0xFFFFFFFF →
      s.takeTrap cause detail addr lanes ret =
        s.faultParty s.cur { cause := cause, va := addr, entry := 0, level := 0xFF, acc := 0, detail := detail })

/-- TRAP and BKPT take SOFTWARE_TRAP, with the code in DETAIL, and BREAKPOINT, with the word after them as the return
point (R238): with a handler installed and none running, the record holds cause, DETAIL and return point, the handler
bit and its party are set, and the party continues at the handler. ERET in the handler's party, with a return point
inside the code section, ends the handler (R239): the handler bit is cleared, the party takes the recorded mask under
R245's rule, no party of the group waits behind the handler any longer, and the party continues at the return point:
inside the trapping clause, at that word and under the MODE in force for the ERET (R200), when it is one of its words
after the header, else at a header; the words of a clause whose header trapped are fetched then. That a word so reached
runs without the prefix before it is the model's choice (assumption 131). Anywhere else, and with a bad return point,
ERET traps ILLEGAL_INSTRUCTION. -/
def Obligations.SoftwareTrapsAndEret : Prop :=
  (∀ (s : State) (k : BitVec 8) (c : Clause), s.curParty.clause = some c →
     exec (.trap k) s = .next (s.trapWith plainEnergy 0x08 (k.setWidth 32) 0 0 (s.here + 4)) ∧
     exec .bkpt s = .next (s.trapWith plainEnergy 0x09 0 0 0 (s.here + 4))) ∧
  (∀ (s : State) (i : Instr) (w0 : DWord) (c : Clause), s.curParty.clause = some c →
     (∃ k : BitVec 8, i = .trap k ∧ w0 = k.setWidth 64 <<< 32 ||| BitVec.ofNat 64 (c.trapIdx * 256) ||| 0x08) ∨
       i = .bkpt ∧ w0 = BitVec.ofNat 64 (c.trapIdx * 256) ||| 0x09 →
     s.running → s.curGroup.trap.hb = false → s.curGroup.handler ≠ 0xFFFFFFFF →
     ∃ t, exec i s = .next t ∧ t.curGroup.trap.hb = true ∧ t.curGroup.trap.owner = s.cur.frag ∧
       t.curGroup.trap.words.getD 0 0 = w0 ∧ t.curGroup.trap.words.getD 1 0 = c.addr ∧
       t.curGroup.trap.words.getD 2 0 = s.here + 4 ∧ t.curGroup.trap.words.getD 3 0 = s.curGroup.mask s.cur.frag ∧
       t.curParty.pc = t.codeStart s.cur.ctx + 4 * s.curGroup.handler.setWidth 64 ∧ t.curParty.clause = none) ∧
  (∀ (s w u : State) (rs : List SerialRec),
    s.running → s.curGroup.trap.hb = true → s.curGroup.trap.owner = s.cur.frag →
    s.inCode (s.curGroup.trap.words.getD 2 0) →
    (fetchTrapped s = .ok () w ∨ (∀ c, s.curGroup.trap.clause = some c → c.words ≠ []) ∧ w = s) →
    (ownSerials w = .ok rs u ∨ (∀ t < 16, s.curGroup.tokenLive t = false) ∧ rs = [] ∧ u = w) →
    exec .eret s = .next (((u.charge plainEnergy).stampIssue).eret (w.m0Value rs (s.curGroup.trap.words.getD 3 0)))) ∧
  (∀ (s : State) (m : DWord), s.running → s.curGroup.m.length = 16 →
    let ret := s.curGroup.trap.words.getD 2 0
    let at' (c : Clause) : Prop :=
      0 < (ret - c.addr).toNat ∧ (ret - c.addr).toNat % 4 = 0 ∧ (ret - c.addr).toNat / 4 ≤ (c.hdr.extractLsb' 28 4).toNat
    (s.eret m).curGroup.trap.hb = false ∧ (s.eret m).curGroup.mask s.cur.frag = m ∧ (s.eret m).curParty.wait = .none ∧
      (∀ w, ((s.eret m).curGroup.party w).wait ≠ .handler) ∧
      (∀ c, s.curGroup.trap.clause = some c → at' c → (s.eret m).curParty.pc = c.addr ∧
        (s.eret m).curParty.clause = some { c with idx := (ret - c.addr).toNat / 4, pre := none, mode := s.curMode }) ∧
      ((∀ c, s.curGroup.trap.clause = some c → ¬ at' c) →
        (s.eret m).curParty.pc = ret ∧ (s.eret m).curParty.clause = none)) ∧
  (∀ s : State, (s.curGroup.trap.hb = false ∨ s.curGroup.trap.owner ≠ s.cur.frag ∨ ¬ s.inCode (s.curGroup.trap.words.getD 2 0)) →
    exec .eret s = .next (s.trapWith plainEnergy 0x01 0 0 0 s.trapRet))

/-! ## Scalar and mask words -/

/-- Every scalar word completes in every state and writes s(d) as Table 09-5 gives, the shifts, fields, divisions by
zero and the overflowing division as R243 and R244 say. Their Form S selectors read as Table 08-6 gives: a constant, a
scalar register, the party's own mask, a mask register, zero. -/
def Obligations.ScalarWords : Prop :=
  (∀ (i : Instr) (s : State) (d : BitVec 5) (v : DWord), scalarTable s i = some (d, v) →
     exec i s = .next ((s.writeS d.toNat v).issued plainEnergy)) ∧
  ∀ (s : State) (n : BitVec 8),
    (0x80 ≤ n.toNat → n.toNat < 0xC0 → s.selS n = (s.launchOf s.cur.ctx).consts.getD (n.toNat % 64) 0) ∧
    (0xC0 ≤ n.toNat → n.toNat < 0xE0 → s.selS n = s.curGroup.s.getD (n.toNat % 32) 0) ∧
    (n = 0xE0 → s.selS n = s.curGroup.mask s.cur.frag) ∧
    (0xE1 ≤ n.toNat → n.toNat < 0xF0 → s.selS n = s.curGroup.m.getD (n.toNat % 16) 0) ∧ (n = 0xF0 → s.selS n = 0)

/-- The frame of the scalar words: s(d) takes the value and loses its poison, every other register of every group, every
flag, mode and special register, and every byte of memory stay. The frame of the mask words that write m1 to m15: only
that mask register changes. -/
def Obligations.ScalarFrame : Prop :=
  (∀ (i : Instr) (s : State) (d : BitVec 5) (v : DWord), s.running → s.curGroup.s.length = 32 →
     (scalarTable s i = some (d, v) ∨ maskScalarTable s i = some (d, v)) →
     ∃ t, exec i s = .next t ∧ t.curGroup.s.getD d.toNat 0 = v ∧ d.toNat ∉ t.curGroup.sPoison ∧
       s.curGroup.sameBut t.curGroup [d.toNat] [] [] false ∧ t.side = s.side ∧
       (∀ c n a, Memory.get (t.teamAt c).pool a = Memory.get (s.teamAt c).pool a ∧
         ((c, n) ≠ (s.cur.ctx, s.cur.grp) → t.groupAt c n = s.groupAt c n)) ∧
       t.ops = s.ops ∧ t.tfs = s.tfs ∧ t.ctl = s.ctl) ∧
  ∀ (i : Instr) (s : State) (d : BitVec 4) (v : DWord), s.running → maskTable s i = some (d, v) → d ≠ 0 →
    ∃ t, exec i s = .next t ∧ s.curGroup.sameBut t.curGroup [] [d.toNat] [] false ∧ t.side = s.side ∧
      (∀ c a, Memory.get (t.teamAt c).pool a = Memory.get (s.teamAt c).pool a) ∧
      (∀ c n, (c, n) ≠ (s.cur.ctx, s.cur.grp) → t.groupAt c n = s.groupAt c n) ∧ t.ops = s.ops ∧ t.tfs = s.tfs

/-- The mask words (Table 09-6): those that write a mask register drop the bits at and above W; a write to m0 gives the
party its own mask only, less what other live parties and its serial records hold (R245); MTOS, MPOPC, MFFS and MTEST
write a scalar register. -/
def Obligations.MaskWords : Prop :=
  (∀ (i : Instr) (s : State) (d : BitVec 4) (v : DWord), maskTable s i = some (d, v) → d ≠ 0 →
    exec i s = .next ((s.mapCur fun g =>
      { g with m := g.m.set d.toNat (v &&& (BitVec.ofNat 64 (2 ^ g.width - 1))) }).issued plainEnergy)) ∧
  (∀ (i : Instr) (s t : State) (v : DWord) (rs : List SerialRec), maskTable s i = some (0, v) → ownSerials s = .ok rs t →
    exec i s = .next ((t.mapCur fun g => g.setMask t.cur.frag (s.m0Value rs v)).issued plainEnergy)) ∧
  (∀ (i : Instr) (s : State) (d : BitVec 5) (v : DWord), maskScalarTable s i = some (d, v) →
    exec i s = .next ((s.writeS d.toNat v).issued plainEnergy))

/-! ## Control words -/

/-- BRA, BRC, BRM, JMPI, CALL, CALLI, RET and LOOP complete when their target, where they are taken, lies on a word of
the code section: registers as R233 gives, and the party at the target or at the word after. A transfer to a target
outside the code section or off a word boundary traps ILLEGAL_INSTRUCTION at its own word and writes no register
(R232); one that is not taken does not check its target. -/
def Obligations.Transfers : Prop :=
  (∀ (i : Instr) (s t : State) (x : Option DWord), transferTable s i = some (t, x) →
     (∀ a, x = some a → s.inCode a) → exec i s = .next (t.goesTo s.cur x)) ∧
  ∀ (i : Instr) (s t : State) (a : DWord), transferTable s i = some (t, some a) → ¬ s.inCode a →
    exec i s = .next (s.trapWith plainEnergy 0x01 0 0 0 s.trapRet)

/-- SPLIT (R178, R180, R236): with a target in the code section and a token that is not live, the token becomes live;
a side without lanes leaves the whole party on the other; with two sides and a free fragment entry the smaller side
(the taken one where they are equal) becomes a fragment; without one the taken side runs first, and the other waits in
a serial record. A live token traps TOKEN_REUSE. That every SPLIT of a free token first writes a record of zeros for it is
the model's reading (assumption 28). -/
def Obligations.SplitWord : Prop :=
  ∀ (s u v : State) (t c : BitVec 4) (o : BitVec 17) (outer : List SerialRec),
    let target := s.here + 4 * o.signExtend 64
    let own := s.curGroup.mask s.cur.frag
    let taken := own &&& s.curGroup.readM s.cur.frag c.toNat
    let other := own &&& ~~~ s.curGroup.readM s.cur.frag c.toNat
    s.running → s.inCode target →
    (s.curGroup.tokens.getLsbD (2 * t.toNat) = true →
      exec (.split t c o) s = .next (s.trapWith plainEnergy 0x0D 0 0 0 s.trapRet)) ∧
    (s.curGroup.tokens.getLsbD (2 * t.toNat) = false →
      writeSerial { token := t.toNat, pmask := 0, ppc := 0, jpc := 0, v := false, ph := false, owner := 0, depth := 0 } s = .ok () u →
      ownSerials u = .ok outer v →
      let w := v.mapCur fun g => { g with tokens := g.tokens ||| BitVec.ofNat 32 (2 ^ (2 * t.toNat)) }
      (taken = 0 → exec (.split t c o) s = .next (w.issued plainEnergy)) ∧
      (taken ≠ 0 → other = 0 → exec (.split t c o) s = .next (w.goesTo s.cur (some target))) ∧
      (∀ e, taken ≠ 0 → other ≠ 0 → s.curGroup.freeFrag = some e →
        exec (.split t c o) s = .next (
          if onesIn taken ≤ onesIn other then
            ((w.newFrag e t taken target).mapCur fun g => g.setMask s.cur.frag other).issued plainEnergy
          else ((w.newFrag e t other (s.here + 4)).mapCur fun g => g.setMask s.cur.frag taken).goesTo s.cur (some target))) ∧
      (∀ x, taken ≠ 0 → other ≠ 0 → s.curGroup.freeFrag = none →
        writeSerial { token := t.toNat, pmask := other, ppc := s.wordOffset (s.here + 4), jpc := 0, v := true, ph := false
                      owner := s.cur.frag.getD 15, depth := (outer.map fun r => r.depth + 1).foldl max 0 } w = .ok () x →
        exec (.split t c o) s = .next ((x.mapCur fun g => g.setMask s.cur.frag taken).goesTo s.cur (some target))))

/-- JOIN (R179, Tables 06-8 and 06-9): on a token that is not live it has no effect; a fragment's own JOIN sets its J
bit and stops it after the JOIN; a party that the token did not detach, the main side or a fragment of another token,
with no serial record of it, waits at the JOIN. Inside a serial split of such a party the first side's JOIN starts the
other side, and the other side's JOIN gives the party both sides' lanes and frees the token. That the continuing side
always waits, and goes on by JOIN_MERGE, is the model's choice (assumption 27). -/
def Obligations.JoinWord : Prop :=
  (∀ (s : State) (t : BitVec 4), s.curGroup.tokens.getLsbD (2 * t.toNat) = false →
    exec (.join t) s = .next (s.issued plainEnergy)) ∧
  (∀ (s : State) (t : BitVec 4) (e : Nat), s.running → s.cur.frag = some e → s.curGroup.tokens.getLsbD (2 * t.toNat) = true →
    (s.curGroup.fragAt e).token = t → s.curGroup.live none = true →
    ∃ u, exec (.join t) s = .next u ∧ (u.curGroup.fragAt e).j = true ∧ (u.curGroup.fragAt e).party.wait = .joined ∧
      (u.curGroup.fragAt e).mask = (s.curGroup.fragAt e).mask ∧ (u.curGroup.fragAt e).v = true ∧
      u.side = s.side ∧ u.curGroup.s = s.curGroup.s ∧ u.curGroup.v = s.curGroup.v ∧ u.curGroup.m = s.curGroup.m) ∧
  (∀ (s v : State) (t : BitVec 4) (rs : List SerialRec), s.running →
    (∀ e, s.cur.frag = some e → (s.curGroup.fragAt e).token ≠ t) →
    s.curGroup.tokens.getLsbD (2 * t.toNat) = true → ownSerials s = .ok rs v → v.running → v.cur = s.cur →
    (∀ r ∈ rs, r.token ≠ t.toNat) →
    ∃ u, exec (.join t) s = .next u ∧ u.curParty.wait = .join t.toNat) ∧
  (∀ (s v x : State) (t : BitVec 4) (rs : List SerialRec) (r : SerialRec),
    (∀ e, s.cur.frag = some e → (s.curGroup.fragAt e).token ≠ t) →
    s.curGroup.tokens.getLsbD (2 * t.toNat) = true → ownSerials s = .ok rs v →
    rs.find? (fun r => r.token == t.toNat) = some r →
    let own := v.curGroup.mask v.cur.frag
    (r.ph = false →
      writeSerial { r with jpc := v.wordOffset (v.here + 4), pmask := own, ph := true } v = .ok () x → v.atLast →
      exec (.join t) s = .next ((x.mapCur fun g => g.setMask v.cur.frag r.pmask).goesTo s.cur (some (v.offsetAddr r.ppc)))) ∧
    (r.ph = true → writeSerial { r with v := false } v = .ok () x →
      exec (.join t) s = .next ((x.mapCur fun g =>
        (g.setMask v.cur.frag (own ||| r.pmask)).setToken r.token false).issued plainEnergy)))

/-- JOIN_MERGE (R179, R181): when every live fragment of a waiting party's token has reached its JOIN, the party, main
side or fragment, takes back their lanes, their entries and the token are free, and the party goes on at the header
after the JOIN. A party that has stopped for its team's save does not merge: it will execute its JOIN again. -/
def Obligations.JoinMerge : Prop :=
  (∀ (s : State) (p : PartyRef) (t : Nat) (c : Clause), s.hasGroup p.ctx p.grp = true →
    let g := s.groupAt p.ctx p.grp
    g.ending = false → g.live p.frag = true → g.m ≠ [] →
    (∀ e, p.frag = some e → e < 8 ∧ (g.fragAt e).token.toNat ≠ t) →
    (s.partyOf p).wait = .join t → (s.partyOf p).clause = some c → (s.partyOf p).stopped = false → t < 16 →
    (∀ f ∈ g.frags, f.v = true → f.token.toNat = t → f.j = true) →
    ∃ u, exec (.joinMerge p) s = .next u ∧
      (u.groupAt p.ctx p.grp).tokens.getLsbD (2 * t) = false ∧
      (∀ l, ((u.groupAt p.ctx p.grp).mask p.frag).getLsbD l =
        ((g.mask p.frag).getLsbD l ||
          (List.range 8).any fun e => (g.fragAt e).v && (g.fragAt e).token.toNat == t && (g.fragAt e).mask.getLsbD l)) ∧
      (∀ e < 8, (g.fragAt e).v = true → (g.fragAt e).token.toNat = t → ((u.groupAt p.ctx p.grp).fragAt e).v = false) ∧
      (∀ e < 8, some e ≠ p.frag → (g.fragAt e).token.toNat ≠ t → (u.groupAt p.ctx p.grp).fragAt e = g.fragAt e) ∧
      (u.partyOf p).pc = c.nextHeader ∧ (u.partyOf p).wait = .none ∧ (u.partyOf p).clause = none ∧ u.side = s.side ∧
      (u.groupAt p.ctx p.grp).s = g.s ∧ (u.groupAt p.ctx p.grp).v = g.v) ∧
  ∀ (s : State) (p : PartyRef), (s.partyOf p).stopped = true → exec (.joinMerge p) s = .next s

/-- EXIT of a party with no serial record and no deferred trap pending retires it (R179). Inside serial splits it acts
in the innermost one (Table 06-8): in its first side, the other side goes on, with no lanes to come back; in its other
side the token is free, and the lanes that reached their JOIN go on after it, or, where none did, the EXIT acts in the
split around it, and retires the party where there is none. An EXIT that would end its group raises the first deferred
trap pending instead (R305), unless that would hold behind another party's handler, which is the model's reading
(assumption 29). YIELD gives up its slot to a ready
party of its quadrant, and otherwise does nothing; NOP does nothing (R237, R240). -/
def Obligations.ExitYieldNop : Prop :=
  (∀ (s v : State), ownSerials s = .ok [] v → v.curGroup.deferred = [] →
    exec .exit s = .next ((((v.charge plainEnergy).stampIssue).retireParty s.cur).releaseJoined s.cur.ctx s.cur.grp)) ∧
  (∀ (s v u : State) (rs : List SerialRec) (r : SerialRec), ownSerials s = .ok rs v → r ∈ rs →
    (∀ x ∈ rs, x ≠ r → x.depth < r.depth) →
    (r.ph = false → writeSerial { r with pmask := 0, ph := true } v = .ok () u →
      exec .exit s = .next ((u.mapCur fun g => g.setMask v.cur.frag r.pmask).goesTo s.cur (some (v.offsetAddr r.ppc)))) ∧
    (r.ph = true → writeSerial { r with v := false } v = .ok () u →
      let w := u.mapCur fun g => g.setToken r.token false
      (r.pmask ≠ 0 →
        exec .exit s = .next ((w.mapCur fun g => g.setMask v.cur.frag r.pmask).goesTo s.cur (some (v.offsetAddr r.jpc)))) ∧
      (r.pmask = 0 → rs = [r] → v.curGroup.deferred = [] →
        exec .exit s = .next ((((w.charge plainEnergy).stampIssue).retireParty s.cur).releaseJoined s.cur.ctx s.cur.grp)) ∧
      (∀ q x, r.pmask = 0 → (rs = [r, q] ∨ rs = [q, r]) → q.ph = false →
        writeSerial { q with pmask := 0, ph := true } w = .ok () x →
        exec .exit s =
          .next ((x.mapCur fun g => g.setMask w.cur.frag q.pmask).goesTo s.cur (some (w.offsetAddr q.ppc)))))) ∧
  (∀ (s v : State) (rs : List SerialRec) (d : Deferred), ownSerials s = .ok rs v → (∀ r ∈ rs, r.ph = true ∧ r.pmask = 0) →
    (∀ w ∈ s.curGroup.parties, w = s.cur.frag) → v.curGroup.deferred.head? = some d →
    (v.curGroup.trap.hb = true → v.curGroup.trap.owner = v.cur.frag) →
    exec .exit s = .next ((v.mapCur fun g => { g with deferred := g.deferred.filter fun x => x != d }).trapWith plainEnergy
      d.cause d.detail 0 0 s.trapRet)) ∧
  (∀ s : State, exec .nop s = .next (s.issued plainEnergy)) ∧
  (∀ s : State, (s.quadParties (s.coreOf s.cur.ctx) (s.cur.grp % 4)).any s.pendingReady = false →
    exec .yield s = .next (s.issued plainEnergy)) ∧
  (∀ s : State, (s.quadParties (s.coreOf s.cur.ctx) (s.cur.grp % 4)).any s.pendingReady = true →
    exec .yield s = .next ((s.mapCurParty fun p => { p with active := false, ready := s.clock.toNat }).issued plainEnergy))

/-! ## Vector words -/

/-- The integer words on two sources or one, the words with a fourth operand, VMOV and the lane moves, the sign, class
and packing words complete where their prefix and registers are in order: lanes of vd take the result in the active
set, zero in the other lanes under Z = 1, and keep their values otherwise (R247 to R252, R254, R257, R261, R263). -/
def Obligations.VectorWords : Prop :=
  ∀ (i : Instr) (s : State) (n : Nat) (e : VEffect),
    let c := s.vecCtx
    (vectorTable c i = some e ∧ n = 1 ∨ moveTable c i = some e ∧ n = 1 ∨ bitTable c i = some (n, e) ∨
      fourthTable c i = some e ∧ n = 1 ∧ (c.hasPre = true → selOkV c.pre.fourth = true)) →
    WellFormed i → prefixOk (permAllowed i) c.pre = true → c.regsOk (e.dest :: e.reads) e.reads →
    exec i s = .next ((s.mapCur fun g => g.writeLanes e.dest fun l =>
      if c.act.getLsbD l then some (e.lane l) else if c.z then some 0 else none).issued ⟨n, true⟩)

/-- The frame of those words: every lane of vd holds its new value or its old one, every other vector register, every
scalar and mask register, every flag, mode and special register, and every byte of memory stay. -/
def Obligations.VectorFrame : Prop :=
  ∀ (i : Instr) (s : State) (n : Nat) (e : VEffect), s.running → s.curGroup.Shape →
    let c := s.vecCtx
    (vectorTable c i = some e ∧ n = 1 ∨ moveTable c i = some e ∧ n = 1 ∨ bitTable c i = some (n, e) ∨
      fourthTable c i = some e ∧ n = 1 ∧ (c.hasPre = true → selOkV c.pre.fourth = true)) →
    WellFormed i → prefixOk (permAllowed i) c.pre = true → c.regsOk (e.dest :: e.reads) e.reads →
    ∃ t, exec i s = .next t ∧
      (∀ l, l < c.g.width → t.curGroup.lane e.dest l =
        if c.act.getLsbD l then e.lane l else if c.z then 0 else s.curGroup.lane e.dest l) ∧
      s.curGroup.sameBut t.curGroup [] [] [e.dest] false ∧ t.side = s.side ∧
      (∀ k a, Memory.get (t.teamAt k).pool a = Memory.get (s.teamAt k).pool a) ∧
      (∀ k j, (k, j) ≠ (s.cur.ctx, s.cur.grp) → t.groupAt k j = s.groupAt k j) ∧ t.ops = s.ops ∧ t.tfs = s.tfs

/-- What stops a vector word, move, lane, packing, four-operand, floating-point, conversion, comparing and cross-lane words
among them: a prefix that may not stand on it, with rounding code 111, a reserved permutation, an amount where none may
stand, or a fourth operand that is no selector, traps ILLEGAL_INSTRUCTION; then a register at or above the budget traps
REGBOUND; then a poisoned source ends the team with DATA_POISON. Nothing is written (R65, R164, R218, R219, R262, R263).
That DETAIL names the first such register is the model's choice (assumption 21). -/
def Obligations.VectorTraps : Prop :=
  ∀ (i : Instr) (s : State) (n : Nat) (named sources : List Nat), vectorRegs s i = some (n, named, sources) →
    let c := s.vecCtx
    (badForm c i → exec i s = .next (s.trapWith ⟨n, true⟩ 0x01 0 0 0 s.trapRet)) ∧
    (∀ r, ¬ badForm c i → named.find? (fun n => decide (c.g.budget ≤ n)) = some r →
      exec i s = .next (s.trapWith ⟨n, true⟩ 0x05 (BitVec.ofNat 32 r) 0 0 s.trapRet)) ∧
    (¬ badForm c i → (∀ n ∈ named, n < c.g.budget) → (∃ n ∈ sources, n ∈ c.g.vPoison) →
      exec i s = .next (((s.charge ⟨n, true⟩).stampIssue).faultParty s.cur (bareFault 0x17 0)))

/-- The saturating words (R185, R250): each element of each active lane takes the exact sum or difference clamped to the
element's range, and FSTAT.SAT is set when an active element clamps. -/
def Obligations.SaturatingWords : Prop :=
  ∀ (i : Instr) (s : State) (sg sub : Bool) (w : Nat) (k : BitVec 1) (d a : BitVec 7) (b : BitVec 8),
    satTable i = some (sg, sub, w, k, d, a, b) →
    let c := s.vecCtx
    let x (l : Nat) : Word := c.srcA a l
    let y (l : Nat) : Word := c.opB sg w k b l
    let clamps (l j : Nat) : Prop := satTop sg w < satExact sg sub w (x l) (y l) j ∨ satExact sg sub w (x l) (y l) j < satLow sg w
    prefixOk true c.pre = true → c.regsOk (d.toNat :: a.toNat :: bRegs k b) (a.toNat :: bRegs k b) →
    ∃ (f : Nat → Word) (sat : Bool),
      (∀ l j, j < 32 / w → elemOf sg w (f l) j = max (satLow sg w) (min (satTop sg w) (satExact sg sub w (x l) (y l) j))) ∧
      (sat = true ↔ ∃ l < c.g.width, c.act.getLsbD l = true ∧ ∃ j < 32 / w, clamps l j) ∧
      exec i s = .next ((s.mapCur fun g =>
        { (g.writeLanes d.toNat fun l => if c.act.getLsbD l then some (f l) else if c.z then some 0 else none) with
          fstat := if sat then g.fstat ||| 32 else g.fstat }).issued ⟨1, true⟩)

/-- VCMP and VBALLOT write one bit for each lane to a mask register (R252, R253, R263); VFCMP does so too, with its IV
flag (R258), when MODE does not enable it. -/
def Obligations.CompareWords : Prop :=
  (∀ (s : State) (k : BitVec 1) (cc : BitVec 3) (m : BitVec 4) (a : BitVec 7) (b : BitVec 8),
    let c := s.vecCtx
    cc.toNat < 6 → prefixOk true c.pre = true → c.regsOk (a.toNat :: bRegs k b) (a.toNat :: bRegs k b) →
    ∃ v : DWord, (∀ l < 64, v.getLsbD l =
        c.maskBit m (fun l => compareHolds cc (c.srcA a l) (c.opB (decide (cc.toNat < 4)) 32 k b l)) l) ∧
      s.WritesMask (exec (.vcmp k cc m a b) s) m v ⟨1, true⟩) ∧
  (∀ (s : State) (m : BitVec 4) (a : BitVec 7),
    let c := s.vecCtx
    prefixOk true c.pre = true → c.regsOk [a.toNat] [a.toNat] →
    ∃ v : DWord, (∀ l < 64, v.getLsbD l = c.maskBit m (fun l => decide (c.srcA a l ≠ 0)) l) ∧
      s.WritesMask (exec (.vballot m a) s) m v ⟨1, true⟩) ∧
  (∀ (s : State) (cc : BitVec 3) (m : BitVec 4) (a : BitVec 7) (b : BitVec 8),
    let c := s.vecCtx
    let x (l : Nat) : FVal := c.fval .fp32 (c.srcA a l) 0
    let y (l : Nat) : FVal := c.fval .fp32 (c.sel b l) 0
    let flags := c.lanes.foldl (fun f l => f ||| fcompareFlags cc (x l) (y l)) 0
    cc.toNat < 6 → prefixOk true c.pre = true → c.regsOk (a.toNat :: selRegs b) (a.toNat :: selRegs b) → s.quiet flags →
    ∃ v : DWord, (∀ l < 64, v.getLsbD l = c.maskBit m (fun l => fcompareHolds cc (x l) (y l)) l) ∧
      (s.withFlags false flags).WritesMask (exec (.vfcmp cc m a b) s) m v ⟨2, true⟩)

/-- VRDX reads, and VWRX writes, each active lane's own lane of the register that the lane names, unless an active
lane names one at or above the budget: then REGBOUND, with no effect (R254). That DETAIL holds the lowest such lane's
index is the model's reading (assumption 20). -/
def Obligations.IndirectWords : Prop :=
  ∀ (s : State) (k : BitVec 1) (d a : BitVec 7) (b : BitVec 8),
    let c := s.vecCtx
    let at' := c.indexAt k a b
    prefixOk true c.pre = true → c.regsOk (d.toNat :: a.toNat :: bRegs k b) (d.toNat :: a.toNat :: bRegs k b) →
    ((∀ l ∈ c.lanes, at' l < c.g.budget) →
      ((∀ l ∈ c.lanes, at' l ∉ c.g.vPoison) →
        exec (.vrdx k d a b) s = .next ((s.mapCur fun g => g.writeLanes d.toNat fun l =>
          if c.act.getLsbD l then some (s.curGroup.lane (at' l) l) else if c.z then some 0 else none).issued ⟨1, true⟩)) ∧
      (s.curGroup.v.length = 128 → s.curGroup.budget ≤ 128 → s.running →
        ∃ t, exec (.vwrx k d a b) s = .next t ∧
          (∀ n l, n < 128 → l < c.g.width →
            t.curGroup.lane n l = if c.act.getLsbD l ∧ at' l = n then s.curGroup.lane d.toNat l else s.curGroup.lane n l) ∧
          (∀ n, (∀ l ∈ c.lanes, at' l ≠ n) → t.curGroup.v.getD n .zero = s.curGroup.v.getD n .zero) ∧
          s.curGroup.sameBut t.curGroup [] [] (c.lanes.map at') false ∧ t.side = s.side)) ∧
    (∀ l rest, c.lanes.filter (fun l => decide (c.g.budget ≤ at' l)) = l :: rest →
      exec (.vrdx k d a b) s =
        .next (s.trapWith ⟨1, true⟩ 0x05 (BitVec.ofNat 32 (at' l)) 0 (maskOf (l :: rest)) s.trapRet) ∧
      exec (.vwrx k d a b) s =
        .next (s.trapWith ⟨1, true⟩ 0x05 (BitVec.ofNat 32 (at' l)) 0 (maskOf (l :: rest)) s.trapRet))

/-- VDEAD gives each register of its run format 4 in every lane (R60, R255); VEXTR moves one lane to a scalar
register, and VINS writes a scalar to each lane that its own b names (R263; that b is read lane by lane is the model's
reading, assumption 115). -/
def Obligations.DeadExtractInsert : Prop :=
  (∀ (s : State) (d : BitVec 7) (n : BitVec 8), prefixOk false s.vecCtx.pre = true →
    d.toNat + n.toNat < 128 → d.toNat + n.toNat < s.curGroup.budget → s.running → s.curGroup.v.length = 128 →
    ∃ t, exec (.vdead d n) s = .next t ∧
      (∀ r, d.toNat ≤ r → r ≤ d.toNat + n.toNat → t.curGroup.v.getD r .zero = .zero ∧ r ∉ t.curGroup.vPoison) ∧
      s.curGroup.sameBut t.curGroup [] [] (rangeFrom d.toNat (n.toNat + 1)) false ∧ t.side = s.side) ∧
  (∀ (s : State) (k : BitVec 1) (d : BitVec 5) (a : BitVec 7) (b : BitVec 8),
    let c := s.vecCtx
    let n := (if k = 1 then b.toNat else (c.sel b 0).toNat) % c.g.width
    prefixOk true c.pre = true → c.regsOk [a.toNat] [a.toNat] →
    exec (.vextr k d a b) s = .next ((s.writeS d.toNat ((c.srcA a n).setWidth 64)).issued ⟨1, true⟩)) ∧
  (∀ (s : State) (k : BitVec 1) (d : BitVec 7) (a : BitVec 5) (b : BitVec 8),
    let c := s.vecCtx
    let n (l : Nat) := (if k = 1 then b.toNat else (c.sel b l).toNat) % c.g.width
    prefixOk false c.pre = true → c.z = false → c.regsOk (d.toNat :: bRegs k b) (bRegs k b) →
    exec (.vins k d a b) s = .next ((s.mapCur fun g => g.writeLanes d.toNat fun l =>
      if l = n l ∧ c.act.getLsbD l = true then some ((s.curGroup.s.getD a.toNat 0).setWidth 32) else none).issued ⟨1, true⟩))

/-! ## Floating point -/

/-- The floating-point words complete when no exception that MODE enables arises: each active lane takes its elements'
results, FSTAT takes the flags of every active element, and RSEQ advances under RSTOCH (R190, R191, R201, R256, R259,
R262). VFMA reads its fourth operand (R218). An exception that MODE enables, in any active element: FSTAT takes every
active element's flags, no lane is written, and the word traps FP_EXCEPTION with the enabled flags that arose and the
lanes that raised one (R201). -/
def Obligations.FpWords : Prop :=
  (∀ (i : Instr) (s : State) (e : FEffect),
     let c := s.vecCtx
     (fpTable s i = some e ∨ fmaTable s i = some e ∧ (c.hasPre = true → selOkV c.pre.fourth = true)) →
     prefixOk true c.pre = true → c.regsOk (e.dest :: e.reads) e.reads → s.quiet (e.flags c) →
     exec i s = .next (((s.withFlags e.rounds (e.flags c)).mapCur fun g => g.writeLanes e.dest fun l =>
       if c.act.getLsbD l then some (e.word l) else if c.z then some 0 else none).issued ⟨e.energy, true⟩)) ∧
  ∀ (i : Instr) (s : State) (e : FEffect),
    let c := s.vecCtx
    let en := (s.curMode.extractLsb' 7 5).toNat
    (fpTable s i = some e ∨ fmaTable s i = some e ∧ (c.hasPre = true → selOkV c.pre.fourth = true)) →
    prefixOk true c.pre = true → c.regsOk (e.dest :: e.reads) e.reads → ¬ s.quiet (e.flags c) →
    exec i s = .next ((s.withFlags e.rounds (e.flags c)).trapWith ⟨e.energy, true⟩ 0x07
      (BitVec.ofNat 32 (e.flags c &&& en)) 0 (maskOf (c.lanes.filter fun l => e.laneFlags l &&& en != 0)) s.trapRet)

/-- VCVT converts the elements of its group, and VQUANT the blocks of 32 FP32 values, when no enabled exception arises
(R260, R262): lanes of the destinations, flags, and RSEQ. The scale of a block reads its values under DAZ; that its
elements are read without DAZ is the model's reading of R192 (assumption 112). That a prefix permutes the lanes of va + 1
as it does those of va in width 16, and that VCVT from LG8 into an integer format rounds by the effective mode, are the
model's choices (assumptions 133 and 110). -/
def Obligations.ConversionWords : Prop :=
  (∀ (s : State) (g : BitVec 2) (d a : BitVec 7) (t q : BitVec 4),
    let c := s.vecCtx
    let one (l : Nat) : Word × Nat :=
      cvtLane s c (numFmt q.toNat) (numFmt t.toNat) g.toNat l (c.srcA a l) (s.curGroup.lane d.toNat l)
    let flags := c.lanes.foldl (fun f l => f ||| (one l).2) 0
    let narrows := (numFmt t.toNat).width < (numFmt q.toNat).width
    prefixOk true c.pre = true →
    c.regsOk [d.toNat, a.toNat] (if narrows then [d.toNat, a.toNat] else [a.toNat]) → s.quiet flags →
    exec (.vcvt g d a t q) s = .next (((s.withFlags (cvtRounds (numFmt q.toNat) (numFmt t.toNat)) flags).mapCur fun g =>
      g.writeLanes d.toNat fun l => if c.act.getLsbD l then some (one l).1 else if c.z then some 0 else none).issued ⟨2, true⟩)) ∧
  (∀ (s : State) (i : Instr) (f : Fmt) (d a : BitVec 7),
    (i = .vquantE4m3 d a ∧ f = .e4m3 ∨ i = .vquantE5m2 d a ∧ f = .e5m2 ∨ i = .vquantE2m1 d a ∧ f = .e2m1) →
    let c := s.vecCtx
    let lane (j l : Nat) : Word := c.g.lane (a.toNat + j) (c.permLane l)
    let x (j l : Nat) : FVal := c.fval .fp32 (lane j l) 0
    let code (l : Nat) : Nat :=
      if c.g.width = 16 then blockScale f ([0, 1].flatMap fun j => c.lanes.map (x j))
      else blockScale f ((c.lanes.filter fun k => k / 32 == l / 32).map (x 0))
    let one (j l : Nat) : FRes := quantElem f (s.fenv c f l j) (code l) (Fmt.fp32.decode false (lane j l).toNat)
    let put (j l : Nat) : Option Word :=
      if c.act.getLsbD l then some (BitVec.ofNat 32 (one j l).bits) else if c.z then some 0 else none
    prefixOk true c.pre = true → c.g.width ∈ [16, 32, 64] →
    (c.g.width ≠ 16 →
      let flags := c.lanes.foldl (fun f l => f ||| (one 0 l).flags) 0
      c.regsOk [d.toNat, a.toNat] [a.toNat] → s.quiet flags →
      exec i s = .next (((s.withFlags true flags).mapCur fun g => g.writeLanes d.toNat (put 0)).issued ⟨2, true⟩)) ∧
    (c.g.width = 16 →
      let flags := c.lanes.foldl (fun f l => f ||| (one 0 l).flags ||| (one 1 l).flags) 0
      d.toNat < 127 → a.toNat < 127 → c.regsOk [d.toNat, d.toNat + 1, a.toNat, a.toNat + 1] [a.toNat, a.toNat + 1] →
      s.quiet flags →
      exec i s = .next (((s.withFlags true flags).mapCur fun g =>
        (g.writeLanes d.toNat (put 0)).writeLanes (d.toNat + 1) (put 1)).issued ⟨2, true⟩)))

/-- A finite value that a format holds is rounded to its own code, with no flag, in every rounding mode (R189, R191). -/
def Obligations.RoundExact : Prop :=
  ∀ (f : Fmt) (v : FEnv) (bits : Nat) (neg : Bool) (m : Nat) (e : Int),
    f ∈ [Fmt.fp32, .fp16, .bf16, .e4m3, .e5m2, .e2m1] → bits < 2 ^ f.width → v.ftz = false →
    f.decode false bits = .fin neg m e → f.round v neg m e false = { bits := bits, flags := 0 }

/-! ## Cross-lane words -/

/-- VRED and VSCAN fold the active lanes in ascending order from the first one's value (R264): VRED writes the last
value, or the identity, to every active lane or to s(d); VSCAN and VSCAN.EX write to each active lane the value after
it or before it. VREDMI finds the smallest unsigned value among the active lanes, and the lowest lane that holds it; both
results are all ones when no lane is active (R265). -/
def Obligations.ReductionWords : Prop :=
  (∀ (s : State) (d : BitVec 7) (n : BitVec 5) (a : BitVec 7) (o : BitVec 8),
     let c := s.vecCtx
     let k := o.toNat
     let flags := foldFlags s c k a
     let t := if 8 ≤ k then s.withFlags (k == 8) flags else s
     let total := (foldOver s c k a c.lanes).getD (foldIdentity k)
     let put (f : Nat → Word) (l : Nat) : Option Word := if c.act.getLsbD l then some (f l) else if c.z then some 0 else none
     k ≤ 10 → prefixOk true c.pre = true → c.regsOk [d.toNat, a.toNat] [a.toNat] → (8 ≤ k → s.quiet flags) →
     exec (.vred d a o) s = .next ((t.mapCur fun g => g.writeLanes d.toNat (put fun _ => total)).issued ⟨1, true⟩) ∧
     exec (.vredScalar n a o) s = .next ((t.writeS n.toNat (total.setWidth 64)).issued ⟨1, true⟩) ∧
     exec (.vscan d a o) s = .next ((t.mapCur fun g => g.writeLanes d.toNat (put fun l =>
       (foldOver s c k a (c.lanes.filter fun j => decide (j ≤ l))).getD 0)).issued ⟨1, true⟩) ∧
     exec (.vscanEx d a o) s = .next ((t.mapCur fun g => g.writeLanes d.toNat (put fun l =>
       (foldOver s c k a (c.lanes.filter fun j => decide (j < l))).getD (foldIdentity k))).issued ⟨1, true⟩)) ∧
  ∀ (s : State) (d : BitVec 7) (n : BitVec 5) (a : BitVec 7),
    let c := s.vecCtx
    prefixOk true c.pre = true → c.g.width ≤ 64 →
    ∃ (v x : Word),
      (c.lanes = [] → v = 0xFFFFFFFF ∧ x = 0xFFFFFFFF) ∧
      (c.lanes ≠ [] → x.toNat ∈ c.lanes ∧ c.srcA a x.toNat = v ∧
        ∀ k ∈ c.lanes, v.toNat ≤ (c.srcA a k).toNat ∧ (c.srcA a k = v → x.toNat ≤ k)) ∧
      (c.regsOk [a.toNat] [a.toNat] →
        exec (.vredmiScalar n a) s =
          .next (((s.writeS n.toNat (v.setWidth 64)).writeS (n.toNat + 1) (x.setWidth 64)).issued ⟨1, true⟩)) ∧
      (c.regsOk [d.toNat, d.toNat + 1, a.toNat] [a.toNat] →
        exec (.vredmi d a) s = .next ((s.mapCur fun g =>
          (g.writeLanes d.toNat fun l => if c.act.getLsbD l then some v else if c.z then some 0 else none).writeLanes
            (d.toNat + 1) fun l => if c.act.getLsbD l then some x else if c.z then some 0 else none).issued ⟨1, true⟩))

/-! ## Memory words -/

/-- Where LD, LDP, LDCL, LDS, ST, STP, STS, ATOM, ATOMP and ATOMC stop, in the order of R267, with no access of any lane:
a prefix or run that may not stand traps ILLEGAL_INSTRUCTION; after PURITY, a register past the budget traps REGBOUND and a
poisoned one ends the team with DATA_POISON; the first lane whose address is not canonical ends it with NONCANONICAL (R11),
the first whose translation faults with that fault (R12), such as PROTECTION where the leaf lacks the permission of Table
01-5 (R24), and the first that leaves the pool window or the cluster pool with PROTECTION (R40, R41, R46); then a strong
word with a lane that is not aligned traps MISALIGNED (R93). That a pool record gives the offset as VA is the model's
choice (assumptions 105 and 106), as is DETAIL of REGBOUND (assumption 21). -/
def Obligations.MemoryWordTraps : Prop :=
  (∀ (i : Instr) (s : State) (m : MemWord), memTable s i = some m →
    let c := s.vecCtx
    (¬ m.ok → exec i s = .next (s.trapWith m.energy 0x01 0 0 0 s.trapRet)) ∧
    ∀ p, m.ok → m.pure s = .ok () p →
      let ends (t : State) (f : FaultInfo) : Prop := exec i s = .next (((t.charge m.energy).stampIssue).faultParty t.cur f)
      let at' (cause : Byte) (va : DWord) : FaultInfo :=
        { cause := cause, va := va, entry := 0, level := 0xFF, acc := m.bits, detail := 0 }
      let bad := m.lanes.filter fun x => x.2.toNat % m.bytes != 0
      let misaligned (t : State) : Prop := exec i s = .next (t.trapWith m.energy 0x06 (BitVec.ofNat 32 m.bytes)
        ((bad.map (·.2)).headD 0) (maskOf (bad.map (·.1))) s.trapRet)
      let inPool (x : Nat × DWord) : Bool := p.myTeam.inData x.2.toNat m.bytes
      let inCluster (x : Nat × DWord) : Bool := (p.clusterRun p.cur.ctx x.2 m.bytes).isSome
      (∀ r, m.named.find? (fun n => decide (c.g.budget ≤ n)) = some r →
        exec i s = .next (p.trapWith m.energy 0x05 (BitVec.ofNat 32 r) 0 0 s.trapRet)) ∧
      ((∀ n ∈ m.named, n < c.g.budget) → (∃ n ∈ m.sources, n ∈ c.g.vPoison) → ends p (bareFault 0x17 0)) ∧
      (c.regsOk m.named m.sources →
        (m.space = .tenant → ∀ pre x post ps t, m.lanes = pre ++ x :: post → pre.mapM m.plan p = .ok ps t →
          (x.2.extractLsb' 57 7 ≠ (if x.2.getLsbD 56 then 0x7F else 0) → ends t (at' 0x10 x.2)) ∧
          (∀ f u, translate (t.tfOf t.cur.ctx) (t.coreOf t.cur.ctx) (some t.cur.ctx) x.2 (m.access x.2) t = .error (.fault f) u →
            ends u f)) ∧
        (m.space = .pool → ∀ x, m.lanes.find? (fun x => !inPool x) = some x → ends p (at' 0x12 x.2)) ∧
        (m.space = .cluster → ∀ x, m.lanes.find? (fun x => !inCluster x) = some x → ends p (at' 0x12 x.2)) ∧
        (m.aligned → bad ≠ [] →
          (m.space = .tenant → ∀ ps t, m.lanes.mapM m.plan p = .ok ps t → misaligned t) ∧
          (m.space = .pool → (∀ x ∈ m.lanes, inPool x = true) → misaligned p) ∧
          (m.space = .cluster → (∀ x ∈ m.lanes, inCluster x = true) → misaligned p)))) ∧
  ∀ (s : State) (t core : Nat) (who : Option Nat) (va : DWord) (a : Access) (level tbl : Nat) (last : DWord) (lastLevel : Byte),
    let e := Memory.readLe s.side.mem (tbl + 8 * (va.toNat / 2 ^ (9 * level + 12) % 512)) 8
    tbl < Config.hbmBytes → (s.window t tbl).1 = true → level ≤ 2 → e.testBit 0 = true → e.testBit 1 = false →
    a.any = false → (a.r = true ∧ e.testBit 3 = false ∨ a.w = true ∧ e.testBit 4 = false ∨ a.x = true ∧ e.testBit 5 = false) →
    walkFrom t core who va a level tbl last lastLevel s = .error (.fault
      { cause := 0x12, va := va, entry := BitVec.ofNat 64 e, level := BitVec.ofNat 8 level, acc := a.bits, detail := 0
        walk := a, who := who }) s

/-- LD, LDP, LDCL and LDS complete where their prefix stands, their registers are in order, the flag can count and
every access succeeds (R267 to R270), PURITY's first (R346): each active lane's run takes the bytes read at its
address, extended from the loaded width, and an operation is under way on the flag; with no active lane nothing is read,
poison is not consumed, and the flag counts and drops at once. That a load reads its bytes and writes its register at
issue is the model's choice (assumption 11). -/
def Obligations.LoadWords : Prop :=
  (∀ (s p t : State) (i : Instr) (sp : Space) (f nt : BitVec 1) (z k : BitVec 2) (d o : BitVec 7) (b : BitVec 5)
      (vals : List (Nat × List Byte)),
    (i = .ld f z d o b k nt ∧ sp = .tenant ∨ i = .ldp f z d o b k nt ∧ sp = .pool ∨
      i = .ldcl f z d o b k nt ∧ sp = .cluster) →
    let c := s.vecCtx
    let m := s.formOf .load sp nt
    let regs := memRegs z m.w16
    let lanes := s.lanesAt b o k.toNat
    c.memOk .load (z == 3) (decide (z.toNat < 2)) false → d.toNat + regs ≤ 128 →
    c.regsOk ((List.range regs).map (d.toNat + ·) ++ [o.toNat]) (if lanes = [] then [] else [o.toNat]) →
    loadPure sp (memBytes z m.w16) lanes s = .ok () p → loadFrom sp m (memBytes z m.w16) lanes p = .ok vals t →
    t.flagRoom f →
    exec i s = .next (((t.withRun c d.toNat regs fun l j => loadedLane m.sx (look vals l []) j).memOp f .load
      lanes.isEmpty).issued ⟨4, true⟩)) ∧
  (∀ (s t u : State) (f nt : BitVec 1) (z k : BitVec 2) (d : BitVec 5) (o : BitVec 7) (b : BitVec 5) (bs : List Byte) (l : Nat),
    let m := s.formOf .load .tenant nt
    let a := s.curGroup.s.getD b.toNat 0 + o.signExtend 64 <<< k.toNat
    s.vecCtx.memOk .load false (decide (z.toNat < 2)) true →
    pureLanes (s.badTenant false (2 ^ z.toNat) [(partyLane, a)]) s = .ok () t →
    tenantLoad m (2 ^ z.toNat) [(partyLane, a)] t = .ok [(l, bs)] u → bs.length = 2 ^ z.toNat → u.flagRoom f →
    exec (.lds f z d o b k nt) s = .next (((u.writeS d.toNat
      (if m.sx then (le64 bs <<< (64 - 8 * bs.length)).sshiftRight (64 - 8 * bs.length) else le64 bs)).opUnder f .load).issued
        ⟨4, false⟩))

/-- ST, STP and STS complete likewise (R267 to R271): the stored bytes are each active lane's registers,
little-endian. A plain store to the pool window changes no byte of memory at its issue: it joins its group's queue
(R97), every register, flag but its own, mode and special register staying as it is. That the store waits in that queue
until its operation completes, and performs then, is the model's choice (assumption 12). -/
def Obligations.StoreWords : Prop :=
  (∀ (s p t : State) (i : Instr) (sp : Space) (f nt : BitVec 1) (z k : BitVec 2) (d o : BitVec 7) (b : BitVec 5) (kind : OpKind),
    (i = .st f z d o b k nt ∧ sp = .tenant ∨ i = .stp f z d o b k nt ∧ sp = .pool) →
    let c := s.vecCtx
    let m := s.formOf .store sp nt
    let regs := memRegs z m.w16
    let n := memBytes z m.w16
    let lanes := s.lanesAt b o k.toNat
    c.memOk .store (z == 3) false false → d.toNat + regs ≤ 128 →
    c.regsOk ((List.range regs).map (d.toNat + ·) ++ [o.toNat])
      (if lanes = [] then [] else (List.range regs).map (d.toNat + ·) ++ [o.toNat]) →
    storePure sp n lanes s = .ok () p → storeTo sp m n lanes (s.storedBytes d.toNat regs n) p = .ok kind t → t.flagRoom f →
    exec i s = .next ((t.memOp f kind lanes.isEmpty).issued ⟨4, true⟩)) ∧
  (∀ (s p t : State) (f nt : BitVec 1) (z k : BitVec 2) (d : BitVec 5) (o : BitVec 7) (b : BitVec 5) (kind : OpKind),
    let m := s.formOf .store .tenant nt
    let lanes := [(partyLane, s.curGroup.s.getD b.toNat 0 + o.signExtend 64 <<< k.toNat)]
    s.vecCtx.memOk .store false false true → storePure .tenant (2 ^ z.toNat) lanes s = .ok () p →
    storeTo .tenant m (2 ^ z.toNat) lanes
      (fun _ => (List.range (2 ^ z.toNat)).map fun i => (s.curGroup.s.getD d.toNat 0).extractLsb' (8 * i) 8) p = .ok kind t →
    t.flagRoom f →
    exec (.sts f z d o b k nt) s = .next ((t.opUnder f kind).issued ⟨4, false⟩)) ∧
  (∀ (s : State) (f nt : BitVec 1) (z k : BitVec 2) (d o : BitVec 7) (b : BitVec 5),
    let n := 2 ^ z.toNat
    let regs := memRegs z false
    let lanes := s.lanesAt b o k.toNat
    s.running → s.curPrefix = none → s.mm1 s.cur.ctx = false → lanes ≠ [] → d.toNat + regs ≤ 128 →
    s.vecCtx.regsOk ((List.range regs).map (d.toNat + ·) ++ [o.toNat]) ((List.range regs).map (d.toNat + ·) ++ [o.toNat]) →
    (∀ x ∈ lanes, (s.teamAt s.cur.ctx).inData x.2.toNat n = true) → s.moving s.cur.ctx = false → s.flagRoom f →
    ∃ t, exec (.stp f z d o b k nt) s = .next t ∧ t.side = s.side ∧
      (∀ c a, Memory.get (t.teamAt c).pool a = Memory.get (s.teamAt c).pool a) ∧
      t.curGroup.sq = s.curGroup.sq ++ [
        { op := s.stamp, pool := true, cl := 0, wp := 0, prio := 0
          writes := lanes.map fun x => (x.2.toNat, s.storedBytes d.toNat regs n x.1) }] ∧
      t.curGroup.s = s.curGroup.s ∧ t.curGroup.m = s.curGroup.m ∧ t.curGroup.v = s.curGroup.v ∧
      t.curGroup.mode = s.curGroup.mode ∧ t.curGroup.fstat = s.curGroup.fstat ∧ t.curGroup.trap = s.curGroup.trap ∧
      (∀ n, s.flagOf f ≠ some n → t.curGroup.flags.getD n 0 = s.curGroup.flags.getD n 0))

/-- MEMORY_ACCESS_COMPLETE (R97, R210): a load, an atomic or a cache word drops its flag. A store of the pool window,
oldest in its queue, then writes exactly its bytes there, and drops its flag; a plain store of tenant memory under
write-through (Table 03-3) writes exactly its bytes at the home slice. A store through an aperture that performed in
the L1 or in a combining buffer drops its flag and awaits the peer; what the core holds then leaves for the peer,
whose answer ends the operation. FABRIC_REJECTION of an access through an aperture ends the team with the record of
its address, and does nothing to any other operation (R29). -/
def Obligations.MemoryCompletes : Prop :=
  (∀ (s : State) (o : Op), s.memoryOp o.id = some o →
    (o.kind = .load ∨ o.kind = .atomic ∨ o.kind = .cacheHint ∨ ∃ va, o.kind = .peerAtomic va) →
    exec (.memoryAccessComplete o.id) s = .next (s.finishOp o)) ∧
  (∀ (s : State) (o : Op) (near : Bool) (q : QueuedStore) (a : Nat) (bs : List Byte), s.Inv → s.memoryOp o.id = some o →
    o.kind = .store none near → s.hasGroup o.ctx o.grp = true → (s.groupAt o.ctx o.grp).parties ≠ [] →
    (s.groupAt o.ctx o.grp).sq = [q] → q.op = o.id → q.writes = [(a, bs)] →
    (q.pool = true → (s.teams.any fun t => t.ctx == o.ctx) = true → (s.teamAt o.ctx).resident = true →
      (s.teamAt o.ctx).unfilled = [] → (s.teamAt o.ctx).leaving = [] →
      ∃ t, exec (.memoryAccessComplete o.id) s = .next t ∧ t.side.mem = s.side.mem ∧
        (∀ x, Memory.get (t.teamAt o.ctx).pool x =
          if a ≤ x ∧ x < a + bs.length then bs.getD (x - a) 0 else Memory.get (s.teamAt o.ctx).pool x) ∧
        (∀ c x, c ≠ o.ctx → Memory.get (t.teamAt c).pool x = Memory.get (s.teamAt c).pool x) ∧
        (t.groupAt o.ctx o.grp).sq = [] ∧ (∀ p ∈ t.ops, p.id ≠ o.id) ∧
        (∀ n, o.flag = some n → n < 12 →
          (t.groupAt o.ctx o.grp).flags.getD n 0 = (s.groupAt o.ctx o.grp).flags.getD n 0 - 1)) ∧
    (q.pool = false → q.wp = 1 → a + bs.length ≤ Config.hbmBytes →
      (∀ b ∈ s.side.combine, b.ctx ≠ o.ctx ∨ b.grp ≠ o.grp) →
      ∃ t, exec (.memoryAccessComplete o.id) s = .next t ∧
        (∀ x, Memory.get t.side.mem x =
          if a ≤ x ∧ x < a + bs.length then bs.getD (x - a) 0 else Memory.get s.side.mem x) ∧
        (∀ c x, Memory.get (t.teamAt c).pool x = Memory.get (s.teamAt c).pool x))) ∧
  (∀ (s : State) (o : Op) (va : DWord), s.memoryOp o.id = some o →
    let t := s.drainQueue o.ctx o.grp (some o.id)
    (o.kind = .store (some va) true → t.refused o.id = false →
      exec (.memoryAccessComplete o.id) s = .next ((t.mapOp o.id fun o => { o with kind := .posted va, flag := none }).dropFlag
        o.ctx o.grp o.flag)) ∧
    (o.kind = .store (some va) false → t.refused o.id = false →
      exec (.memoryAccessComplete o.id) s = .next (t.finishOp o)) ∧
    (o.kind = .posted va → (s.drainPeers o).refused o.id = false →
      exec (.memoryAccessComplete o.id) s = .next ((s.drainPeers o).finishOp o))) ∧
  (∀ (s : State) (o : Op) (va : DWord), s.opAt o.id = some o → o.peer = some va →
    exec (.fabricRejection o.id) s = .next (((s.drainQueue o.ctx o.grp (some o.id)).faultCtx o.ctx (BitVec.ofNat 8 o.grp)
      { cause := 0x16, va := va, entry := 0, level := 0xFF, acc := o.peerAcc, detail := 0 }).finishOp o)) ∧
  (∀ (s : State) (o : Op), s.opAt o.id = some o → o.peer = none → exec (.fabricRejection o.id) s = .next s)

/-- ATOM, ATOMP and ATOMC complete where their prefix stands, their registers are in order and every access succeeds
(R272 to R274): each active lane's run takes the old value. Table 08-9's operations, modulo the width. A plain ATOMP of
one lane changes exactly the bytes at its address. That an atomic performs at issue is the model's choice (assumption
12). -/
def Obligations.AtomicWords : Prop :=
  (∀ (s p t : State) (i : Instr) (sp : Space) (code : Nat) (w f : BitVec 1) (d o : BitVec 7) (b : BitVec 5)
      (olds : List (Nat × Nat)),
    atomTable i = some (sp, code, w, f, d, o, b) →
    let c := s.vecCtx
    let regs := w.toNat + 1
    let lanes := s.lanesAt b o 0
    let x (l : Nat) : Nat := s.atomSource d.toNat regs l
    c.memOk .atomic false false false →
    c.regsOk ((List.range regs).map (d.toNat + ·) ++ [o.toNat])
      (if lanes = [] then [] else (List.range regs).map (d.toNat + ·) ++ [o.toNat]) →
    atomicPure sp lanes s = .ok () p →
    atomicOn sp (s.formOf .atomic sp 0) code (4 * regs) lanes (fun l => [x l])
      (fun l old => some (atomOp code (4 * regs) old (x l))) p = .ok olds t →
    t.flagRoom f →
    exec i s = .next (((t.withRun c d.toNat regs fun l j => BitVec.ofNat 32 (look olds l 0 / 2 ^ (32 * j))).memOp f .atomic
      lanes.isEmpty).issued ⟨4, true⟩)) ∧
  (∀ (s p t : State) (f : BitVec 1) (z : BitVec 2) (d o : BitVec 7) (b : BitVec 5) (olds : List (Nat × Nat)),
    let c := s.vecCtx
    let k := 2 ^ z.toNat
    let lanes := s.lanesAt b o 0
    let num (r l : Nat) : Nat := ((List.range k).map fun j => (s.curGroup.lane (r + j) l).toNat * 2 ^ (32 * j)).sum
    let new := num d.toNat
    let cmp := num (d.toNat + k)
    c.memOk .atomic false false false →
    c.regsOk ((List.range (3 * k)).map (d.toNat + ·) ++ [o.toNat])
      (if lanes = [] then [] else (List.range (2 * k)).map (d.toNat + ·) ++ [o.toNat]) →
    atomicPure .tenant lanes s = .ok () p →
    atomicOn .tenant (s.formOf .atomic .tenant 0) 16 (4 * k) lanes (fun l => [cmp l, new l])
      (fun l old => if old = cmp l then some (new l) else none) p = .ok olds t →
    t.flagRoom f →
    exec (.atomc f z d o b) s = .next (((t.withRun c (d.toNat + 2 * k) k fun l j =>
      BitVec.ofNat 32 (look olds l 0 / 2 ^ (32 * j))).memOp f .atomic lanes.isEmpty).issued ⟨4, true⟩)) ∧
  (∀ code, code < 9 → (∀ x y : BitVec 32, atomOp code 4 x.toNat y.toNat = (atomOn code x y).toNat) ∧
    ∀ x y : BitVec 64, atomOp code 8 x.toNat y.toNat = (atomOn code x y).toNat) ∧
  (∀ (s : State) (i : Instr) (code : Nat) (w f : BitVec 1) (d o : BitVec 7) (b : BitVec 5) (l : Nat) (a : DWord),
    atomTable i = some (.pool, code, w, f, d, o, b) →
    let n := 4 * (w.toNat + 1)
    let old := Memory.readLe (s.teamAt s.cur.ctx).pool a.toNat n
    s.Inv → s.running → s.curPrefix = none → s.mm1 s.cur.ctx = false → s.curGroup.sq = [] → s.lanesAt b o 0 = [(l, a)] →
    s.vecCtx.regsOk ((List.range (w.toNat + 1)).map (d.toNat + ·) ++ [o.toNat])
      ((List.range (w.toNat + 1)).map (d.toNat + ·) ++ [o.toNat]) →
    (s.teamAt s.cur.ctx).inData a.toNat n = true → a.toNat % n = 0 → s.moving s.cur.ctx = false →
    (∀ p ∈ (s.teamAt s.cur.ctx).poison, p < a.toNat ∨ a.toNat + n ≤ p) → s.flagRoom f →
    ∃ t, exec i s = .next t ∧ t.curGroup.lane d.toNat l = BitVec.ofNat 32 old ∧
      (∀ x, Memory.get (t.teamAt s.cur.ctx).pool x =
        if a.toNat ≤ x ∧ x < a.toNat + n then
          byteOf (atomOp code n old (s.atomSource d.toNat (w.toNat + 1) l)) (x - a.toNat)
        else Memory.get (s.teamAt s.cur.ctx).pool x) ∧
      t.side.mem = s.side.mem ∧ t.curGroup.s = s.curGroup.s ∧ t.curGroup.m = s.curGroup.m ∧ t.curGroup.mode = s.curGroup.mode ∧
      t.curGroup.fstat = s.curGroup.fstat ∧ (∀ r, r < d.toNat ∨ d.toNat + w.toNat < r → t.curGroup.v.getD r .zero = s.curGroup.v.getD r .zero))

/-- FENCE with no flagless operation and no flagless deferred trap outstanding, and, releasing at .SYS, no access of
its group that a peer has still to acknowledge, sees what flagless operations wrote (R113), drains its group's
combining buffers (R78), and performs its release side, its acquire side or both, at its scope (R107, R121, R276);
PREF and CCTL complete where their registers are in order (R277, R278), the home slice acting on its copy under nt. -/
def Obligations.FenceAndCacheWords : Prop :=
  (∀ (s : State) (o : BitVec 2) (c : BitVec 3), s.flagless s.cur.ctx s.cur.grp = false →
    (∀ d ∈ s.curGroup.deferred, d.flag ≠ none) →
    let scope := if s.mm1 s.cur.ctx then max c.toNat 4 else c.toNat
    (o ≠ 1 → scope = 5 → s.awaitsPeers s.cur.ctx s.cur.grp = false) →
    let v := (s.seeLanded s.cur.ctx s.cur.grp fun k => k == 12).drainCombining s.cur.ctx s.cur.grp
    let u := if o = 1 then v else v.releaseActions s.cur.ctx s.cur.grp scope
    exec (.fence o c) s = .next ((if o = 2 then u else u.acquireActions s.cur.ctx scope).issued ⟨4, false⟩)) ∧
  (∀ (s : State) (i : Instr) (l1 : Bool) (f nt : BitVec 1) (o : BitVec 7) (b : BitVec 5) (k : BitVec 2),
    (i = .prefL1 f o b k nt ∧ l1 = true ∨ i = .prefL2 f o b k nt ∧ l1 = false) →
    let t := (s.lanesAt b o k.toNat).foldl (fun t x => t.prefLane l1 (nt == 1) x.2) s
    prefixOk true s.vecCtx.pre = true → s.vecCtx.regsOk [o.toNat] [o.toNat] → t.flagRoom f →
    exec i s = .next ((t.opUnder f .cacheHint).issued ⟨4, true⟩)) ∧
  (∀ (s t : State) (i : Instr) (wb dc : Bool) (f nt : BitVec 1) (o : BitVec 7) (b : BitVec 5) (k : BitVec 2)
      (ts : List (Option Trans)),
    (i = .cctlWb f o b k nt ∧ wb = true ∧ dc = false ∨ i = .cctlDc f o b k nt ∧ wb = false ∧ dc = true ∨
      i = .cctlWbdc f o b k nt ∧ wb = true ∧ dc = true) →
    prefixOk true s.vecCtx.pre = true → s.vecCtx.regsOk [o.toNat] [o.toNat] →
    (s.lanesAt b o k.toNat).mapM cctlTarget s = .ok ts t →
    let u := ts.foldl (fun u x => match x with
      | some y => if inSvc y.pa then u else u.cctlAct wb dc (nt == 1) (y.pa / 256)
      | none => u) t
    u.flagRoom f → exec i s = .next ((u.opUnder f .cacheHint).issued ⟨4, true⟩))

/-! ## The pool and barriers -/

/-- PGROW by n granules, once what may pass to the L1 has passed, takes the lowest that the L1 can spare, zeroed, at the
end of the window; where it has fewer, retained granules follow, in R51's order, shown here for those that are not dirty.
It waits where another request waits or too few are to be had, and ends its team at once with POOL_EXHAUSTED where STALL =
0 forbids the wait and the allocator would not reach it now, or n exceeds 240 or what SHMAX allows; PGROW of 0 answers the size; PSHRINK takes granules off the shared region's end, with
what they hold, for the accesses still under way; PQUERY answers Table 11-6's sizes; PSHARE marks a run that stands in
place and answers its cluster pool address, waits for the Tender's move where the run can be moved, answers all ones
where it cannot, and with a count of 0 ends the sharing of a run, or changes nothing where the offset is not shared (R50
to R52, R54, R68, R280 to R282). That PSHARE of 0 asks for no alignment is the model's choice (assumption 134). -/
def Obligations.PoolSizeWords : Prop :=
  (∀ (s : State) (i : BitVec 1) (d : BitVec 5) (b : BitVec 8),
    let n := (s.opZ i b).toNat
    let gs := s.myTeam.granules
    let len := gs.length
    s.running → s.curGroup.s.length = 32 → (s.teams.any fun t => t.ctx == s.cur.ctx) = true → s.atFirst →
    (n = 0 → exec (.pgrow i d b) s = .next ((s.writeS d.toNat (BitVec.ofNat 64 (4096 * len))).issued ⟨4, false⟩)) ∧
    let core := s.myTeam.core
    let w := s.passAll core
    let fits := n ≤ 240 ∧ len - s.myTeam.sharedAt + n ≤ (s.launchOf s.cur.ctx).shMax
    let exhausted (u : State) : Prop := exec (.pgrow i d b) s =
      .next (((u.charge ⟨4, false⟩).stampIssue).faultParty s.cur (bareFault 0x18 (BitVec.ofNat 32 n)))
    let turn : Prop := s.cur ∈ State.served (w.stalled core ++ [(s.cur, n)]) w
    (0 < n → ¬ fits → exhausted s) ∧
    (0 < n → fits →
      (w.stalled core = [] → n ≤ w.l1Spare core →
        ∃ t, exec (.pgrow i d b) s = .next t ∧
          t.myTeam.granules = gs ++ ((w.l1Granules core).take n).map Granule.inPool ∧
          t.curGroup.s.getD d.toNat 0 = BitVec.ofNat 64 (4096 * (len + n)) ∧
          (∀ x, Memory.get t.myTeam.pool x =
            if 4096 * len ≤ x ∧ x < 4096 * (len + n) then 0 else Memory.get s.myTeam.pool x)) ∧
      (w.stalled core = [] → w.l1Spare core < n → ∀ (old : List (Nat × Nat)) (ps : List Nat),
        old = (w.retainedOn core).take (n - w.l1Spare core) → old.length = n - w.l1Spare core → old.Nodup →
        (∀ x ∈ old, x.1 ≠ s.cur.ctx) →
        old.map (fun x => (w.teamAt x.1).granules.getD x.2 .inBacking) = ps.map Granule.inPool →
        (∀ p ∈ ps, ∃ e, w.poolEntry core p = some e ∧ e.dirty = false) →
        ∃ t, exec (.pgrow i d b) s = .next t ∧
          t.myTeam.granules = gs ++ ((w.l1Granules core).take (w.l1Spare core) ++ ps).map Granule.inPool ∧
          t.curGroup.s.getD d.toNat 0 = BitVec.ofNat 64 (4096 * (len + n)) ∧
          (∀ x, Memory.get t.myTeam.pool x =
            if 4096 * len ≤ x ∧ x < 4096 * (len + n) then 0 else Memory.get s.myTeam.pool x) ∧
          ∀ x ∈ old, (t.teamAt x.1).granules.getD x.2 .inBacking = .inBacking) ∧
      (w.stalled core ≠ [] ∨ w.grantable core < n → (s.launchOf s.cur.ctx).stall = 0 → ¬ turn → exhausted w) ∧
      (w.stalled core ≠ [] ∨ w.grantable core < n → (s.launchOf s.cur.ctx).stall ≠ 0 ∨ turn →
        ∃ t, exec (.pgrow i d b) s = .next t ∧ t.curParty.wait = .pgrow n w.stamp w.us ∧ t.myTeam.granules = gs))) ∧
  (∀ (s : State) (i : BitVec 1) (d : BitVec 5) (b : BitVec 8),
    let gs := s.myTeam.granules
    let keep := gs.length - min (s.opZ i b).toNat (gs.length - s.myTeam.sharedAt)
    s.Inv → s.running → s.curGroup.s.length = 32 → (s.teams.any fun t => t.ctx == s.cur.ctx) = true → s.moving s.cur.ctx = false →
    ∃ t, exec (.pshrink i d b) s = .next t ∧ t.myTeam.granules = gs.take keep ∧
      t.curGroup.s.getD d.toNat 0 = BitVec.ofNat 64 (4096 * keep) ∧
      (∀ k p, gs[keep + k]? = some (.inPool p) → ∃ e ∈ t.myTeam.leaving, e.phys = p ∧ e.wg = keep + k ∧ e.left = s.stamp ∧
        ∀ x, x / 4096 = keep + k → Memory.get e.cells x = Memory.get s.myTeam.pool x) ∧
      (∀ x, x < 4096 * keep → Memory.get t.myTeam.pool x = Memory.get s.myTeam.pool x) ∧ t.side = s.side) ∧
  (∀ (s : State) (d : BitVec 5) (x : BitVec 8), x.toNat < 8 → (6 ≤ x.toNat → (s.launchOf s.cur.ctx).isPure = false) →
    exec (.pquery d x) s = .next ((s.writeS d.toNat (BitVec.ofNat 64 (s.poolSizes.getD x.toNat 0))).issued ⟨4, false⟩)) ∧
  (∀ (s : State) (i : BitVec 1) (d : BitVec 5) (a b : BitVec 8),
    let n := (s.opZ i b).toNat
    let at' := s.selS a
    let wg := at'.toNat / 4096
    (n = 0 → wg ∉ s.myTeam.shared → exec (.pshare i d a b) s = .next (s.issued ⟨4, false⟩)) ∧
    (n = 0 → wg ∈ s.myTeam.shared → s.running → s.curGroup.s.length = 32 → (s.teams.any fun t => t.ctx == s.cur.ctx) = true →
      ∃ t, exec (.pshare i d a b) s = .next t ∧ t.curGroup.s.getD d.toNat 0 = 0 ∧ wg ∉ t.myTeam.shared ∧
        t.myTeam.granules = s.myTeam.granules ∧ t.myTeam.pool = s.myTeam.pool ∧ t.side = s.side) ∧
    (0 < n → n ≤ 240 → at'.toNat % 4096 = 0 → s.myTeam.inData at'.toNat (4096 * n) = true →
      (∀ base, (∀ j < n, s.myTeam.granules.getD (wg + j) .inBacking = .inPool (base + j)) →
        exec (.pshare i d a b) s = .next (((s.markShared s.cur.ctx wg n true).writeS d.toNat
          (BitVec.ofNat 64 (s.myTeam.core % 4 * 2 ^ 20 + base * 4096))).issued ⟨4, false⟩)) ∧
      (s.myTeam.inPlace wg n = none → exec (.pshare i d a b) s = .next (
        if s.canMove s.myTeam wg n then
          ((s.charge ⟨4, false⟩).stampIssue).waitParty s.cur (.pshare d.toNat at'.toNat n)
        else (s.writeS d.toNat (BitVec.allOnes 64)).issued ⟨4, false⟩)) ∧
      ((∃ j < n, wg + j ∈ s.myTeam.shared) → s.canMove s.myTeam wg n = false)))

/-- The barrier words complete where their scope stands and their atomic succeeds (R116, R284 to R286): BARINIT writes
the expected count, BARARR arrives, BARTEST answers how far the phase is past its target, and BARWAIT goes on when it
has reached it, else waits, having issued and charged (R357; the time of the charge is the model's choice, assumption
118), with the place of its word, at which it sees every later write. -/
def Obligations.BarrierWords : Prop :=
  (∀ w : DWord, arrive w.toNat = (barrierArrive w).toNat ∧ ∀ t, lag w.toNat t = barrierLag w t) ∧
  (∀ (s t : State) (d : BitVec 5) (a : BitVec 8) (p : BitVec 1) (c : BitVec 3) (old : Nat), barrierScope p c →
    let v := (s.curGroup.s.getD d.toNat 0).toNat % 2 ^ 16
    barAtomic true true (p == 1) 1 c.toNat [v] (s.selS a) (fun _ => some v) s = .ok old t →
    exec (.barinit d a p c) s = .next (t.issued ⟨4, false⟩)) ∧
  (∀ (s t : State) (a : BitVec 8) (p : BitVec 1) (c : BitVec 3) (old : Nat), barrierScope p c →
    barAtomic true true (p == 1) 16 c.toNat [] (s.selS a) (fun w => some (arrive w)) s = .ok old t →
    exec (.bararr a p c) s = .next (t.issued ⟨4, false⟩)) ∧
  (∀ (s t : State) (d : BitVec 5) (a : BitVec 8) (p : BitVec 1) (c : BitVec 3) (w : DWord), barrierScope p c →
    barAtomic false false (p == 1) 17 c.toNat [] (s.selS a) (fun _ => none) s = .ok w.toNat t →
    let target := (s.curGroup.s.getD d.toNat 0).setWidth 16
    let u := if (barrierLag w target).msb then t else t.acquireActions t.cur.ctx (t.barLevel c.toNat)
    exec (.bartest d a p c) s = .next ((u.writeS d.toNat (barrierLag w target)).issued ⟨4, false⟩) ∧
    (s.atFirst → exec (.barwait d a p c) s = .next (
      if (barrierLag w target).msb then
        ((t.charge ⟨4, false⟩).stampIssue).waitParty t.cur (.barwait (p == 1) (s.selS a) target false
          (if p = 1 then none else t.barPlace s.cur.ctx (s.selS a)))
      else u.issued ⟨4, false⟩)))

/-! ## Words of the engines -/

/-- CPY, CPYIM and CPYGT of a whole group whose descriptor passes Table 11-12's checks arrive at their copy under
their flag (R287 to R289): one operation more. CSEND and CRECV of a task that is not pure issue their operation where
a slot serves, CSEND with its data as it stands, and end ABORTED where none does (R296, R297, R400). CHKW goes on
where the bits are set and waits otherwise; CHKW.T answers which (R294). That a participant finds its copy by team and
descriptor offset, that the copy and collective words charge nothing at issue, and that CHKW charges when it begins to
wait, are the model's choices (assumptions 39, 55 and 118). -/
def Obligations.CopyWords : Prop :=
  (∀ (s : State) (ins : Instr) (kind : Nat) (f : BitVec 1) (d : BitVec 5) (b : BitVec 8) (desc bs : List Byte),
    (ins = .cpy f d b ∧ kind = 0 ∨ ins = .cpyim f d b ∧ kind = 1 ∨ ins = .cpygt f d b ∧ kind = 2) →
    let off := (s.curGroup.s.getD d.toNat 0).toNat
    s.fullMask → s.moving s.cur.ctx = false →
    readCopy s.myTeam (fun a n => s.ownBytes s.cur.ctx s.cur.grp true a (s.poolBytes s.cur.ctx a n)) kind off
      (s.selS b).toNat true = some desc →
    readPool off 64 s = .ok bs s → s.flagRoom f →
    exec ins s = .next ((((s.counted f).engineIssue s.cur.ctx s.cur.grp (dFspace desc == 0 || dTspace desc == 0)).arriveSlice
      s.cur.ctx { offset := off, index := (s.selS b).toNat, grp := s.cur.grp, kind := kind, flag := s.flagOf f,
                  weight := s.weight 7 } desc).issued noEnergy)) ∧
  (∀ (s : State) (ctx : Nat) (x : Slice) (desc : List Byte),
    ∃ o, (s.arriveSlice ctx x desc).ops = s.ops ++ [o] ∧ o.ctx = ctx ∧ o.grp = x.grp ∧ o.flag = x.flag ∧ o.parked = none ∧
      ∃ c, o.kind = .copy c) ∧
  (∀ (s : State) (f : BitVec 1) (d : BitVec 7) (desc : List Byte),
    let off := (s.curGroup.s.getD d.toNat 0).toNat
    (s.launchOf s.cur.ctx).isPure = false → s.fullMask → s.moving s.cur.ctx = false → off % 64 = 0 →
    s.myTeam.inData off 64 = true → readPool off 64 s = .ok desc s → collectiveOk desc = true → s.flagRoom f →
    (let u := s.engineOp f true (.crecv (cSlot desc) (cOp desc) (cBuf desc) (cBytes desc) off) false
     (u.slotServes (u.tfOf u.cur.ctx) (cSlot desc) = true → exec (.crecv f d) s = .next (u.issued noEnergy)) ∧
     (u.slotServes (u.tfOf u.cur.ctx) (cSlot desc) = false → ∃ o, u.opAt s.stamp = some o ∧
      exec (.crecv f d) s = .next ((u.collectiveEnd o off 2).issued noEnergy))) ∧
    (let u := s.engineOp f true (.csend (cSlot desc) (cOp desc) (cBuf desc) (cBytes desc) [] off) false
     (u.slotServes (u.tfOf u.cur.ctx) (cSlot desc) = true →
      exec (.csend f d) s = .next ((u.takeData s.stamp).issued noEnergy)) ∧
     (u.slotServes (u.tfOf u.cur.ctx) (cSlot desc) = false → ∃ o, u.opAt s.stamp = some o ∧
      exec (.csend f d) s = .next ((u.collectiveEnd o off 2).issued noEnergy)))) ∧
  (∀ (s : State) (d a : BitVec 5) (b : BitVec 8) (bs : List Byte),
    let off := s.curGroup.s.getD d.toNat 0
    let set := decide (le64 bs &&& s.selS b = s.selS b)
    off.toNat % 8 = 0 → s.myTeam.inData off.toNat 8 = true → s.moving s.cur.ctx = false → readPool off.toNat 8 s = .ok bs s →
    bs.length = 8 →
    (s.atFirst → exec (.chkw d b) s = .next (
      if set then (s.acquireActions s.cur.ctx 2).issued ⟨7, false⟩
      else ((s.charge ⟨7, false⟩).stampIssue).waitParty s.cur (.chkw off.toNat (s.selS b)))) ∧
    exec (.chkwT d a b) s = .next (((if set then s.acquireActions s.cur.ctx 2 else s).writeS a.toNat
      (if set then 1 else 0)).issued ⟨7, false⟩))

/-- The matrix words (R301 to R311): LDW, MMA and MMAZ issue their operation; ACCRD reads a group of columns and the
step count, ACCCVT converts one, ACCWR writes one, and ACCZ, ACCALLOC and ACCFREE change a tile, where the tile exists
and no step on it is outstanding. -/
def Obligations.MatrixWords : Prop :=
  (∀ (s : State) (f : BitVec 1) (r : BitVec 5) (c : BitVec 8), s.fullMask → ldwOk (s.selS c) = true → s.flagRoom f →
    exec (.ldw f r c) s = .next ((s.engineOp f false (.ldw (s.selS c) (s.curGroup.s.getD r.toNat 0)) false).issued ⟨6, false⟩)) ∧
  (∀ (s : State) (i : Instr) (zero : Bool) (f : BitVec 1) (k : BitVec 4) (t : BitVec 3) (a : BitVec 7) (x : BitVec 1),
    (i = .mma f k t a x ∧ zero = false ∨ i = .mmaz f k t a x ∧ zero = true) →
    let run := (List.range (16 + x.toNat)).map (a.toNat + ·)
    mmaForm k.toNat (x == 1) = true → a.toNat + run.length ≤ 128 → s.fullMask → s.vecCtx.regsOk run run → s.tileReady t.toNat →
    s.flagRoom f →
    exec i s = .next ((s.engineOp f false (.mma zero k.toNat t.toNat (x == 1)
      (run.map fun r => (List.range s.curGroup.width).map fun l => s.curGroup.lane r l)) true).issued ⟨5, true⟩)) ∧
  (∀ (s : State) (d : BitVec 7) (g t : BitVec 3) (n : BitVec 5), d.toNat + 16 ≤ 128 → prefixOk true s.vecCtx.pre = true →
    s.vecCtx.regsOk ((List.range 16).map (d.toNat + ·)) [] → s.tileReady t.toNat → readTile t.toNat s = .ok (s.accTile t.toNat) s →
    exec (.accrd d g t n) s = .next (((s.withRun s.vecCtx d.toNat 16 fun m j =>
      (s.accTile t.toNat).elem m (16 * g.toNat + j)).writeS n.toNat ((s.accTile t.toNat).count.setWidth 64)).issued ⟨6, false⟩)) ∧
  (∀ (s : State) (d : BitVec 7) (g t : BitVec 3) (si : BitVec 1) (f : BitVec 4), f.toNat ∈ [1, 2, 3, 4, 6, 8] →
    let dst := numFmt f.toNat
    let src : NumFmt := if si = 1 then .int 32 else .flt .fp32
    let n := dst.width / 2
    let one (m e : Nat) : FRes := convert { s.fenv s.vecCtx (ftzFmt dst) m e with daz := false } src dst
      ((s.accTile t.toNat).elem m (16 * g.toNat + e)).toNat
    let flags := s.vecCtx.lanes.foldl (fun x m => x ||| (List.range 16).foldl (fun y e => y ||| (one m e).flags) 0) 0
    let per := 32 / dst.width
    d.toNat + n ≤ 128 → prefixOk true s.vecCtx.pre = true → s.vecCtx.regsOk ((List.range n).map (d.toNat + ·)) [] →
    s.tileReady t.toNat → s.stepsOn s.cur.ctx t.toNat = false → readTile t.toNat s = .ok (s.accTile t.toNat) s → s.quiet flags →
    exec (.acccvt d g t si f) s = .next (((s.withFlags (cvtRounds src dst) flags).withRun s.vecCtx d.toNat n fun m j =>
      BitVec.ofNat 32 ((List.range per).map fun i =>
        (one m (per * j + i)).bits % 2 ^ dst.width * 2 ^ (dst.width * i)).sum).issued ⟨6, false⟩)) ∧
  (∀ (s : State) (d : BitVec 7) (g t : BitVec 3), s.running → d.toNat + 16 ≤ 128 → s.fullMask →
    s.vecCtx.regsOk ((List.range 16).map (d.toNat + ·)) ((List.range 16).map (d.toNat + ·)) → s.tileReady t.toNat →
    s.stepsOn s.cur.ctx t.toNat = false →
    ∃ u, exec (.accwr d g t) s = .next u ∧ (u.accTile t.toNat).count = (s.accTile t.toNat).count ∧
      (∀ m j, m < 128 → j < 128 → (u.accTile t.toNat).elem m j =
        if m < s.curGroup.width ∧ 16 * g.toNat ≤ j ∧ j < 16 * g.toNat + 16 then s.curGroup.lane (d.toNat + (j - 16 * g.toNat)) m
        else (s.accTile t.toNat).elem m j) ∧
      (∀ k, k ≠ t.toNat → u.accTile k = s.accTile k) ∧ u.side = s.side ∧ u.curGroup.v = s.curGroup.v ∧ u.curGroup.s = s.curGroup.s) ∧
  (∀ (s : State) (t : BitVec 3), t.toNat < (s.launchOf s.cur.ctx).nAcc → s.stepsOn s.cur.ctx t.toNat = false →
    t.toNat < s.myTeam.acc.length → (s.teams.any fun x => x.ctx == s.cur.ctx) = true → s.curGroup.ending = false →
    (∃ u, exec (.accfree t) s = .next u ∧ u.accTile t.toNat = AccTile.reset ∧ (∀ k, k ≠ t.toNat → u.accTile k = s.accTile k)) ∧
    (∃ u, exec (.accalloc t) s = .next u ∧ (∀ k, k ≠ t.toNat → u.accTile k = s.accTile k) ∧ u.accTile t.toNat =
      if (s.accTile t.toNat).alloc then s.accTile t.toNat else { alloc := true, count := 0, elems := [] }) ∧
    ((s.accTile t.toNat).alloc = true → ∃ u, exec (.accz t) s = .next u ∧
      u.accTile t.toNat = { alloc := true, count := 0, elems := [] } ∧ (∀ k, k ≠ t.toNat → u.accTile k = s.accTile k)))

/-- The hypervector words complete where their registers are below the group's counts (R313, R316, R319 to R323): the
HVU takes the word, with the lanes, indices and scalars read at issue; HVLD, HVST and HVNEAR, at an address aligned to
8 and inside the window for the pool forms, issue an operation under their flag. -/
def Obligations.HypervectorWords : Prop :=
  (∀ (s : State) (i : Instr) (hs bs : List Nat) (w : HvWord), hvTable s i = some (hs, bs, w) → s.hvOk hs bs →
    exec i s = .next ((s.addOp s.cur.ctx s.cur.grp none (.hv w) s.curRegs).hvIssued s 1)) ∧
  (∀ (s : State) (d : BitVec 7) (a : BitVec 4) (i : BitVec 8),
    let c := s.vecCtx
    let index := (List.range c.g.width).map fun l => (c.sel i l).toNat % (c.g.hdim / 32)
    prefixOk true c.pre = true →
    (s.hvOk [a.toNat] [] → c.regsOk (d.toNat :: selRegs i) (selRegs i) →
      exec (.hvget d a i) s = .next ((s.addOp s.cur.ctx s.cur.grp none (.hv (.get d.toNat a.toNat index c.act)) s.curRegs).hvIssued s 1)) ∧
    (s.hvOk [a.toNat] [] → c.regsOk (d.toNat :: selRegs i) (d.toNat :: selRegs i) →
      exec (.hvset a d i) s = .next ((s.addOp s.cur.ctx s.cur.grp none (.hv (.set a.toNat index c.act
        ((List.range c.g.width).map fun l => s.curGroup.lane d.toNat l))) s.curRegs).hvIssued s 1))) ∧
  (∀ (s : State) (f p : BitVec 1) (h : BitVec 4) (r : BitVec 5),
    let a := s.curGroup.s.getD r.toNat 0
    let n := s.curGroup.hdim / 8
    s.hvOk [h.toNat] [] → a.toNat % 8 = 0 → (p = 1 → s.myTeam.inData a.toNat n = true ∧ s.moving s.cur.ctx = false) → s.flagRoom f →
    exec (.hvld f h p r) s = .next ((s.engineOp f (p == 0) (.hvld (p == 1) h.toNat a) true).hvIssued s 1) ∧
    (h.toNat ∉ s.curGroup.hbPoison →
      exec (.hvst f h p r) s = .next ((s.engineOp f (p == 0) (.hvst (p == 1) a
        ((List.range n).map fun i => byteOf (s.curGroup.h.getD h.toNat 0) i)) true).hvIssued s 1))) ∧
  (∀ (s : State) (f p : BitVec 1) (d : BitVec 5) (a : BitVec 4) (b : BitVec 5),
    let base := s.curGroup.s.getD b.toNat 0
    let n := (s.curGroup.s.getD (b.toNat + 1) 0).toNat % 2 ^ 32
    d.toNat ≤ 30 → b.toNat ≤ 30 → s.hvOk [a.toNat] [] → base.toNat % 8 = 0 →
    (p = 1 → s.myTeam.inData base.toNat (n * (s.curGroup.hdim / 8)) = true ∧ s.moving s.cur.ctx = false) → s.flagRoom f →
    exec (.hvnear f p d a b) s = .next ((s.engineOp f (p == 0) (.hvnear (p == 1) d.toNat (s.curGroup.h.getD a.toNat 0)
      (decide (a.toNat ∈ s.curGroup.hbPoison)) base n) true).hvIssued s (n + 1)))

/-- EMIT, EFLUSH, LAUNCH and SIGNAL of a task that is not pure issue their operation under their flag (R332 to R336,
R125); a record's address that is not aligned to 512 traps MISALIGNED, and EMIT of a successor or a count out of range
DESCRIPTOR with DETAIL 2. DETAIL 512 and ADDR 0 of that MISALIGNED, and that EMIT's span is checked here only where the
node's record size is known, are the model's choices (assumptions 26 and 62). -/
def Obligations.TaskWords : Prop :=
  (∀ (s : State) (f : BitVec 1) (p c : BitVec 5) (j : BitVec 8),
    let n := (s.curGroup.s.getD c.toNat 0).toNat
    let off := (s.curGroup.s.getD p.toNat 0).toNat
    (s.launchOf s.cur.ctx).isPure = false →
    (j.toNat < (s.launchOf s.cur.ctx).nSucc → n ≤ 256 →
      (∀ k, s.recBytes (s.launchOf s.cur.ctx) j.toNat = some k → n * k = 0 ∨ s.myTeam.inData off (n * k) = true) →
      s.moving s.cur.ctx = false → (s.engineIssue s.cur.ctx s.cur.grp false).flagRoom f →
      exec (.emit f p c j) s = .next (((s.engineIssue s.cur.ctx s.cur.grp false).opUnder f (.emit j.toNat off n)).issued plainEnergy)) ∧
    ((s.launchOf s.cur.ctx).nSucc ≤ j.toNat ∨ 256 < n →
      exec (.emit f p c j) s = .next (s.trapWith plainEnergy 0x0E 2 0 0 s.trapRet))) ∧
  (∀ (s : State) (f : BitVec 1) (j : BitVec 8), s.flagRoom f →
    exec (.eflush f j) s = .next ((s.opUnder f (.eflush j.toNat)).issued plainEnergy)) ∧
  (∀ (s : State) (f : BitVec 1) (r : BitVec 5),
    let a := s.curGroup.s.getD r.toNat 0
    let u := s.releaseActions s.cur.ctx s.cur.grp 4
    (s.launchOf s.cur.ctx).isPure = false →
    (a.toNat % 512 = 0 → u.flagRoom f → exec (.launch f r) s = .next ((u.opUnder f (.launch a)).issued plainEnergy) ∧
      exec (.signal f r) s = .next ((u.opUnder f (.signal a)).issued plainEnergy)) ∧
    (a.toNat % 512 ≠ 0 → exec (.launch f r) s = .next (s.trapWith plainEnergy 0x06 512 0 0 s.trapRet) ∧
      exec (.signal f r) s = .next (s.trapWith plainEnergy 0x06 512 0 0 s.trapRet)))

/-- SYSRD answers Table 14-3's values, those that tell of the machine only outside a pure task; MODEW and MODER move
MODE and FSTAT, keeping their fixed bits; TRAPINFO reads, and with bit 8 writes, the trap record in the handler; FWD
in the handler passes the trap on; a prefix stands before the next word of its clause, and else traps ILLEGAL_PREFIX
(R199, R218, R337 to R340, R345). That SYSRD answers %energy from before its own charge, and that TRAPINFO reads both
selectors before it writes s(d), are the model's choices (assumption 32). -/
def Obligations.SystemWords : Prop :=
  (∀ (s : State) (d : BitVec 5) (x : BitVec 8), x.toNat < 14 →
    (x.toNat ∈ [7, 8, 9, 10, 11, 13] → (s.launchOf s.cur.ctx).isPure = false) →
    exec (.sysrd d x) s = .next ((s.writeS d.toNat (s.sysList.getD x.toNat 0)).issued plainEnergy)) ∧
  (∀ (s : State) (d : BitVec 5) (b : BitVec 8),
    let v := (s.selS b).setWidth 32
    (v.toNat % 8 ≠ 7 → exec (.modewMode b) s = .next ((s.mapCur fun g => { g with mode := v &&& 0xFFF }).issued plainEnergy)) ∧
    (v.toNat % 8 = 7 → exec (.modewMode b) s = .next (s.trapWith plainEnergy 0x01 0 0 0 s.trapRet)) ∧
    exec (.modewFstat b) s = .next ((s.mapCur fun g => { g with fstat := v &&& 0xFFFFFF7F }).issued plainEnergy) ∧
    exec (.moderMode d) s = .next ((s.writeS d.toNat (s.curGroup.mode.setWidth 64)).issued plainEnergy) ∧
    ((∀ o ∈ s.ops, o.ctx = s.cur.ctx → o.grp = s.cur.grp → o.kind.isHv = false) →
      exec (.moderFstat d) s = .next ((s.writeS d.toNat (s.curGroup.fstat.setWidth 64)).issued plainEnergy))) ∧
  (∀ (s : State) (d : BitVec 5) (a b : BitVec 8),
    let k := (s.selS b).toNat % 8
    let t := s.writeS d.toNat (s.curGroup.trap.words.getD k 0)
    (s.handling → exec (.trapinfo d a b) s = .next ((if (s.selS b).getLsbD 8 = true ∧ (k = 2 ∨ k = 3 ∨ k = 7) then
        t.mapCur fun g => { g with trap := { g.trap with words := g.trap.words.set k (s.selS a) } } else t).issued plainEnergy)) ∧
    (¬ s.handling → exec (.trapinfo d a b) s = .next (s.trapWith plainEnergy 0x01 0 0 0 s.trapRet) ∧
      exec .fwd s = .next (s.trapWith plainEnergy 0x01 0 0 0 s.trapRet))) ∧
  (∀ (s : State), s.handling → (s.launchOf s.cur.ctx).killed = none →
    exec .fwd s = .next s.forward ∧ ∀ l ∈ s.launches, l.id = (s.launchOf s.cur.ctx).id →
      ∃ l' ∈ s.forward.launches, l'.id = l.id ∧ l'.killed = some ((s.curGroup.trap.words.getD 0 0).setWidth 8)) ∧
  (∀ (s : State) (m : BitVec 4) (z : BitVec 1) (r : BitVec 3) (f : BitVec 8) (k : BitVec 3) (a : BitVec 6) (c : Clause),
    let op := ((c.words.getD c.idx 0).extractLsb' 25 7).toNat
    s.curParty.clause = some c →
    (c.idx < (c.hdr.extractLsb' 28 4).toNat → 0x28 ≤ op → op ≤ 0x65 →
      exec (.prefixWord m z r f k a) s = .next (s.mapCurParty fun pt => { pt with clause := some { c with
        idx := c.idx + 1, pre := some { sel := m, zero := z, rnd := r, fourth := f, kind := k, amount := a } } })) ∧
    (¬ (c.idx < (c.hdr.extractLsb' 28 4).toNat ∧ 0x28 ≤ op ∧ op ≤ 0x65) → exec (.prefixWord m z r f k a) s =
      .next (s.trapWith noEnergy 0x03 0 0 0 s.trapRet)))

/-! ## Events of operations in flight -/

/-- Operations complete. LDW_LATCH brings the source's bytes to its destinations' tiles (R304). MMA_STEP adds a step to
every element of its tile, or fails with a deferred WEIGHT_INVALID (R306, R307). An HVU word writes its register (R319,
R320), HVLD its hypervector, HVST its bytes (R322), HVNEAR the nearest entry and its distance (R323). -/
def Obligations.EngineEvents : Prop :=
  (∀ (s t : State) (o : Op) (c src : DWord) (e : BitVec 4) (bytes : List (List Byte)), s.canEnd o → o.kind = .ldw c src →
    s.ldwImpure o c src = false → (ldwSpans c src).mapM (ldwSpan o (ldwCluster c)) s = .ok bytes t →
    ∃ u, exec (.ldwLatch o.id e) s = .next u ∧ ∀ k ∈ ldwCores o.core c, k ∉ t.health.retiredCores →
      (e.getLsbD (k % 4) = false →
        { ldwTile (t.launchOf o.ctx).tf (t.launchOf o.ctx).num c bytes with core := k } ∈ u.tiles) ∧
      (e.getLsbD (k % 4) = true → ∀ w ∈ u.tiles, w.core ≠ k)) ∧
  (∀ (s : State) (o : Op) (zero ba : Bool) (fmt tile : Nat) (acts : List (List Word)), s.canEnd o →
    o.kind = .mma zero fmt tile ba acts → s.firstStep o = true →
    (s.stepTile o fmt ba = none → exec (.mmaStep o.id) s =
      .next ((s.defer o 0x0C (BitVec.ofNat 32 (16 + 2 ^ (o.core % 4)))).finishOp o)) ∧
    (∀ w, s.stepTile o fmt ba = some w → w.n ≤ 128 → tile < (s.teamAt o.ctx).acc.length →
      (s.teams.any fun x => x.ctx == o.ctx) = true →
      ∃ u, exec (.mmaStep o.id) s = .next u ∧
        let old := if zero then AccTile.reset else (s.teamAt o.ctx).acc.getD tile AccTile.reset
        let new := (u.teamAt o.ctx).acc.getD tile AccTile.reset
        new.count = old.count + 1 ∧
        ∀ m n, n < 128 → new.elem m n =
          if m < o.lanes ∧ n < w.n then
            BitVec.ofNat 32 (MmaStep.elem { fmt := fmt, ba := ba, acts := acts, tile := w } m n (old.elem m n)).bits
          else old.elem m n)) ∧
  (∀ (x : MmaStep) (m n : Nat) (acc : Word), x.fmt = 8 → BitVec.ofNat 32 (x.elem m n acc).bits =
    acc + BitVec.ofInt 32 (((List.range x.tile.k).map fun k =>
      (BitVec.ofNat 8 (x.act m k)).toInt * (BitVec.ofNat 8 (x.weight k n)).toInt).sum)) ∧
  (∀ (s : State) (o : Op) (w : HvWord), s.canEnd o → o.kind = .hv w → s.firstHv o = true →
    (∀ d a index act, w = .get d a index act → (s.groupAt o.ctx o.grp).v.getD d .zero ≠ .inFrame) →
    exec (.hvuWordComplete o.id) s =
      .next (((s.mapGroup o.ctx o.grp fun g => g.hvRun w).touchFrame o.ctx o.grp).finishOp o)) ∧
  (∀ (g : Group) (d a b : Nat),
    let x := g.h.getD a 0
    let y := g.h.getD b 0
    (g.hvRun (.xor d a b)).h = g.h.set d (x ^^^ y) ∧
    (∀ c, (g.hvRun (.maj3 d a b c)).h = g.h.set d ((x &&& y) ||| (x &&& g.h.getD c 0) ||| (y &&& g.h.getD c 0))) ∧
    (∀ n i, 0 < g.hdim → x < 2 ^ g.hdim → d < g.h.length → i < g.hdim →
      ((g.hvRun (.rot d a n)).h.getD d 0).testBit ((i + n.toNat) % g.hdim) = x.testBit i) ∧
    (∀ i, d < g.h.length → i < (g.b.getD a []).length → ((g.hvRun (.thr d a none)).h.getD d 0).testBit i =
      (decide (0 < (g.b.getD a []).getD i 0) || (g.b.getD a []).getD i 0 == 0 && i % 2 == 1)) ∧
    (g.hvRun (.clrb d)).b = g.b.set d (List.replicate g.hdim 0) ∧
    (d < g.s.length → (g.hvRun (.dist d a b)).s.getD d 0 =
      BitVec.ofNat 64 ((List.range g.hdim).filter fun i => (x ^^^ y).testBit i).length)) ∧
  (∀ (s t : State) (o : Op) (pool : Bool) (reg : Nat) (a : DWord) (bs : List Byte), s.canEnd o → s.firstHv o = true →
    o.kind = .hvld pool reg a → (pool = false → s.engineImpure o.ctx false a (o.dim / 8) = false) →
    hvRead o pool a (o.dim / 8) s = .ok bs t →
    exec (.hvldComplete o.id) s = .next ((t.mapGroup o.ctx o.grp fun g => g.writeH reg (ofLe bs) false).finishOp o)) ∧
  (∀ (s : State) (o : Op) (a : DWord) (data : List Byte), s.canEnd o → s.firstHv o = true →
    (o.kind = .hvst true a data → exec (.hvldComplete o.id) s = .next ((s.poolWriteFor o.ctx o.id a.toNat data).finishOp o)) ∧
    (o.kind = .hvst false a data → s.engineImpure o.ctx true a data.length = false → ∀ ps t,
      enginePlan (s.tfOf o.ctx) o.core (some o.ctx) a data s = .ok ps t →
      exec (.hvldComplete o.id) s = .next (((t.putHome [s.writer o.ctx] ps).landOp o).finishOp o))) ∧
  (∀ (s : State) (o : Op) (reg key count : Nat) (bad : Bool) (base : DWord) (entry : Nat → List Byte), s.canEnd o →
    s.firstHv o = true → o.kind = .hvnear true reg key bad base count →
    let d := o.dim
    let dist (i : Nat) : Nat := popcount d (key ^^^ ofLe (entry i))
    (∀ i < count, poolRead o.ctx o.id (base + BitVec.ofNat 64 (i * (d / 8))).toNat (d / 8) s = .ok (entry i) s) →
    (count = 0 → exec (.hvnearComplete o.id) s = .next (((s.mapGroup o.ctx o.grp fun g =>
      (g.writeSBad reg (BitVec.allOnes 64) false).writeSBad (reg + 1) (BitVec.allOnes 64) false).touchFrame o.ctx o.grp).finishOp
        o)) ∧
    (∀ i < count, (∀ j < count, dist i ≤ dist j) → (∀ j < i, dist i < dist j) →
      exec (.hvnearComplete o.id) s = .next (((s.mapGroup o.ctx o.grp fun g =>
        (g.writeSBad reg (BitVec.ofNat 64 i) bad).writeSBad (reg + 1) (BitVec.ofNat 64 (dist i)) bad).touchFrame
          o.ctx o.grp).finishOp o)))

/-- A copy's chunk performs, a copy that has performed completes every participant's flag (R289, R290), CSEND hands
its data to the fabric and CRECV takes the combination of all contributions, this device's own among them, each with
STATUS 1 and the charge of its chunks at the weight of its issue (R297, R347, R357), and the copy of a Daymark hit ends
the launch (R343). That these words charge class 7 when their chunks have moved, and what CRECV does with the place of
this device's own contribution, are the model's choices (assumptions 43, 55 and 118). -/
def Obligations.CopyEvents : Prop :=
  (∀ (s t : State) (c : Copy) (k : Nat), s.copyWith c.id k = some c → chunkStep c k s = .ok () t →
    exec (.bxeChunkComplete c.id k) s = .next t) ∧
  (∀ (s : State) (c : Copy) (k : Nat) (r : CopyRun) (a : DWord), s.copyWith c.id k = some c → c.kind = 0 →
    dFspace c.desc = 1 → dTspace c.desc = 1 → chunkRuns c.kind c.desc k = [r] → r.src = .source a →
    (∀ x ∈ (s.teamAt c.ctx).poison, ¬ (a.toNat ≤ x ∧ x < a.toNat + r.len)) →
    (s.teamAt c.ctx).resident = true → (s.teamAt c.ctx).unfilled = [] → (s.teamAt c.ctx).leaving = [] →
    exec (.bxeChunkComplete c.id k) s =
      .next ((s.poolWrite c.ctx r.dst.toNat (s.poolBytes c.ctx a.toNat r.len)).setChunk c k)) ∧
  (∀ (s : State) (c : Copy), s.copyDone c.id = some c →
    (∀ o ∈ s.ops, o.kind = .copy c.id → (s.groupAt o.ctx o.grp).parties ≠ []) → ∃ t, exec (.copyComplete c.id) s = .next t ∧
    (∀ o ∈ t.ops, o.kind ≠ .copy c.id) ∧ (∀ x ∈ t.copies, x.id ≠ c.id) ∧ t.side.mem = s.side.mem ∧
    (∀ o, c.impure = false → s.ops.filter (fun p => p.kind == .copy c.id) = [o] → ∀ n, o.flag = some n → n < 12 →
      (t.groupAt o.ctx o.grp).flags.getD n 0 = (s.groupAt o.ctx o.grp).flags.getD n 0 - 1)) ∧
  (∀ (s : State) (o : Op) (slot op bytes desc : Nat) (buf : DWord) (pages : List (List Byte)), s.canEnd o →
    o.kind = .csend slot op buf bytes (pages.map some) desc → pages ≠ [] → s.ctl.ven = true → (∀ x ∈ s.taken, x.1 ≠ slot) →
    let u := State.toPeer { s with taken := put s.taken slot pages.flatten } (.contribute slot op pages.flatten)
      [s.writer o.ctx]
    exec (.csendComplete o.id) s = .next
      ((u.chargeUnits o.ctx (o.weight * ((bytes + 511) / 512))).collectiveEnd o desc 1)) ∧
  (∀ (s t v : State) (o : Op) (slot op bytes desc : Nat) (buf : DWord) (others parts : List (List Byte))
      (ps : List (Nat × List Byte)),
    s.canEnd o → o.kind = .crecv slot op buf bytes desc → s.ctl.ven = true → s.owes slot = false →
    s.contributions slot others = (parts, v) → resultOk op bytes parts = true →
    enginePlan (v.tfOf o.ctx) o.core (some o.ctx) buf (combineAll op bytes parts) v = .ok ps t →
    let u := t.putHome [v.writer o.ctx] ps
    let w : State := { u with taken := u.taken.filter fun x => x.1 != slot }
    exec (.crecvComplete o.id others) s = .next
      (((w.chargeUnits o.ctx (o.weight * (((combineAll op bytes parts).length + 511) / 512))).landOp o).collectiveEnd o desc 1)) ∧
  (∀ (bytes : Nat) (parts : List (List Byte)) (i j : Nat), i < bytes / 4 → j < 4 →
    (combineAll 1 bytes parts).getD (4 * i + j) 0 =
      byteOf ((parts.map fun p => (le64 ((p.drop (4 * i)).take 4)).toNat).sum % 2 ^ 32) j) ∧
  (∀ (s : State) (id : Nat), s.hasLaunch id = true → (s.launchAt id).reuse = true → (s.launchAt id).copy.isSome = true →
    s.launchReady (s.launchAt id) = true → exec (.daymarkCopyComplete id) s = .next (s.finishLaunch id) ∧
    ((s.launchAt id).refused = none → (s.launchAt id).killed = none → (s.launchAt id).outcome = (2, 0)))

/-! ## Events of parties and the pool -/

/-- A clause starts at its party's header, which sees what the operations of its WAIT flags wrote (R113, R209); a
fetch fills a register from its frame, poison staying with the data (R63, R65); what BARWAIT, CHKW and PSHARE waited
for comes (R286, R294, R282); the allocator grants the oldest stalled PGROW, or, where no grant is possible, its stall
limit or a deadlock of its core ends the team (R51 to R53); the granules that PSHRINK took out of a team's window, and
that nothing issued before may still reach, pass to the L1 together (R54). That they pass together, after every older
operation that may touch the pool, is the model's choice (assumption 45), as is how a BARWAIT that saw its value goes on
(assumption 35). The model's readings are what a flag wait discards (assumption 17), that a clause may start outside the
active set (assumption 30), and the order of what a header does (assumption 31). -/
def Obligations.PartyEvents : Prop :=
  (∀ (s t : State) (p : PartyRef) (o : CodeObject) (c : Clause),
    let u : State := { s with cur := p }
    let pc := u.curParty.pc
    s.atHeader p = true → (s.groupAt p.ctx p.grp).ending = false → (s.teamAt p.ctx).hard = false → u.targetOk p.ctx pc = true →
    (u.slotOf p.ctx).object = some o → (pc - u.codeStart p.ctx).toNat / 65536 ∈ o.verified →
    fetchClause p.ctx pc u.curGroup.mode u = .ok c t → t.stopping t.cur.ctx = false → t.curGroup.waitMet c.hdr = true →
    t.curGroup.deferred = [] →
    let v := (t.seeLanded t.cur.ctx t.cur.grp fun k => (hdrWait c.hdr).getLsbD k).mapCurParty fun pt =>
      { pt with clause := some { c with idx := 0 } }
    exec (.clauseStart p) s = .next
      { (if c.hdr.getLsbD 4 then v.mapCur fun g => g.applyLive (v.liveMask t.cur.ctx c.addr) else v).mapCurParty fun pt =>
          { pt with clause := some c, wait := .none } with cur := s.cur }) ∧
  (∀ (s t u : State) (p : PartyRef) (r : BitVec 7) (fmt : Byte) (n : Nat) (bs : List Byte) (bad : List Nat),
    let g := s.groupAt p.ctx p.grp
    let ready (x : State) : State := x.mapPartyOf p fun pt => { pt with ready := x.clock.toNat }
    s.hasGroup p.ctx p.grp = true → g.v.getD r.toNat .zero = .inFrame →
    tenderRead g.ctx (g.frame + BitVec.ofNat 64 (g.fmtOff + r.toNat)) 1 s = .ok [fmt] t →
    (storedSize g.width fmt.toNat = some n → 0 < n →
      tenderFetch g.ctx (g.frame + BitVec.ofNat 64 (g.slotOff r.toNat)) n t = .ok (bs, bad) u →
      exec (.operandFill p r) s = .next (ready (u.mapGroup g.ctx g.idx fun g' =>
        { g' with
          v := g'.v.set r.toNat (.raw (decodeForm g.width fmt.toNat bs))
          vPoison := (g'.vPoison.filter fun k => k != r.toNat) ++ (if bad.isEmpty then [] else [r.toNat]) }))) ∧
    (fmt = 4 → exec (.operandFill p r) s = .next (ready (t.mapGroup g.ctx g.idx fun g' =>
      { g' with v := g'.v.set r.toNat .zero, vPoison := g'.vPoison.filter fun k => k != r.toNat }))) ∧
    (4 < fmt.toNat → exec (.operandFill p r) s =
      .next (t.faultParty p (bareFault 0x1A (BitVec.ofNat 32 (r.toNat + 256 * fmt.toNat)))))) ∧
  (∀ (s t : State) (p : PartyRef) (pool : Bool) (a : DWord) (target : BitVec 16) (met : Bool) (pa : Option Nat),
    (s.partyOf p).wait = .barwait pool a target met pa → (s.partyOf p).stopped = false →
    barAgain pool a target met pa { s with cur := p } = .ok true t →
    exec (.barrierPass p) s = .next (State.finishWait { t with cur := s.cur } p id)) ∧
  (∀ (s : State) (p : PartyRef) (off : Nat) (mask : DWord), (s.partyOf p).wait = .chkw off mask → (s.partyOf p).stopped = false →
    off % 8 = 0 → off < 2 ^ 64 → (s.teamAt p.ctx).inData off 8 = true → s.moving p.ctx = false →
    (∀ x ∈ (s.teamAt p.ctx).poison, x < off ∨ off + 8 ≤ x) →
    le64 (s.ownBytes p.ctx p.grp true off (s.poolBytes p.ctx off 8)) &&& mask = mask →
    exec (.chkwPass p) s = .next ((s.acquireActions p.ctx 2).finishWait p id)) ∧
  (∀ (s : State) (p : PartyRef) (d off n : Nat), (s.partyOf p).wait = .pshare d off n →
    let team := s.teamAt p.ctx
    let wg := off / 4096
    (∀ base t, team.inData (4096 * wg) (4096 * n) = true → team.inPlace wg n = none → s.canMove team wg n = true →
      s.freeRun team.core n ((team.physRun wg n).getD []) = some base → s.moveRun p.ctx wg n base = (true, t) →
      exec (.pshareMoveComplete p) s = .next (((t.markShared p.ctx wg n true).finishWait p fun u =>
        u.writeS d (BitVec.ofNat 64 (t.coreOf p.ctx % 4 * 2 ^ 20 + base * 4096))).unhold p.ctx)) ∧
    (team.inData (4096 * wg) (4096 * n) = false ∨ team.inPlace wg n = none ∧ s.canMove team wg n = false →
      exec (.pshareMoveComplete p) s =
        .next ((s.finishWait p fun u => u.writeS d (BitVec.allOnes 64)).unhold p.ctx))) ∧
  (∀ (s t : State) (core n : Nat) (p : PartyRef), s.grantReady core = some (p, n) → s.grow p.ctx n = (true, t) →
    exec (.poolGrant core) s = .next (t.finishWait p fun u =>
      u.writeS (u.curClause.curWord.extractLsb' 16 5).toNat (BitVec.ofNat 64 (4096 * (u.teamAt p.ctx).granules.length)))) ∧
  (∀ (s : State) (p : PartyRef) (n k since : Nat), (s.partyOf p).wait = .pgrow n k since → (s.partyOf p).stopped = false →
    (s.launchOf p.ctx).stall ≠ 0xFFFFFFFF → 
    since + (s.launchOf p.ctx).stall < s.us ∨ since + (s.launchOf p.ctx).stall = s.us ∧ s.tickAt ≠ s.clock → p ∉ s.grantable? (s.coreOf p.ctx) →
    exec (.poolStallLimit p) s = .next (s.faultParty p (bareFault 0x18 (BitVec.ofNat 32 n)))) ∧
  (∀ (s : State) (core ctx n : Nat) (p : PartyRef), s.deadlocked core = some ctx →
    ((∀ t ∈ s.residentOn core, t.ctx < 65536) → s.grantable? core = [] ∧ (∀ t ∈ s.residentOn core, s.poolBlocked t = true) ∧
      ∃ t ∈ s.residentOn core, t.ctx = ctx ∧ ∀ x ∈ s.residentOn core, x.admitted ≤ t.admitted) ∧
    ((s.stalled core).filter (fun x => x.1.ctx == ctx) = [(p, n)] → s.hasGroup p.ctx p.grp = true →
      exec (.poolDeadlock core) s = .next (s.faultParty p (bareFault 0x19 (BitVec.ofNat 32 n))))) ∧
  (∀ (s : State) (core k : Nat) (t : Team), s.teamAt t.ctx = t → t.core = core →
    (s.teams.find? fun x => x.core == core && x.leaving.any fun e => e.phys == k && s.passReady x e) = some t →
    ∃ u, exec (.granulePassToL1 core k) s = .next u ∧ u.poolEntry core k = none ∧
      (∀ e ∈ t.leaving, if s.passReady t e then u.poolEntry core e.phys = none ∧ e ∉ (u.teamAt t.ctx).leaving
        else e ∈ (u.teamAt t.ctx).leaving) ∧ u.side = s.side ∧
      ∀ c q, (∀ e ∈ t.leaving, s.passReady t e = true → (c, q) ≠ (core, e.phys)) → u.poolEntry c q = s.poolEntry c q)

/-! ## Events of caches, errors and retirement -/

/-- A timed write-back puts a sector's dirty bytes at home and leaves it clean (R77); a combining buffer's time drains
its bytes (R78); a clean line homed on the other die that a tenant function with VR = 1 allocated leaves the L1 for
its replica area, where the home holds it and has not changed since (R81, R82), and a replica may go (R83). An
uncorrectable error poisons what it struck, or drops a clean copy of it (R85, R65, R315); a corrected error counts,
and as many as CETHR within the hour retire their unit (R409, R410): a granule once the L1 holds it and keeps its 16
without it (R49). That a granule which something holds stays due, and that CETHR = 0 still takes an error, are the
model's choices (assumptions 119 and 76), as is poison by the byte in accumulators, staging and shared granules
(assumption 153). -/
def Obligations.CacheAndErrorEvents : Prop :=
  (∀ (s : State) (core k : Nat) (x : L1Sector), s.Inv → s.l1Find core k = some x → x.dirty ≠ 0 → 32 * k < Config.hbmBytes →
    ∃ t, exec (.l1TimedWriteback core k) s = .next t ∧
      (∃ y, t.l1Find core k = some y ∧ y.dirty = 0 ∧ y.bytes = x.bytes) ∧
      ∀ a, Memory.get t.side.mem a =
        if 32 * k ≤ a ∧ a < 32 * k + 32 ∧ x.dirty.getLsbD (a - 32 * k) = true then x.bytes.getD (a - 32 * k) 0
        else Memory.get s.side.mem a) ∧
  (∀ (s : State) (b : CombBuf), s.Inv →
    s.side.combine.filter (fun c => c.core == b.core && c.quad == b.quad && c.line == b.line) = [b] →
    512 ≤ s.clock.toNat - b.since → 256 * b.line < Config.hbmBytes →
    (∀ x ∈ s.side.l1, x.core = b.core → x.sector / 8 = b.line → x.dirty = 0) →
    ∃ t, exec (.combiningBufferTimeout b.core b.quad b.line) s = .next t ∧ b ∉ t.side.combine ∧
      (∀ c ∈ s.side.combine, c ≠ b → c ∈ t.side.combine) ∧
      ∀ a, Memory.get t.side.mem a =
        match b.bytes.find? fun c => c.1 == a with
        | some c => if a / 256 = b.line then c.2 else Memory.get s.side.mem a
        | none => Memory.get s.side.mem a) ∧
  (∀ (s : State) (core k : Nat),
    let xs := s.l1LineOf core (k / 8)
    (s.replicates core (k / 8) = false → exec (.replicaPlacement core k) s = .next s) ∧
    (s.replicates core (k / 8) = true → (∀ x ∈ xs, x.dirty = 0) ∧ s.homeSlice (k / 8) / 384 ≠ Config.dieOf core ∧
      ∃ t, exec (.replicaPlacement core k) s = .next t ∧ t.l1LineOf core (k / 8) = [] ∧ t.side.mem = s.side.mem ∧
        if (∀ x ∈ xs, x.fresh = true) ∧ ∃ y ∈ s.side.l2, y.line = k / 8 then
          ∃ r ∈ t.side.replicas, r.area = Config.sectorOf core ∧ r.line = k / 8 ∧
            ∀ x ∈ xs, (x.sector, x.bytes, x.poison) ∈ r.parts
        else t.side.replicas = s.side.replicas)) ∧
  (∀ (s : State) (area k : Nat), ∃ t, exec (.replicaDrop area k) s = .next t ∧
    (∀ r, r ∈ t.side.replicas ↔ r ∈ s.side.replicas ∧ ¬ (r.area = area ∧ r.line = k / 8)) ∧ t.side.mem = s.side.mem) ∧
  (∀ (s : State), s.health.ready = true →
    (∀ k, 32 * k < Config.hbmBytes → exec (.uncorrectableError (.home k)) s = .next (s.poisonHome k) ∧
      k ∈ (s.poisonHome k).side.poison) ∧
    (∀ core k x, s.l1Find core k = some x → ∃ t, exec (.uncorrectableError (.l1 core k)) s = .next t ∧
      t.side.mem = s.side.mem ∧ (x.dirty = 0 → t.l1Find core k = none) ∧
      (x.dirty ≠ 0 → t.l1Find core k = some { x with poison := true })) ∧
    (∀ ctx grp r ws, s.hasGroup ctx grp = true → (s.groupAt ctx grp).v.getD r .zero = .raw ws →
      ∃ t, exec (.uncorrectableError (.vreg ctx grp r)) s = .next t ∧ r ∈ (t.groupAt ctx grp).vPoison) ∧
    (∀ ctx off p, (s.teams.any fun t => t.ctx == ctx) = true → s.health.ready = true →
      (s.teamAt ctx).granules.getD (off / 4096) .inBacking = .inPool p →
      let region := s.regionOf (s.teamAt ctx) (off / 4096)
      ∃ t, exec (.uncorrectableError (.pool ctx off)) s = .next t ∧
        (region ≠ .frame → region ≠ .hypervector → off ∈ (t.teamAt ctx).poison) ∧
        (region = .hypervector → ∀ g m, s.hvGroup ctx (off / 4096) = some g → g.hvRegAt (off - 4096 * g.hvAt) = some m →
          m ∈ (t.groupAt ctx g.idx).hbPoison) ∧
        (region = .frame → ∀ g lo r ws, s.frameGroup ctx (off / 4096) = some (g, lo) → s.groupAt ctx g.idx = g → r < g.budget →
          g.slotOff r ≤ lo + off % 4096 → lo + off % 4096 < g.slotOff r + 4 * g.width → g.v.getD r .zero = .raw ws →
          r ∈ (t.groupAt ctx g.idx).vPoison)) ∧
    (∀ u, exec (.correctedError u) s = .next { s with health := { s.health with errors := s.health.errors ++ [(u, s.us)] } }) ∧
    (∀ u, u ∈ s.health.due ∨ 0 < s.errorCount u ∧ s.health.cethr.toNat ≤ s.errorCount u →
      exec (.unitRetirement u) s = .next (s.retire u))) ∧
  (∀ (s : State) (core g : Nat), core < 512 → g < 256 →
    (s.poolEntry core g = none → 0 < s.l1Spare core →
      ((s.retire (.granule core g)).poolEntry core g).any (·.retired) = true ∧
        HwUnit.granule core g ∉ (s.retire (.granule core g)).health.due) ∧
    (∀ e, s.poolEntry core g = some e → e.retired = false → HwUnit.granule core g ∈ (s.retire (.granule core g)).health.due ∧
      (s.retire (.granule core g)).poolMap = s.poolMap)) ∧
  (∀ (s : State) (k : Nat), k < 768 → k ∉ s.health.retiredSlices →
    (s.retire (.slice k)).health.retiredSlices = s.health.retiredSlices ++ [k] ∧ (s.retire (.slice k)).side.mem = s.side.mem) ∧
  (∀ (s : State) (c : Nat), c < 512 → c ∉ s.health.retiredCores →
    (s.retire (.core c)).health.retiredCores = s.health.retiredCores ++ [c] ∧
    ∀ w ∈ (s.retire (.core c)).tiles, w.core ≠ c)

/-! ## Events of launches and teams -/

/-- The Keeper takes the next record of a queue, and what LAUNCH, SIGNAL and START name: accepted or refused (R173,
R336, R393), SIGNAL when it brings the count of predecessors from 1 to 0; EMIT and EFLUSH reach the open node that they
name (R330 to R333); a launch that is over takes its completion word, with each STATUS of Table 06-5, a clean pure task
recorded and a hit's entry touched before it (R124, R174, R343, R344). The class of a device start and when it counts, that it settles in the same step, and
EMIT of 0 records or to a killed node are the model's choices (assumptions 60, 61 and 62). -/
def Obligations.LaunchEvents : Prop :=
  (∀ (s t u : State) (part q : Nat) (new : List Nat), s.pollQueues (s.servedQueues part) = (new, t) →
    t.chooseQueue part new = some (q, u) → exec (.queueRecordTake part) s = .next (u.takeRecord q)) ∧
  (∀ (s t : State) (q id : Nat),
    let x := s.queueAt q
    let record := x.qbase + BitVec.ofNat 64 (512 * (x.qhead.toNat % 2 ^ x.log2n.toNat))
    let num := BitVec.ofNat 32 (q * 2 ^ 20 + x.qhead.toNat % 2 ^ 20)
    s.openNode x.tf record = none →
    acceptLaunch { tf := x.tf, queue := BitVec.ofNat 12 q, taken := true, qhead := x.qhead, num := num } record s = .ok id t →
    s.takeRecord q = (t.passRecord q).settle id ∧ ((t.passRecord q).queueAt q).qhead = (t.queueAt q).qhead + 1) ∧
  (∀ (s : State) (x : Start) (record : DWord) (bytes : List Byte),
    let l := s.newLaunch x record bytes
    l.num = x.num ∧ l.bytes = bytes ∧
      l.cls = max (max l.prio (s.queueAt x.queue.toNat).cls.toNat) (s.tf x.tf.toNat).ceil.toNat) ∧
  (∀ (s t : State) (o : Op) (r : DWord) (id : Nat), s.canEnd o →
    let l := s.launchOf o.ctx
    let num := BitVec.ofNat 32 (l.queue.toNat * 2 ^ 20 + (s.queueAt l.queue.toNat).starts.toNat)
    (o.kind = .launch r ∨ o.kind = .start r) → s.openNode l.tf r = none →
    acceptLaunch { tf := l.tf, queue := l.queue, taken := false, qhead := 0, num := num } r s = .ok id t →
    exec (.deviceLaunchAccept o.id) s = .next (((t.countStart l.queue).finishOp o).settle id)) ∧
  (∀ (s t : State) (o : Op) (r : DWord) (old : Nat), s.canEnd o → o.kind = .signal r →
    decrementPreds (s.launchOf o.ctx).tf.toNat r s = .ok old t →
    (old ≠ 1 → exec (.deviceLaunchAccept o.id) s = .next (t.finishOp o)) ∧
    (old = 1 →
      let w : Op := { o with flag := none, kind := .start r }
      let v := (t.mapOp o.id fun _ => w).dropFlag o.ctx o.grp o.flag
      let l := v.launchOf o.ctx
      let num := BitVec.ofNat 32 (l.queue.toNat * 2 ^ 20 + (v.queueAt l.queue.toNat).starts.toNat)
      (∀ n, v.openNode l.tf r = some n → exec (.deviceLaunchAccept o.id) s = .next ((v.endStream n.id).finishOp w)) ∧
      (∀ id u, v.openNode l.tf r = none →
        acceptLaunch { tf := l.tf, queue := l.queue, taken := false, qhead := 0, num := num } r v = .ok id u →
        exec (.deviceLaunchAccept o.id) s = .next (((u.countStart l.queue).finishOp w).settle id)))) ∧
  (∀ (s t : State) (o : Op) (j off count : Nat) (n : Launch) (q : Stream) (data : List Byte), s.canEnd o → s.firstEmit o = true →
    o.kind = .emit j off count →
    let l := s.launchOf o.ctx
    (count = 0 → exec (.emitAccept o.id) s = .next (s.finishOp o)) ∧
    (0 < count → l.succ.getD j 0 ∉ l.refusedNodes → j < l.succ.length → s.openNode l.tf (l.succ.getD j 0) = some n → n.killed = none →
      (s.launchAt n.id).stream = some q → q.head + count - q.freed ≤ 2 ^ q.log2n →
      (s.teamAt o.ctx).spanFor (some o.id) off (count * q.recSize) = true →
      poolRead o.ctx o.id off (count * q.recSize) s = .ok data s →
      placeRecords (s.tfOf o.ctx) q q.head (chunksOf q.recSize count data) s = .ok () t →
      exec (.emitAccept o.id) s = .next (((t.mapStream n.id fun q =>
        Stream.batchUp t.us { q with head := q.head + count, stale := true } (q.head + count)).writeCounters n.id).finishOp o))) ∧
  (∀ (s : State) (o : Op) (j : Nat) (n : Launch), s.canEnd o → s.firstEmit o = true → o.kind = .eflush j →
    let l := s.launchOf o.ctx
    (l.succ.length ≤ j → exec (.eflushAccept o.id) s = .next (s.finishOp o)) ∧
    (l.succ.getD j 0 ∉ l.refusedNodes → j < l.succ.length → s.openNode l.tf (l.succ.getD j 0) = some n → n.killed = none →
      exec (.eflushAccept o.id) s = .next (((s.mapStream n.id fun q => q.flush s.us).writeCounters n.id).finishOp o))) ∧
  (∀ (s t : State) (id : Nat),
    let l := s.launchAt id
    let word := leBytes 8 (l.num.toNat * 2 ^ 32 + l.outcome.2.toNat * 256 + l.outcome.1.toNat)
    let u := if l.outcome.1 = 1 then s.recordPure l
      else match l.pure with
        | some p => if l.outcome.1 = 2 then s.touchKey l.tf p.key else s
        | none => s
    s.hasLaunch id = true → l.copy = none → l.stream = none → s.launchReady l = true →
    keeperStore true l.tf.toNat (BitVec.ofNat 64 l.compl) word u = .ok () t → t.hasLaunch id = true →
    exec (.launchComplete id) s = .next ((t.wordDone l true).runSucc id
      (2 * ((t.wordDone l true).launchAt id).succ.length + 2)) ∧ ((t.wordDone l true).launchAt id).done = some l.outcome.1)

/-- Teams are placed, each under the class that its waiting gives it (R349): the first pending team or grid that fits
starts, or a saved one goes on, once its cores have given the granules for the whole of it, and waits on where they
have not (R51, R166, R167, R350, R369). What a resumed team's memory still holds of its window and of its control
areas is then read back (R66, R151), and a group whose area says that it has ended, or only waits at JOINs, goes on as
R179 says. A team with nothing left retires (R364). A team that starts has its registers at
zero, m0 all ones below W, and its PC at its role's entry (R165, R171, R172). -/
def Obligations.PlacementEvents : Prop :=
  (∀ (s t : State) (part : Nat) (x : Pending) (places : List (Nat × Nat)),
    let u := s.ageList part
    u.nextPlace part = some (x, places) → x.saved = [] →
    (∀ pools, u.reserve places = (some pools, t) → exec (.teamAdmit part) s =
      .next ((deal places pools).foldl (fun v p => v.startTeam x.launch p.1 p.2) t)) ∧
    (u.reserve places = (none, t) → exec (.teamAdmit part) s = .next t)) ∧
  (∀ (s : State) (id core : Nat) (phys : List Nat) (o : CodeObject),
    let l := s.launchAt id
    let ctx := s.freeCtx 0xFFFF s.lastCtx
    s.objectOf l = some o → l.stream = none →
    (∃ t ∈ (s.startTeam id core phys).teams, t.ctx = ctx ∧ t.launch = id ∧ t.core = core ∧ t.state = .resident ∧
      t.linear = l.next ∧ t.tx + l.gridX * (t.ty + l.gridY * t.tz) = l.next) ∧
    ∀ i < l.groupCount, ∃ g ∈ (s.startTeam id core phys).groups, g.ctx = ctx ∧ g.idx = i ∧
      g.width = (l.roleOf o (l.groupRoles.getD i 0)).width ∧ g.v = List.replicate 128 .zero ∧ g.s = List.replicate 32 0 ∧
      g.flags = List.replicate 12 0 ∧ (∀ b, (g.m.getD 0 0).getLsbD b = decide (b < g.width ∧ b < 64)) ∧
      g.main.pc = ((s.tf l.tf.toNat).slot l.codeSlot).base + BitVec.ofNat 64 o.codeOff +
        BitVec.ofNat 64 (4 * (l.roleOf o (l.groupRoles.getD i 0)).entry)) ∧
  (∀ (s t : State) (part : Nat) (x : Pending) (places : List (Nat × Nat)) (pools : List (Nat × List Nat)),
    let u := s.ageList part
    s.refillOut = none → s.controlOut = none → u.nextPlace part = some (x, places) → x.saved ≠ [] →
    (x.saved.foldl (fun v c => v.mapTeam c fun t => { t with retained := false }) u).reserve places = (some pools, t) →
    exec (.teamResume part) s =
      .next ((x.saved.zip (deal places pools)).foldl (fun v p => v.resumeTeam p.1 p.2.1 p.2.2) t)) ∧
  (∀ (s t : State) (part ctx wg : Nat), s.refillOut = some (ctx, wg) → refillGranule ctx wg s = .ok () t →
    exec (.teamResume part) s =
      .next ((t.mapTeam ctx fun x => { x with unfilled := x.unfilled.filter fun k => k != wg }).settleResume ctx)) ∧
  (∀ (s t : State) (part : Nat) (g : Group) (bs : List Byte), s.refillOut = none → s.controlOut = some g →
    tenderRead g.ctx (g.frame + BitVec.ofNat 64 g.ctlOff) 512 s = .ok bs t →
    exec (.teamResume part) s = .next (((t.mapGroup g.ctx g.idx fun h => h.setControl (t.codeStart g.ctx) bs).groupExit
      g.ctx g.idx).releaseJoined g.ctx g.idx)) ∧
  (∀ (s : State) (ctx : Nat), s.teamOver ctx = true → (s.launchAt (s.teamAt ctx).launch).stream = none →
    ∃ t, exec (.teamRetire ctx) s = .next t ∧ t.teams = s.teams.filter (fun x => x.ctx != ctx) ∧
      t.groups = s.groups ∧ t.side = s.side ∧ (∀ e ∈ t.poolMap, e.2.retired = true ∨ e.2.ctx ≠ ctx))

/-! ## Events of scheduling -/

/-- A team past its time slice, or in the way of a better class, is asked to stop (R351, R365); one that has not stopped
in time stops at the next clause boundary (R366); once every party is still the Keeper saves it, its registers kept
(R367), or ends it with DATA_POISON where its core is retired and a shared region binds it there (R409); waiting raises
a class (R349). A quadrant's active set takes one party a cycle: the ready one of the best class, then ready longest,
then issued least recently (R353); one that has been ready for 3072 cycles enters first, where need be in place of the
one that entered first (R355). That aging counts from the last joining of the list, and that a placement class is held
against a resident team's current class, are the model's choices (assumptions 66 and 71). -/
def Obligations.SchedulingEvents : Prop :=
  (∀ (s : State) (ctx : Nat),
    let team := s.teamAt ctx
    team.state = .resident → s.ctl.quantum ≠ 0 → s.ctl.quantum.toNat ≤ s.us - team.since →
    (∃ x ∈ (s.ageList (s.partOf team)).pending (s.partOf team), x.cls ≤ (s.launchAt team.launch).cls) →
      (s.launchAt team.launch).cosched = false →
    ∃ t, exec (.timeSlice ctx) s = .next t ∧ (t.teamAt ctx).state = .stopping ∧ (t.teamAt ctx).request = some s.us ∧
      t.side = s.side ∧ ∀ c, c ≠ ctx → t.teamAt c = s.teamAt c) ∧
  (∀ (s : State) (part : Nat) (ts : List Team),
    let u := s.ageList part
    (u.pending part).findSome? u.roomFor = some ts →
    exec (.preemptForRoom part) s = .next (ts.foldl (fun v t => v.requestStop t.ctx) u)) ∧
  (∀ (s : State) (x : Pending) (ts : List Team), s.roomFor x = some ts →
    s.ctl.prewait ≠ 0xFFFF ∧ s.ctl.prewait.toNat ≤ s.us - x.since ∧
      ∀ t ∈ ts, t.state = .resident ∧ x.cls < (s.launchAt t.launch).cls) ∧
  (∀ (s : State) (part : Nat), ∃ t, exec (.placementAging part) s = .next t ∧ t.groups = s.groups ∧ t.side = s.side ∧
    (∀ l ∈ s.launches, (s.tf l.tf.toNat).part.toNat = part →
      { l with aged := if s.ctl.age = 0 then 0 else (s.us - l.joinTime) / s.ctl.age.toNat } ∈ t.launches) ∧
    (∀ x ∈ s.teams, x.isSaved = true → (s.tf (s.launchAt x.launch).tf.toNat).part.toNat = part →
      { x with aged := if s.ctl.age = 0 then 0 else (s.us - x.since) / s.ctl.age.toNat } ∈ t.teams)) ∧
  (∀ (s : State) (ctx r : Nat), (s.teamAt ctx).state = .stopping → (s.teamAt ctx).hard = false →
    (s.teamAt ctx).request = some r → s.ctl.timeout.toNat ≤ s.us - r →
    ∃ t, exec (.preemptHardStop ctx) s = .next t ∧ (t.teamAt ctx).hard = true ∧ t.side = s.side ∧
      ∀ g, (t.groupAt ctx g).v = (s.groupAt ctx g).v ∧ (t.groupAt ctx g).s = (s.groupAt ctx g).s) ∧
  (∀ (s : State) (ctx : Nat), s.canSave ctx = true →
    (s.teamAt ctx).core ∉ s.health.retiredCores ∨ (s.teamAt ctx).shared = [] →
    ∃ t, exec (.keeperSave ctx) s = .next t ∧ (t.teamAt ctx).isSaved = true ∧ (t.teamAt ctx).request = none ∧
      ∀ g, (t.groupAt ctx g).v = (s.groupAt ctx g).v ∧ (t.groupAt ctx g).s = (s.groupAt ctx g).s ∧
        (t.groupAt ctx g).m = (s.groupAt ctx g).m ∧ (t.groupAt ctx g).flags = (s.groupAt ctx g).flags ∧
        (t.groupAt ctx g).mode = (s.groupAt ctx g).mode ∧ (t.groupAt ctx g).fstat = (s.groupAt ctx g).fstat) ∧
  (∀ (s : State) (ctx : Nat), s.canSave ctx = true → (s.teamAt ctx).core ∈ s.health.retiredCores → (s.teamAt ctx).shared ≠ [] →
    exec (.keeperSave ctx) s = .next (s.faultCtx ctx 0xFF (bareFault 0x17 0))) ∧
  (∀ (s : State) (core quad : Nat) (p : PartyRef), s.bestReady core quad = some p →
    p ∈ s.readyOf core quad ∧ (∀ q ∈ s.readyOf core quad, (s.launchOf p.ctx).cls ≤ (s.launchOf q.ctx).cls ∧
      ((s.launchOf q.ctx).cls = (s.launchOf p.ctx).cls → s.readyFor q ≤ s.readyFor p ∧
        ((s.partyOf q).ready = (s.partyOf p).ready → (s.partyOf p).issued ≤ (s.partyOf q).issued))) ∧
    (s.starving core quad = none → (s.activeOf core quad).length < 8 → s.enteredNow core quad = false →
      exec (.partyActivate core quad) s = .next (s.entered p))) ∧
  (∀ (s : State) (core quad : Nat) (p : PartyRef), s.starving core quad = some p →
    p ∈ s.readyOf core quad ∧ 3072 ≤ s.readyFor p ∧
    (s.enteredNow core quad = true → exec (.starvation core quad) s = .next s) ∧
    (s.enteredNow core quad = false → (s.activeOf core quad).length < 8 → exec (.starvation core quad) s = .next (s.entered p)) ∧
    (s.enteredNow core quad = false → 8 ≤ (s.activeOf core quad).length → ∃ q ∈ s.activeOf core quad,
      (∀ r ∈ s.activeOf core quad, (s.partyOf q).entered ≤ (s.partyOf r).entered) ∧
      exec (.starvation core quad) s = .next
        ((s.mapPartyOf q fun pt => { pt with active := false, ready := s.clock.toNat }).entered p)))

/-- The tick comes when 1 µs of cycles has passed since the last. It shares a core's static energy among the contexts
resident there, or saved in that cycle, by their slot-cycles and sets every launch's class from its energy and budget
(R358, R359). A sample, one each 10 µs, above a cap takes a clock step away, 1 ms of headroom gives one back, and a cap
exceeded for 10 ms at 1.2 GHz sets ID (R408). That each step back needs its own 1 ms is the model's choice (assumption
75). -/
def Obligations.EnergyEvents : Prop :=
  (∀ (s : State), (s.clock - s.tickAt).toNat < 100 * s.health.clk.toNat → exec .energyTick s = .next s) ∧
  (∀ (s : State), 100 * s.health.clk.toNat ≤ (s.clock - s.tickAt).toNat →
    ∃ t, exec .energyTick s = .next t ∧ t.us = s.us + 1 ∧ t.tickAt = s.clock ∧ t.groups = s.groups ∧ t.side = s.side ∧
    t.teams = s.teams.map (fun x =>
      let there (y : Team) : Bool := y.resident || y.isSaved && y.admitted == s.clock.toNat
      let all := ((s.teams.filter fun y => y.core == x.core && there y).map (·.slotTicks)).sum
      let share := if there x ∧ all ≠ 0 then s.ctl.static.toNat * x.slotTicks / all else 0
      { x with energy := BitVec.ofNat 64 (min (x.energy.toNat + share) (2 ^ 64 - 1)), slotTicks := 0 }) ∧
    t.launches = s.launches.map (fun l =>
      let e := l.energy + ((t.teams.filter fun x => x.launch == l.id).map (·.energy.toNat)).sum
      let b := s.tf l.tf.toNat
      let budget := if l.energyField = 0 then b.eDef.toNat else if b.eLim = 0 then l.energyField else min l.energyField b.eLim.toNat
      { l with cls := if budget = 0 then l.base else min 7 (l.base + e / (budget * 65536)) })) ∧
  (∀ (s : State) (watts celsius : Nat), s.health.ready = true → s.health.sampleAt ≤ s.us →
    let above := decide (min s.health.pcap.toNat 2400 < watts ∨ 95 < celsius)
    let near := decide (95 * min s.health.pcap.toNat 2400 < 100 * watts ∨ 90 < celsius)
    exec (.powerSample watts celsius) s = .next { s with health := { s.health with
      clk := if above && decide (12 < s.health.clk.toNat) then s.health.clk - 1 else s.health.clk
      overCap := if above && decide (s.health.clk.toNat ≤ 12) then s.health.overCap + 1 else 0
      headroom := if near then 0 else s.health.headroom + 1
      sampleAt := s.us + 10 } }) ∧
  (∀ (s : State) (watts celsius : Nat), s.us < s.health.sampleAt → exec (.powerSample watts celsius) s = .next s) ∧
  (∀ (s : State), 100 ≤ s.health.headroom → s.health.clk.toNat < 27 →
    exec .clockStepUp s = .next { s with health := { s.health with clk := s.health.clk + 1, headroom := 0 } }) ∧
  (∀ (s : State), 1000 ≤ s.health.overCap → s.health.danger = false →
    ∃ t, exec .capIsolatedDanger s = .next t ∧ t.health = { s.health with danger := true } ∧ t.groups = s.groups)

/-! ## Translation, the fault queue and invalidation -/

/-- Translation: an address that is not canonical faults NONCANONICAL (R11, R27), a held translation serves (R38), and a
walk that meets V = 0 misses there (R27). RESUME wakes what waits on its token, or all of the tenant function (R144).
INVCMD removes translations, is held while eight are outstanding, and its completion writes SEQ once the peers have
acknowledged what was sent to them, or drains what it can and waits (R146 to R148). The fault queue starts empty and
forgets its held records when it stops (R142, R143). That an INVALIDATION_COMPLETE which does not complete drains too is
the model's choice (assumption 47). -/
def Obligations.TranslationEvents : Prop :=
  (∀ (s : State) (t core : Nat) (who : Option Nat) (va : DWord) (a : Access),
    (va.extractLsb' 57 7 ≠ (if va.getLsbD 56 then 0x7F else 0) → translate t core who va a s =
      .error (.fault { cause := 0x10, va := va, entry := 0, level := 0xFF, acc := a.bits, detail := 0 }) s) ∧
    (va.extractLsb' 57 7 = (if va.getLsbD 56 then 0x7F else 0) →
      (∀ x, s.heldFor t core va a = some x → translate t core who va a s = .ok x s) ∧
      (s.heldFor t core va a = none →
        let tbl := (s.tf t).root.toNat * 4096
        let e := Memory.readLe s.side.mem (tbl + 8 * (va.extractLsb' 48 9).toNat) 8
        tbl < Config.hbmBytes → (s.window t tbl).1 = true → e % 2 = 0 → translate t core who va a s =
          .error (.miss { cause := 0x11, va := va, entry := BitVec.ofNat 64 e, level := 4, acc := a.bits, detail := 0
                          walk := a, who := who }) s))) ∧
  (∀ (s : State) (tf : BitVec 8), s.Inv → s.health.ready = true → 8 * (s.tf tf.toNat).resAddr.toNat < Config.hbmBytes →
    (s.tfs.any fun x => x.1 == tf.toNat) = true →
    (∀ token : Word, token ≠ 0xFFFFFFFF → ∃ t, exec (.resumeToken tf token) s = .next t ∧
      ((∃ k ∈ s.side.tokens, k.value = token ∧ k.asid = (s.tf tf.toNat).asid) →
        ∀ p k, (t.partyOf p).wait = .parked k → k.token ≠ token)) ∧
    ∃ t, exec (.resumeAll tf) s = .next t ∧ (∀ k ∈ t.side.tokens, k.asid ≠ (s.tf tf.toNat).asid) ∧
      ∀ p k, (t.partyOf p).wait = .parked k → (s.tf k.tf).asid ≠ (s.tf tf.toNat).asid) ∧
  (∀ (s : State) (tf : BitVec 8) (v : DWord), s.health.ready = true →
    let op := (v.extractLsb' 49 2).toNat
    let n := 4096 * 2 ^ (v.extractLsb' 45 4).toNat
    let lo := (v.extractLsb' 0 45).toNat * 4096 / n * n
    ((s.tf tf.toNat).invs.length < 8 → (s.tf tf.toNat).invHeld = [] →
      (op = 0 → ∃ t, exec (.invcmdRange tf v) s = .next t ∧
        (t.tf tf.toNat).invs.map (·.seq) = (s.tf tf.toNat).invs.map (·.seq) ++ [v.extractLsb' 51 13] ∧
        ∀ h ∈ t.side.tlb, h.asid = (s.tf tf.toNat).asid →
          ¬ (h.base % 2 ^ 57 < lo + n ∧ lo < h.base % 2 ^ 57 + h.size)) ∧
      (op = 1 → ∃ t, exec (.invcmdAsid tf v) s = .next t ∧
        (t.tf tf.toNat).invs.map (·.seq) = (s.tf tf.toNat).invs.map (·.seq) ++ [v.extractLsb' 51 13] ∧
        ∀ h ∈ t.side.tlb, h.asid ≠ (s.tf tf.toNat).asid)) ∧
    (8 ≤ (s.tf tf.toNat).invs.length ∨ (s.tf tf.toNat).invHeld ≠ [] →
      let u := s.mapTf tf.toNat fun b => { b with invHeld := b.invHeld ++ [(v, none)] }
      (op = 0 → exec (.invcmdRange tf v) s = .next u) ∧ (op = 1 → exec (.invcmdAsid tf v) s = .next u)) ∧
    (2 ≤ op → exec (.invcmdIgnored tf v) s = .next s)) ∧
  (∀ (s : State) (tf : BitVec 8),
    let b := s.tf tf.toNat
    let pa := 8 * b.invCw.toNat
    let u := s.drainTf tf.toNat
    s.Inv → ∀ c rest, b.invs = c :: rest →
      (u.peersBusy tf.toNat = true → exec (.invalidationComplete tf) s = .next u.svcRelease) ∧
      (u.peersBusy tf.toNat = false → b.invHeld = [] → s.ctl.behind = [] → ∃ t, exec (.invalidationComplete tf) s = .next t ∧
        (t.tf tf.toNat).invs = rest ∧
        (s.inPart b.part.toNat pa = true → Memory.read t.side.mem pa 8 = leBytes 8 c.seq.toNat) ∧
        (s.inPart b.part.toNat pa = false → (t.tf tf.toNat).fqErr = true))) ∧
  (∀ (s : State) (tf : BitVec 8) (v : DWord), s.health.ready = true →
    (v.getLsbD 0 = true → (s.tf tf.toNat).fqEn = false → (s.tf tf.toNat).held = [] →
      ∃ t, exec (.faultQueueEnable tf v) s = .next t ∧
      (t.tf tf.toNat).fqEn = true ∧ (t.tf tf.toNat).fqProd = 0 ∧ (t.tf tf.toNat).fqLog2n = v.extractLsb' 4 4 ∧
      t.groups = s.groups ∧ t.side = s.side) ∧
    (v.getLsbD 0 = false → (s.tf tf.toNat).fqEn = true → ∃ t, exec (.faultQueueDisable tf v) s = .next t ∧
      (t.tf tf.toNat).fqEn = false ∧ (t.tf tf.toNat).held = [] ∧ (t.tf tf.toNat).fqProd = (s.tf tf.toNat).fqProd ∧
      t.groups = s.groups ∧ t.side = s.side) ∧
    (let u := s.mapTf tf.toNat fun b => { b with fqCons := v.setWidth 32 }
     exec (.fqconsWrite tf v) s = .next (u.writeHeld tf.toNat (s.tf tf.toNat).held.length) ∧
     ((s.tf tf.toNat).held = [] → exec (.fqconsWrite tf v) s = .next u)))

/-! ## Code slots -/

/-- A code slot's commands and their ends (R157 to R161): LOAD begins in an empty or failed slot and ends ready or
failed, its base checked first, or waits on a missing page; UNLOAD empties an object that no context holds and marks
one that some hold; with force it ends them; what a state does not accept is ignored. A page that hashes as the object
says serves its waiters, another poisons the object. That a CODE_GONE record gives SEC 0 is the model's choice
(assumption 50). -/
def Obligations.CodeEvents : Prop :=
  (∀ (s : State) (tf : BitVec 8) (slot : BitVec 7) (v : DWord), s.health.ready = true →
    let c := (s.tf tf.toNat).slot slot.toNat
    let cmd := (v.extractLsb' 0 2).toNat
    (cmd = 1 → c.state = .empty ∨ c.state = .failed → exec (.codeLoad tf slot v) s =
      .next (s.mapSlot tf.toNat slot.toNat fun c => { c with state := .loading })) ∧
    (cmd = 2 → v.getLsbD 2 = false →
      (c.state = .empty ∨ c.state = .failed ∨ (c.state = .ready ∨ c.state = .poisoned) ∧ c.refs = 0 →
        exec (.codeUnload tf slot v) s = .next (s.mapSlot tf.toNat slot.toNat fun c =>
          { c with state := .empty, object := none, force := false, refs := 0 })) ∧
      ((c.state = .ready ∨ c.state = .poisoned) → c.refs ≠ 0 → exec (.codeUnload tf slot v) s =
        .next (s.mapSlot tf.toNat slot.toNat fun c => { c with state := .unloading }))) ∧
    (cmd = 2 → v.getLsbD 2 = true →
      (c.state = .ready ∨ c.state = .poisoned ∨ c.state = .unloading →
        let u := (s.mapSlot tf.toNat slot.toNat fun c => { c with state := .unloading, force := true }).endObject tf.toNat
          slot.toNat 0x1C (BitVec.ofNat 32 slot.toNat) false none
        exec (.codeUnloadForce tf slot v) s = .next (if c.refs = 0 then u.mapSlot tf.toNat slot.toNat fun c =>
          { c with state := .empty, object := none, force := false, refs := 0 } else u)) ∧
      (c.state = .empty ∨ c.state = .failed → exec (.codeUnloadForce tf slot v) s =
        .next (s.mapSlot tf.toNat slot.toNat fun c =>
          { c with state := .empty, object := none, force := false, refs := 0 })) ∧
      (c.state = .loading → exec (.codeUnloadForce tf slot v) s = .next s)) ∧
    exec (.codeCmdIgnored tf slot v) s = .next s) ∧
  (∀ (s : State) (tf : BitVec 8) (slot : BitVec 7),
    let c := (s.tf tf.toNat).slot slot.toNat
    c.state = .loading → c.parked = none →
    (c.base.toNat % 65536 ≠ 0 ∨ c.base.extractLsb' 57 7 ≠ (if c.base.getLsbD 56 then 0x7F else 0) →
      exec (.codeLoadVerify tf slot) s = .next (s.mapSlot tf.toNat slot.toNat fun c =>
      { c with state := .failed, err := 1, object := none })) ∧
    (∀ o t, loadObject tf.toNat c.base s = .ok (.ok o) t → exec (.codeLoadVerify tf slot) s =
      .next (t.mapSlot tf.toNat slot.toNat fun c => { c with state := .ready, err := 0, object := some o })) ∧
    (∀ e t, loadObject tf.toNat c.base s = .ok (.error e) t → exec (.codeLoadVerify tf slot) s =
      .next (t.mapSlot tf.toNat slot.toNat fun c => { c with state := .failed, err := BitVec.ofNat 8 e, object := none })) ∧
    (∀ x t k u, loadObject tf.toNat c.base s = .error (.miss x) t → t.parkKeeper tf.toNat 0 x = (some k, u) →
      exec (.codeLoadVerify tf slot) s = .next (u.mapSlot tf.toNat slot.toNat fun c => { c with parked := some k }))) ∧
  (∀ (s t : State) (tf : BitVec 8) (slot : BitVec 7) (page : Nat) (p : PartyRef) (rest : List PartyRef) (o : CodeObject)
      (bs : List Byte), s.pageWaiters tf.toNat slot.toNat page = p :: rest →
    ((s.tf tf.toNat).slot slot.toNat).object = some o →
    readCodePage tf.toNat (s.coreOf p.ctx) ((s.tf tf.toNat).slot slot.toNat).base o page Access.fetch s = .ok (bs, false) t →
    let hash := sha256 (bs ++ List.replicate (65536 - bs.length) 0)
    (hash = o.hashes.getD page [] →
      let u := t.mapSlot tf.toNat slot.toNat fun c =>
        { c with object := c.object.map fun o => { o with verified := o.verified ++ [page] } }
      exec (.codePageVerify tf slot page) s =
        .next ((u.pageWaiters tf.toNat slot.toNat page).foldl (fun u p => u.mapPartyOf p u.readyParty) u)) ∧
    (hash ≠ o.hashes.getD page [] → ∃ u, exec (.codePageVerify tf slot page) s = .next u ∧
      ((u.tf tf.toNat).slot slot.toNat).state = .poisoned)) ∧
  (∀ (s : State) (tf : BitVec 8) (slot : BitVec 7), ((s.tf tf.toNat).slot slot.toNat).state = .unloading →
    ((s.tf tf.toNat).slot slot.toNat).refs = 0 → exec (.codeObjectEmpty tf slot) s =
      .next (s.mapSlot tf.toNat slot.toNat fun c => { c with state := .empty, object := none, force := false, refs := 0 }))

/-! ## Service registers -/

/-- What writes to service registers do once Kutil is ready, in every state, and nothing before (R34, R37, R344, R393,
R395, R397, R400, R403, R411): a tenant function is enabled where its ASID is free and its partition exists, and keeps
its ASID while it is; TTROOT and PART are fixed while it is, PART also while a queue of it is busy; a Daymark key's
write drops its entries; a queue that opens takes QHEAD from its tail word, waits for a missing page of it, or faults
there, and does not open during a partition change; P changes only on an idle machine, whose memory it clears; a slot
that is released aborts the operations on it that its cycle leaves outstanding; a report is made once for each request; and each plain register reads the bits
that were written. -/
def Obligations.ServiceRegisterEvents : Prop :=
  (∀ (s : State) (tf : BitVec 8) (v : DWord), s.health.ready = true →
    let b := s.tf tf.toNat
    let free := ∀ x ∈ s.tfs, x.1 ≠ tf.toNat → x.2.en = true → x.2.asid ≠ v.extractLsb' 16 12
    let set (asid : BitVec 12) : State :=
      s.mapTf tf.toNat fun b => { b with asid := asid, vr := v.getLsbD 2, dp := v.getLsbD 1, en := v.getLsbD 0 }
    (b.en = true → exec (.ttctlWrite tf v) s = .next (set b.asid)) ∧
    (b.en = false → (v.getLsbD 0 = false ∨ free ∧ b.part.toNat < 2 ^ s.ctl.p.toNat) →
      exec (.ttctlWrite tf v) s = .next (set (v.extractLsb' 16 12))) ∧
    (b.en = false → v.getLsbD 0 = true → (¬ free ∨ 2 ^ s.ctl.p.toNat ≤ b.part.toNat) →
      exec (.ttctlWrite tf v) s = .next s) ∧
    (b.en = false → exec (.ttrootWrite tf v) s = .next (s.mapTf tf.toNat fun b => { b with root := v.extractLsb' 12 40 })) ∧
    (b.en = true → exec (.ttrootWrite tf v) s = .next s) ∧
    (b.en = false → (∀ x ∈ s.queues, x.2.tf = tf → s.queueBusy x.1 = false) → exec (.tfPartWrite tf v) s =
      .next (s.mapTf tf.toNat fun b => { b with ceil := v.extractLsb' 16 3, part := v.setWidth 2 })) ∧
    (b.en = true ∨ (∃ x ∈ s.queues, x.2.tf = tf ∧ s.queueBusy x.1 = true) → exec (.tfPartWrite tf v) s =
      .next (s.mapTf tf.toNat fun b => { b with ceil := v.extractLsb' 16 3 })) ∧
    (∀ half, exec (.daymarkKeyWrite tf half v) s =
      .next ((s.mapSide fun m => { m with daymark := m.daymark.filter fun e => e.tf.toNat != tf.toNat }).mapTf tf.toNat fun b =>
        if half then { b with dmKey1 := v } else { b with dmKey0 := v }))) ∧
  (∀ (s : State) (q : BitVec 12) (v : DWord), s.health.ready = true →
    let x := s.queueAt q.toNat
    let cls := v.extractLsb' 24 3
    let err := x.err && !v.getLsbD 2
    (x.en = true → v.getLsbD 0 = false → exec (.queueDisable q v) s = .next (s.mapQueue q.toNat fun x =>
      { x with weight := v.extractLsb' 48 8, cls := cls, err := err, en := false, opening := false, parked := none })) ∧
    (x.en = false ∨ v.getLsbD 0 = true → exec (.queueDisable q v) s = .next s) ∧
    (x.en = true ∨ v.getLsbD 0 = false ∨ s.ctl.pNext ≠ none → exec (.queueEnable q v) s = .next s) ∧
    (x.en = false → v.getLsbD 0 = true → s.ctl.pNext = none →
      let busy := s.queueBusy q.toNat
      let u := s.mapQueue q.toNat fun x =>
        { x with weight := v.extractLsb' 48 8, tf := if busy then x.tf else v.extractLsb' 40 8,
                 log2n := if busy then x.log2n else v.extractLsb' 36 4, cls := cls, err := err, en := true, opening := true }
      (∀ n t, readTail q.toNat u = .ok n t → exec (.queueEnable q v) s = .next (t.mapQueue q.toNat fun x =>
        { x with qhead := BitVec.ofNat 64 n, opening := false, parked := none })) ∧
      (∀ e t, readTail q.toNat u = .error (.fault e) t → exec (.queueEnable q v) s = .next (t.tailFault q.toNat e)) ∧
      (∀ e t k w, readTail q.toNat u = .error (.miss e) t →
        t.parkKeeper (t.queueAt q.toNat).tf.toNat ((t.queueAt q.toNat).nextNum q.toNat) { e with acc := 0x41 } = (some k, w) →
        exec (.queueEnable q v) s = .next (w.mapQueue q.toNat fun x => { x with parked := some k })))) ∧
  (∀ (s : State) (v : DWord), s.health.ready = true →
    let idle := (∀ x ∈ s.queues, s.queueBusy x.1 = false ∧ x.2.en = false) ∧ s.teams = [] ∧ s.ctl.pNext = none ∧ v.toNat % 4 ≠ 3
    (idle → exec (.partitionChange v) s = .next
      { s with
        ctl := { s.ctl with pErr := s.ctl.pErr && !v.getLsbD 6, pNext := some (v.setWidth 2) }
        side := { s.side with
          mem := [], l2 := [], poison := [], strong := [], l1 := [], combine := [], replicas := [], tlb := [], daymark := [] } }) ∧
    (¬ idle → exec (.partitionChange v) s = .next { s with ctl := { s.ctl with pErr := true } })) ∧
  (∀ (s : State), (∀ p, s.ctl.pNext = some p → exec .partitionChangeComplete s =
      .next { s with ctl := { s.ctl with p := p, pNext := none } }) ∧
    (s.ctl.pNext = none → exec .partitionChangeComplete s = .next s)) ∧
  (∀ (s : State) (slot : BitVec 12) (v : DWord), s.health.ready = true →
    let there := (look s.slotTab slot.toNat SlotEntry.reset).en
    (v.getLsbD 0 = true ∨ there = false → exec (.collectiveSlotRelease slot v) s = .next s) ∧
    (v.getLsbD 0 = false → there = true → exec (.collectiveSlotRelease slot v) s = .next { s with
      slotTab := put s.slotTab slot.toNat { slot := v.extractLsb' 32 24, tf := v.extractLsb' 24 8, en := false }
      released := s.released ++ [(slot.toNat, s.stamp, s.clock)] })) ∧
  (∀ (s : State) (slot before : Nat) (at' : DWord), s.released = [(slot, before, at')] →
    let u : State := { s with released := [], taken := s.taken.filter fun x => x.1 % 4096 != slot }
    let mine := s.ops.filter fun o => decide (o.id < before) && o.kind.slotNo.any fun n => n % 4096 == slot
    (at' = s.clock → s.abortReleased = s) ∧
    (at' ≠ s.clock → (mine = [] → s.abortReleased = u) ∧
      (∀ o desc, mine = [o] → o.kind.statusAt = some desc → s.abortReleased = u.collectiveEnd o desc 2) ∧
      ∀ o ∈ s.abortReleased.ops, o.id < before → ∀ n, o.kind.slotNo = some n → n % 4096 ≠ slot)) ∧
  (∀ (s : State) (v : DWord), s.health.ready = true →
    (v.getLsbD 0 = true → exec (.attestationRequest v) s =
      .next { s with health := { s.health with cethr := v.extractLsb' 32 16, pcap := v.extractLsb' 16 16, abusy := true } }) ∧
    (v.getLsbD 0 = false → exec (.attestationRequest v) s = .next s)) ∧
  (∀ (s : State),
    let pa := 512 * s.health.attAddr.toNat
    let r := s.report (Memory.read s.side.mem pa 32)
    (s.health.abusy = false → exec .attestationComplete s = .next s) ∧
    (s.Inv → s.health.abusy = true → ∃ t, exec .attestationComplete s = .next t ∧
      t.health = { s.health with abusy := false } ∧ (pa < Config.hbmBytes → Memory.read t.side.mem pa r.length = r))) ∧
  (∀ (s : State) (v : DWord),
    (∀ off, exec (.serviceRegisterWrite off v) s = .next (if off % 8 = 0 then s.svcWrite off v else s)) ∧
    (s.health.ready = true → ∀ r ∈ plainRegs, ∀ i < r.count,
      (s.svcWrite (r.first + r.step * i) v).svcRead (r.first + r.step * i) = (v &&& r.mask).toNat) ∧
    (s.health.ready = false → (∀ off, s.svcWrite off v = s) ∧
      ∀ (tf : BitVec 8) (q slot : BitVec 12) (half : Bool), exec (.ttctlWrite tf v) s = .next s ∧
        exec (.ttrootWrite tf v) s = .next s ∧ exec (.tfPartWrite tf v) s = .next s ∧
        exec (.daymarkKeyWrite tf half v) s = .next s ∧ exec (.queueEnable q v) s = .next s ∧
        exec (.queueDisable q v) s = .next s ∧ exec (.partitionChange v) s = .next s ∧
        exec (.collectiveSlotRelease slot v) s = .next s ∧ exec (.attestationRequest v) s = .next s))

/-! ## The host and the fabric -/

/-- Requests on a live queue pair (R390 to R392): one with the PSN expected is performed whole and acknowledged, or
refused by what failed: the key, a translation, the form of the request, or a full ring; one before it is
acknowledged, a READ with its data again; one ahead of it is answered with a sequence NAK; none does anything on a
queue pair that is not live. Events wait for their acknowledgement, leave again after a NAK or a timeout, and a fatal
NAK puts the queue pair into error (R390). Accesses from peers perform where the import table grants them, with the
poison of what they read (R85, R399), and not while VEN = 0 (R398). A link delivers data flits in sequence, holds
those ahead of a gap and asks again every 2 µs for what is missing, and frees and resends those it keeps (R401, R402).
The rules of packet sequence numbers, that a refused request changes nothing, those of flits, and a peer's atomic on
poisoned data are the model's choices (assumptions 82, 83, 85 and 121). -/
def Obligations.HostAndFabricEvents : Prop :=
  (∀ (s t : State) (qp len : Nat) (psn : BitVec 24) (rkey imm : Word) (va : DWord) (data bs payload : List Byte) (bad : Bool),
    let q := s.qpAt qp
    let all (u : State) : Prop := exec (.rdmaWrite ⟨qp, psn⟩ rkey va data) s = .next u ∧
      exec (.rdmaWriteWithImmediate ⟨qp, psn⟩ rkey va data imm) s = .next u
    (s.qpLive qp = false → all s ∧ exec (.rdmaRead ⟨qp, psn⟩ rkey va len) s = .next s ∧ exec (.send ⟨qp, psn⟩ payload) s = .next s) ∧
    (s.qpLive qp = true → psn = q.rpsn → q.rkey = rkey →
      (rdmaPut q.tf.toNat va data s = .ok () t → all (t.accepted qp data.length (.ack qp))) ∧
      (∀ e, rdmaPut q.tf.toNat va data s = .error e t → all { s with out := s.out ++ [.nakAccess qp] }) ∧
      (rdmaGet q.tf.toNat va len s = .ok (bs, bad) t →
        exec (.rdmaRead ⟨qp, psn⟩ rkey va len) s = .next (t.accepted qp len (.readData qp bs bad))) ∧
      (∀ e, rdmaGet q.tf.toNat va len s = .error e t →
        exec (.rdmaRead ⟨qp, psn⟩ rkey va len) s = .next { s with out := s.out ++ [.nakAccess qp] })) ∧
    (s.qpLive qp = true → psn = q.rpsn → q.rkey ≠ rkey → all { s with out := s.out ++ [.nakAccess qp] } ∧
      exec (.rdmaRead ⟨qp, psn⟩ rkey va len) s = .next { s with out := s.out ++ [.nakAccess qp] }) ∧
    (s.qpLive qp = true → 0 < (q.rpsn - psn).toNat → (q.rpsn - psn).toNat < 2 ^ 23 →
      all { s with out := s.out ++ [.ack qp] } ∧ exec (.send ⟨qp, psn⟩ payload) s = .next { s with out := s.out ++ [.ack qp] } ∧
      (q.rkey = rkey → rdmaGet q.tf.toNat va len s = .ok (bs, bad) t → ∃ u, exec (.rdmaRead ⟨qp, psn⟩ rkey va len) s = .next u ∧
        u.out = t.out ++ [.readData qp bs bad] ∧ (u.qpAt qp).rpsn = q.rpsn)) ∧
    (s.qpLive qp = true → 2 ^ 23 ≤ (q.rpsn - psn).toNat → all { s with out := s.out ++ [.nakSequence qp] } ∧
      exec (.rdmaRead ⟨qp, psn⟩ rkey va len) s = .next { s with out := s.out ++ [.nakSequence qp] } ∧
      exec (.send ⟨qp, psn⟩ payload) s = .next { s with out := s.out ++ [.nakSequence qp] })) ∧
  (∀ (s t : State) (qp : Nat) (payload : List Byte), s.qpLive qp = true →
    let q := (s.qpAt qp).lq.toNat
    let psn := (s.qpAt qp).rpsn
    (payload.length = 512 → (s.queueAt q).tf = (s.qpAt qp).tf →
      (sendRecord q payload s = .ok true t → exec (.send ⟨qp, psn⟩ payload) s = .next (t.accepted qp 512 (.ack qp))) ∧
      (sendRecord q payload s = .ok false t → exec (.send ⟨qp, psn⟩ payload) s = .next { s with out := s.out ++ [.rnrNak qp] }) ∧
      (∀ e, sendRecord q payload s = .error e t →
        exec (.send ⟨qp, psn⟩ payload) s = .next { s with out := s.out ++ [.nakAccess qp] })) ∧
    (payload.length ≠ 512 ∨ (s.queueAt q).tf ≠ (s.qpAt qp).tf → exec (.send ⟨qp, psn⟩ payload) s = .next (s.refuseQp qp)) ∧
    exec (.invalidRequest qp) s = .next (s.refuseQp qp) ∧
    ((s.refuseQp qp).qpAt qp).state = 2 ∧ (s.refuseQp qp).out = s.out ++ [.nakInvalid qp]) ∧
  (∀ (s : State) (qp : Nat) (psn : BitVec 24),
    let before (x : BitVec 24) : Bool := x != psn && decide ((psn - x).toNat < 2 ^ 23)
    let left := (s.qpAt qp).sent.filter fun x => !before x.1
    let u := s.mapQp qp fun q => { q with sent := left }
    (s.qpLive qp = false → (∀ w, exec (.roceRetransmission qp w) s = .next s) ∧ exec (.invalidRequest qp) s = .next s) ∧
    (s.qpLive qp = true →
      exec (.roceRetransmission qp .timeout) s =
        .next { s with out := s.out ++ (s.qpAt qp).sent.map fun x => .event qp x.1 x.2 } ∧
      exec (.roceRetransmission qp (.ack psn)) s = .next (s.mapQp qp fun q =>
        { q with sent := q.sent.filter fun x => psn != x.1 && decide ((x.1 - psn).toNat < 2 ^ 23) }) ∧
      exec (.roceRetransmission qp (.nakSequence psn)) s =
        .next { u with out := s.out ++ left.map fun x => .event qp x.1 x.2 } ∧
      exec (.roceRetransmission qp (.rnrNak psn)) s = .next { u with out := s.out ++ left.map fun x => .event qp x.1 x.2 } ∧
      exec (.roceRetransmission qp (.nakFatal psn)) s = .next (s.mapQp qp fun q => { q with state := 2, sent := left }))) ∧
  (∀ (s : State) (dev : BitVec 20) (off : Nat), s.health.ready = true → s.ctl.ven = true →
    let bad (n : Nat) : Bool := (List.range n).any fun i => s.side.poison.contains ((off + i) / 32)
    (∀ n, 0 < n → s.granted dev off n false = true → exec (.peerAccess dev (.read off n)) s =
      .next { s with out := s.out ++ [.peerData dev (Memory.read s.side.mem off n) (bad n)] }) ∧
    (∀ n, s.granted dev off n false = false → exec (.peerAccess dev (.read off n)) s =
      .next { s with out := s.out ++ [.peerReject dev] }) ∧
    (∀ data, s.granted dev off data.length true = true → exec (.peerAccess dev (.write off data)) s =
      .next ((s.homeWrite [] off (data.map some)).emit (.peerDone dev))) ∧
    (∀ data, s.granted dev off data.length true = false → exec (.peerAccess dev (.write off data)) s =
      .next { s with out := s.out ++ [.peerReject dev] }) ∧
    (∀ a n f, peerAtomic off a = some (n, f) →
      let u := s.strongUse off n true true (some 0)
      let old := Memory.read s.side.mem off n
      (s.granted dev off n true = false → exec (.peerAccess dev a) s = .next { s with out := s.out ++ [.peerReject dev] }) ∧
      (s.granted dev off n true = true → 0 < n → exec (.peerAccess dev a) s =
        .next ((match (if bad n then none else f (ofLe old)) with
          | some v => u.homeWrite [] off ((leBytes n v).map some)
          | none => u).emit (.peerData dev old (bad n)))))) ∧
  (∀ (s : State) (dev : BitVec 20) (a : PeerOp), s.health.ready = false ∨ s.ctl.ven = false →
    exec (.peerAccess dev a) s = .next s) ∧
  (∀ (s : State) (port : Nat) (f : List Byte),
    let l := s.linkAt port
    (s.takesFlit port f 1 = true →
      (flitSeq f = l.rxSeq → l.held = [] → ∃ t, exec (.flitData port f) s = .next t ∧ (t.linkAt port).rxSeq = l.rxSeq + 1 ∧
        (t.linkAt port).held = [] ∧
        t.out = s.out ++ [.deliver port ((f.drop 2).take 58), .flit port (controlFlit 2 l.rxSeq)]) ∧
      (0 < (flitSeq f - l.rxSeq).toNat → (flitSeq f - l.rxSeq).toNat ≤ 512 → (∀ x ∈ l.held, x.1 ≠ flitSeq f) →
        l.held.length < 512 → ∃ t, exec (.flitData port f) s = .next t ∧ (t.linkAt port).rxSeq = l.rxSeq ∧
          (t.linkAt port).held = l.held ++ [(flitSeq f, f)] ∧
          ∀ i < (flitSeq f - l.rxSeq).toNat, l.rxSeq + BitVec.ofNat 12 i ∈ (t.linkAt port).missing.map (·.1) ∨
            ∃ x ∈ l.held, x.1 = l.rxSeq + BitVec.ofNat 12 i)) ∧
    (s.takesFlit port f 2 = true → l.waiting = [] → exec (.flitAcknowledgement port f) s = .next (s.mapLink port fun l =>
      { l with replay := l.replay.filter fun x => decide (2048 ≤ (flitNum f - x.seq).toNat) })) ∧
    (s.takesFlit port f 3 = true → ∀ x, l.replay.find? (fun x => x.seq == flitNum f) = some x →
      exec (.flitReplayRequest port f true) s = .next { s with out := s.out ++ [.flit port x.bytes] } ∧
      ∃ t, exec (.flitReplayRequest port f false) s = .next t ∧ (t.linkAt port).up = false) ∧
    exec (.flitIdle port f) s = .next s ∧
    (s.ctl.ven = true → l.up = true →
      let due := (l.missing.filter fun x => decide (x.2 + 2 ≤ s.us)).map (·.1)
      exec (.replayRequestRepeat port) s = .next { (s.mapLink port fun l => { l with
        missing := l.missing.map fun x => if due.contains x.1 then (x.1, s.us) else x }) with
          out := s.out ++ due.map fun q => .flit port (controlFlit 3 q) }) ∧
    (s.health.ready = true → port < 24 →
      (l.up = false → ∃ t, exec (.linkTraining port true) s = .next t ∧ (t.linkAt port).up = true ∧
        (t.linkAt port).rxSeq = 0 ∧ (t.linkAt port).held = [] ∧ (t.linkAt port).missing = []) ∧
      ∃ t, exec (.linkTraining port false) s = .next t ∧ (t.linkAt port).up = false))

/-! ## Power-up and the fog-signal state -/

/-- Power-up ends READY, with the state of a reset and local HBM zero, or in the fog-signal state at the step of Table
21-1 that failed (R403 to R405), the first step failing for an image that does not verify, or whose write was
interrupted; there the management responder answers from its address in flash and its UDP port, buffers an image, and
writes one that verifies to flash, resetting Kutil, unless the write is interrupted (R406). Outside that state it does
not answer. The layout of the answers, the address
they come from, and when a write is interrupted, a free value, are the model's choices (assumptions 79, 123 and 120). -/
def Obligations.PowerUpEvents : Prop :=
  (∀ (s : State) (r : PowerUpReport),
    let kept (t : State) : Prop := t.health.flash = s.health.flash ∧ t.health.torn = s.health.torn ∧
      t.health.respAddr = s.health.respAddr
    (bootFails s.health.imageOk r = none → ∃ t, exec (.powerUpReset r) s = .next t ∧ t.health.ready = true ∧
      t.health.fog = none ∧ t.side = State.reset.side ∧ t.teams = [] ∧ t.groups = [] ∧ t.tfs = State.reset.tfs ∧
      t.ctl = State.reset.ctl ∧ kept t) ∧
    (∀ k, bootFails s.health.imageOk r = some k → ∃ t, exec (.powerUpReset r) s = .next t ∧ t.health.ready = false ∧
      t.health.fog = some k ∧ kept t) ∧
    (s.health.torn = true ∨ imageVerifies s.health.firmware = false → bootFails s.health.imageOk r = some 1) ∧
    (s.health.torn = false → imageVerifies s.health.firmware = true →
      (r.failedClusters = [] → r.stacksTrained = false → bootFails s.health.imageOk r = some 3) ∧
      (r.failedClusters = [] → r.failedSlices = [] → r.stacksTrained = true → bootFails s.health.imageOk r = none))) ∧
  (∀ img : List Byte, imageVerifies img = true ↔ sha256 (Config.imageModulus img) = Config.fusedHash ∧
    rsaVerify (Config.imageModulus img) (Config.imageSignature img) (sha256 img) = true) ∧
  (∀ (s : State) (k : Nat), s.health.fog = some k →
    let answer (code : Byte) (bs : List Byte) : OutMsg := .responder s.health.respAddr 49320 code bs
    let img := s.health.buffered
    exec .mgmtStatus s = .next { s with out := s.out ++ [answer 1 (BitVec.ofNat 8 k :: leBytes 8 s.hstat)] } ∧
    (∀ off, exec (.mgmtLog off) s =
      .next { s with out := s.out ++ [answer 2 ((List.range 1024).map fun i => Config.selfTestLog (off + i))] }) ∧
    (∀ off bs, off + bs.length ≤ 64 * 2 ^ 20 → ∃ t, exec (.mgmtImageBlock off bs) s = .next t ∧
      t.out = s.out ++ [answer 3 [0]] ∧ (∀ i < bs.length, look t.health.image (off + i) 0 = bs.getD i 0) ∧
      ∀ a, a < off ∨ off + bs.length ≤ a → look t.health.image a 0 = look s.health.image a 0) ∧
    (∀ off bs, 64 * 2 ^ 20 < off + bs.length → exec (.mgmtImageBlock off bs) s =
      .next { s with out := s.out ++ [answer 3 [1]] }) ∧
    (imageVerifies img = false → exec .mgmtImageCommit s = .next { s with out := s.out ++ [answer 4 [1]] }) ∧
    (imageVerifies img = true → ∃ t, exec .mgmtImageCommit s = .next t ∧ t.health.flash = some img ∧ t.health.image = [] ∧
      t.teams = [] ∧ t.health.torn = Config.writeInterrupted s.free ∧
      (Config.writeInterrupted s.free = true → t.health.fog = some 1) ∧
      (Config.writeInterrupted s.free = false → t.out = s.out ++ [answer 4 [0]]))) ∧
  (∀ (s : State) (off : Nat) (bs : List Byte),
    (s.health.fog = none → exec .mgmtStatus s = .next s ∧ exec (.mgmtLog off) s = .next s ∧
      exec (.mgmtImageBlock off bs) s = .next s ∧ exec .mgmtImageCommit s = .next s) ∧
    exec (.mgmtOtherDatagram bs) s = .next s)
end

