-- ==== Sys2Proof/Laws/Memory.lean ====
section
/-!
SUPPORT. Every operation on bytes by address keeps the canonical form, and the memory after reset has it.
-/

namespace Sys2Proof.Machine

/-- What the bound says of a first entry. -/
theorem Memory.above_cons {lo a : Nat} {b : Byte} {t : List Host.Cell} :
    Memory.above lo ((a, b) :: t) = true ↔ lo ≤ a ∧ b ≠ 0 ∧ Memory.above (a + 1) t = true := by
  simp only [Memory.above, Bool.and_eq_true, decide_eq_true_eq, and_assoc]

/-- A list above one bound is above every lower one. -/
theorem Memory.above_mono {lo lo' : Nat} (h : lo' ≤ lo) :
    ∀ {m : List Host.Cell}, Memory.above lo m = true → Memory.above lo' m = true
  | [], _ => rfl
  | (_, _) :: _, hm =>
    have ⟨ha, hb, ht⟩ := Memory.above_cons.1 hm
    Memory.above_cons.2 ⟨Nat.le_trans h ha, hb, ht⟩

/-- Writing a byte at or above a bound keeps the list above it. -/
theorem Memory.set_above {a : Nat} {v : Byte} :
    ∀ {lo : Nat} {m : List Host.Cell}, lo ≤ a → Memory.above lo m = true → Memory.above lo (Memory.set m a v) = true
  | lo, [], h, _ => by
    unfold Memory.set
    split
    · rfl
    · rename_i hv
      exact Memory.above_cons.2 ⟨h, hv, rfl⟩
  | lo, (c, x) :: t, h, hm => by
    obtain ⟨hc, hx, ht⟩ := Memory.above_cons.1 hm
    unfold Memory.set
    split
    · rename_i hlt
      split
      · exact hm
      · rename_i hv
        exact Memory.above_cons.2 ⟨h, hv, Memory.above_cons.2 ⟨hlt, hx, ht⟩⟩
    · rename_i hge
      split
      · rename_i hca
        subst hca
        split
        · exact Memory.above_mono (Nat.le_succ_of_le hc) ht
        · rename_i hv
          exact Memory.above_cons.2 ⟨h, hv, ht⟩
      · exact Memory.above_cons.2 ⟨hc, hx, Memory.set_above (by omega) ht⟩

/-- A write of one byte keeps the canonical form. -/
theorem Memory.set_wf {m : List Host.Cell} {a : Nat} {v : Byte} (h : Memory.wf m = true) :
    Memory.wf (Memory.set m a v) = true :=
  Memory.set_above (Nat.zero_le a) h

/-- A write of a run of bytes keeps the canonical form. -/
theorem Memory.write_wf : ∀ {bs : List Byte} {m : List Host.Cell} {a : Nat}, Memory.wf m = true →
    Memory.wf (Memory.write m a bs) = true
  | [], _, _, h => h
  | _ :: t, _, _, h => Memory.write_wf (bs := t) (Memory.set_wf h)

/-- A write under a mask keeps the canonical form. -/
theorem Memory.writeMasked_wf : ∀ {bs : List (Option Byte)} {m : List Host.Cell} {a : Nat}, Memory.wf m = true →
    Memory.wf (Memory.writeMasked m a bs) = true
  | [], _, _, h => h
  | none :: t, _, _, h => Memory.writeMasked_wf (bs := t) h
  | some _ :: t, _, _, h => Memory.writeMasked_wf (bs := t) (Memory.set_wf h)

/-- Taking a part of a memory keeps it above its bound. -/
theorem Memory.filter_above {p : Host.Cell → Bool} : ∀ {m : List Host.Cell} {lo : Nat}, Memory.above lo m = true →
    Memory.above lo (m.filter p) = true
  | [], _, _ => rfl
  | (a, b) :: t, lo, hm => by
    obtain ⟨ha, hb, ht⟩ := Memory.above_cons.1 hm
    rw [List.filter_cons]
    split
    · exact Memory.above_cons.2 ⟨ha, hb, Memory.filter_above ht⟩
    · exact Memory.above_mono (Nat.le_succ_of_le ha) (Memory.filter_above ht)

/-- Taking a part of a memory keeps the canonical form: what a granule that enters a window does (R51). -/
theorem Memory.filter_wf {m : List Host.Cell} {p : Host.Cell → Bool} (h : Memory.wf m = true) :
    Memory.wf (m.filter p) = true :=
  Memory.filter_above h

/-- Home memory after reset is in canonical form. -/
theorem reset_mem_wf : Memory.wf State.reset.side.mem = true := rfl

end Sys2Proof.Machine
end

