-- ==== Sys2Proof/Laws/State.lean ====
section
/-!
SUPPORT. One lemma for each field of State under each update: what it becomes, or that it stays.
-/

namespace Sys2Proof.Machine

set_option Elab.async false

/-! ## mapGroup -/

@[simp] theorem State.mapGroup_side (s : State) (c i : Nat) (f : Group → Group) : (s.mapGroup c i f).side = s.side := rfl
@[simp] theorem State.mapGroup_groups (s : State) (c i : Nat) (f : Group → Group) : (s.mapGroup c i f).groups = s.groups.map fun g => if g.ctx = c ∧ g.idx = i then f g else g := rfl
@[simp] theorem State.mapGroup_ops (s : State) (c i : Nat) (f : Group → Group) : (s.mapGroup c i f).ops = s.ops := rfl
@[simp] theorem State.mapGroup_copies (s : State) (c i : Nat) (f : Group → Group) : (s.mapGroup c i f).copies = s.copies := rfl
@[simp] theorem State.mapGroup_teams (s : State) (c i : Nat) (f : Group → Group) : (s.mapGroup c i f).teams = s.teams := rfl
@[simp] theorem State.mapGroup_launches (s : State) (c i : Nat) (f : Group → Group) : (s.mapGroup c i f).launches = s.launches := rfl
@[simp] theorem State.mapGroup_tiles (s : State) (c i : Nat) (f : Group → Group) : (s.mapGroup c i f).tiles = s.tiles := rfl
@[simp] theorem State.mapGroup_poolMap (s : State) (c i : Nat) (f : Group → Group) : (s.mapGroup c i f).poolMap = s.poolMap := rfl
@[simp] theorem State.mapGroup_tfs (s : State) (c i : Nat) (f : Group → Group) : (s.mapGroup c i f).tfs = s.tfs := rfl
@[simp] theorem State.mapGroup_queues (s : State) (c i : Nat) (f : Group → Group) : (s.mapGroup c i f).queues = s.queues := rfl
@[simp] theorem State.mapGroup_qps (s : State) (c i : Nat) (f : Group → Group) : (s.mapGroup c i f).qps = s.qps := rfl
@[simp] theorem State.mapGroup_imports (s : State) (c i : Nat) (f : Group → Group) : (s.mapGroup c i f).imports = s.imports := rfl
@[simp] theorem State.mapGroup_slotTab (s : State) (c i : Nat) (f : Group → Group) : (s.mapGroup c i f).slotTab = s.slotTab := rfl
@[simp] theorem State.mapGroup_aperts (s : State) (c i : Nat) (f : Group → Group) : (s.mapGroup c i f).aperts = s.aperts := rfl
@[simp] theorem State.mapGroup_links (s : State) (c i : Nat) (f : Group → Group) : (s.mapGroup c i f).links = s.links := rfl
@[simp] theorem State.mapGroup_taken (s : State) (c i : Nat) (f : Group → Group) : (s.mapGroup c i f).taken = s.taken := rfl
@[simp] theorem State.mapGroup_released (s : State) (c i : Nat) (f : Group → Group) : (s.mapGroup c i f).released = s.released := rfl
@[simp] theorem State.mapGroup_ctl (s : State) (c i : Nat) (f : Group → Group) : (s.mapGroup c i f).ctl = s.ctl := rfl
@[simp] theorem State.mapGroup_health (s : State) (c i : Nat) (f : Group → Group) : (s.mapGroup c i f).health = s.health := rfl
@[simp] theorem State.mapGroup_quads (s : State) (c i : Nat) (f : Group → Group) : (s.mapGroup c i f).quads = s.quads := rfl
@[simp] theorem State.mapGroup_lastCtx (s : State) (c i : Nat) (f : Group → Group) : (s.mapGroup c i f).lastCtx = s.lastCtx := rfl
@[simp] theorem State.mapGroup_clock (s : State) (c i : Nat) (f : Group → Group) : (s.mapGroup c i f).clock = s.clock := rfl
@[simp] theorem State.mapGroup_us (s : State) (c i : Nat) (f : Group → Group) : (s.mapGroup c i f).us = s.us := rfl
@[simp] theorem State.mapGroup_tickAt (s : State) (c i : Nat) (f : Group → Group) : (s.mapGroup c i f).tickAt = s.tickAt := rfl
@[simp] theorem State.mapGroup_out (s : State) (c i : Nat) (f : Group → Group) : (s.mapGroup c i f).out = s.out := rfl
@[simp] theorem State.mapGroup_cur (s : State) (c i : Nat) (f : Group → Group) : (s.mapGroup c i f).cur = s.cur := rfl
@[simp] theorem State.mapGroup_agenda (s : State) (c i : Nat) (f : Group → Group) : (s.mapGroup c i f).agenda = s.agenda := rfl
@[simp] theorem State.mapGroup_paces (s : State) (c i : Nat) (f : Group → Group) : (s.mapGroup c i f).paces = s.paces := rfl
@[simp] theorem State.mapGroup_stamp (s : State) (c i : Nat) (f : Group → Group) : (s.mapGroup c i f).stamp = s.stamp := rfl
@[simp] theorem State.mapGroup_free (s : State) (c i : Nat) (f : Group → Group) : (s.mapGroup c i f).free = s.free := rfl

/-! ## mapTeam -/

@[simp] theorem State.mapTeam_side (s : State) (c : Nat) (f : Team → Team) : (s.mapTeam c f).side = s.side := rfl
@[simp] theorem State.mapTeam_groups (s : State) (c : Nat) (f : Team → Team) : (s.mapTeam c f).groups = s.groups := rfl
@[simp] theorem State.mapTeam_ops (s : State) (c : Nat) (f : Team → Team) : (s.mapTeam c f).ops = s.ops := rfl
@[simp] theorem State.mapTeam_copies (s : State) (c : Nat) (f : Team → Team) : (s.mapTeam c f).copies = s.copies := rfl
@[simp] theorem State.mapTeam_teams (s : State) (c : Nat) (f : Team → Team) : (s.mapTeam c f).teams = s.teams.map fun t => if t.ctx = c then f t else t := rfl
@[simp] theorem State.mapTeam_launches (s : State) (c : Nat) (f : Team → Team) : (s.mapTeam c f).launches = s.launches := rfl
@[simp] theorem State.mapTeam_tiles (s : State) (c : Nat) (f : Team → Team) : (s.mapTeam c f).tiles = s.tiles := rfl
@[simp] theorem State.mapTeam_poolMap (s : State) (c : Nat) (f : Team → Team) : (s.mapTeam c f).poolMap = s.poolMap := rfl
@[simp] theorem State.mapTeam_tfs (s : State) (c : Nat) (f : Team → Team) : (s.mapTeam c f).tfs = s.tfs := rfl
@[simp] theorem State.mapTeam_queues (s : State) (c : Nat) (f : Team → Team) : (s.mapTeam c f).queues = s.queues := rfl
@[simp] theorem State.mapTeam_qps (s : State) (c : Nat) (f : Team → Team) : (s.mapTeam c f).qps = s.qps := rfl
@[simp] theorem State.mapTeam_imports (s : State) (c : Nat) (f : Team → Team) : (s.mapTeam c f).imports = s.imports := rfl
@[simp] theorem State.mapTeam_slotTab (s : State) (c : Nat) (f : Team → Team) : (s.mapTeam c f).slotTab = s.slotTab := rfl
@[simp] theorem State.mapTeam_aperts (s : State) (c : Nat) (f : Team → Team) : (s.mapTeam c f).aperts = s.aperts := rfl
@[simp] theorem State.mapTeam_links (s : State) (c : Nat) (f : Team → Team) : (s.mapTeam c f).links = s.links := rfl
@[simp] theorem State.mapTeam_taken (s : State) (c : Nat) (f : Team → Team) : (s.mapTeam c f).taken = s.taken := rfl
@[simp] theorem State.mapTeam_released (s : State) (c : Nat) (f : Team → Team) : (s.mapTeam c f).released = s.released := rfl
@[simp] theorem State.mapTeam_ctl (s : State) (c : Nat) (f : Team → Team) : (s.mapTeam c f).ctl = s.ctl := rfl
@[simp] theorem State.mapTeam_health (s : State) (c : Nat) (f : Team → Team) : (s.mapTeam c f).health = s.health := rfl
@[simp] theorem State.mapTeam_quads (s : State) (c : Nat) (f : Team → Team) : (s.mapTeam c f).quads = s.quads := rfl
@[simp] theorem State.mapTeam_lastCtx (s : State) (c : Nat) (f : Team → Team) : (s.mapTeam c f).lastCtx = s.lastCtx := rfl
@[simp] theorem State.mapTeam_clock (s : State) (c : Nat) (f : Team → Team) : (s.mapTeam c f).clock = s.clock := rfl
@[simp] theorem State.mapTeam_us (s : State) (c : Nat) (f : Team → Team) : (s.mapTeam c f).us = s.us := rfl
@[simp] theorem State.mapTeam_tickAt (s : State) (c : Nat) (f : Team → Team) : (s.mapTeam c f).tickAt = s.tickAt := rfl
@[simp] theorem State.mapTeam_out (s : State) (c : Nat) (f : Team → Team) : (s.mapTeam c f).out = s.out := rfl
@[simp] theorem State.mapTeam_cur (s : State) (c : Nat) (f : Team → Team) : (s.mapTeam c f).cur = s.cur := rfl
@[simp] theorem State.mapTeam_agenda (s : State) (c : Nat) (f : Team → Team) : (s.mapTeam c f).agenda = s.agenda := rfl
@[simp] theorem State.mapTeam_paces (s : State) (c : Nat) (f : Team → Team) : (s.mapTeam c f).paces = s.paces := rfl
@[simp] theorem State.mapTeam_stamp (s : State) (c : Nat) (f : Team → Team) : (s.mapTeam c f).stamp = s.stamp := rfl
@[simp] theorem State.mapTeam_free (s : State) (c : Nat) (f : Team → Team) : (s.mapTeam c f).free = s.free := rfl

/-! ## mapLaunch -/

@[simp] theorem State.mapLaunch_side (s : State) (n : Nat) (f : Launch → Launch) : (s.mapLaunch n f).side = s.side := rfl
@[simp] theorem State.mapLaunch_groups (s : State) (n : Nat) (f : Launch → Launch) : (s.mapLaunch n f).groups = s.groups := rfl
@[simp] theorem State.mapLaunch_ops (s : State) (n : Nat) (f : Launch → Launch) : (s.mapLaunch n f).ops = s.ops := rfl
@[simp] theorem State.mapLaunch_copies (s : State) (n : Nat) (f : Launch → Launch) : (s.mapLaunch n f).copies = s.copies := rfl
@[simp] theorem State.mapLaunch_teams (s : State) (n : Nat) (f : Launch → Launch) : (s.mapLaunch n f).teams = s.teams := rfl
@[simp] theorem State.mapLaunch_launches (s : State) (n : Nat) (f : Launch → Launch) : (s.mapLaunch n f).launches = s.launches.map fun l => if l.id = n then f l else l := rfl
@[simp] theorem State.mapLaunch_tiles (s : State) (n : Nat) (f : Launch → Launch) : (s.mapLaunch n f).tiles = s.tiles := rfl
@[simp] theorem State.mapLaunch_poolMap (s : State) (n : Nat) (f : Launch → Launch) : (s.mapLaunch n f).poolMap = s.poolMap := rfl
@[simp] theorem State.mapLaunch_tfs (s : State) (n : Nat) (f : Launch → Launch) : (s.mapLaunch n f).tfs = s.tfs := rfl
@[simp] theorem State.mapLaunch_queues (s : State) (n : Nat) (f : Launch → Launch) : (s.mapLaunch n f).queues = s.queues := rfl
@[simp] theorem State.mapLaunch_qps (s : State) (n : Nat) (f : Launch → Launch) : (s.mapLaunch n f).qps = s.qps := rfl
@[simp] theorem State.mapLaunch_imports (s : State) (n : Nat) (f : Launch → Launch) : (s.mapLaunch n f).imports = s.imports := rfl
@[simp] theorem State.mapLaunch_slotTab (s : State) (n : Nat) (f : Launch → Launch) : (s.mapLaunch n f).slotTab = s.slotTab := rfl
@[simp] theorem State.mapLaunch_aperts (s : State) (n : Nat) (f : Launch → Launch) : (s.mapLaunch n f).aperts = s.aperts := rfl
@[simp] theorem State.mapLaunch_links (s : State) (n : Nat) (f : Launch → Launch) : (s.mapLaunch n f).links = s.links := rfl
@[simp] theorem State.mapLaunch_taken (s : State) (n : Nat) (f : Launch → Launch) : (s.mapLaunch n f).taken = s.taken := rfl
@[simp] theorem State.mapLaunch_released (s : State) (n : Nat) (f : Launch → Launch) : (s.mapLaunch n f).released = s.released := rfl
@[simp] theorem State.mapLaunch_ctl (s : State) (n : Nat) (f : Launch → Launch) : (s.mapLaunch n f).ctl = s.ctl := rfl
@[simp] theorem State.mapLaunch_health (s : State) (n : Nat) (f : Launch → Launch) : (s.mapLaunch n f).health = s.health := rfl
@[simp] theorem State.mapLaunch_quads (s : State) (n : Nat) (f : Launch → Launch) : (s.mapLaunch n f).quads = s.quads := rfl
@[simp] theorem State.mapLaunch_lastCtx (s : State) (n : Nat) (f : Launch → Launch) : (s.mapLaunch n f).lastCtx = s.lastCtx := rfl
@[simp] theorem State.mapLaunch_clock (s : State) (n : Nat) (f : Launch → Launch) : (s.mapLaunch n f).clock = s.clock := rfl
@[simp] theorem State.mapLaunch_us (s : State) (n : Nat) (f : Launch → Launch) : (s.mapLaunch n f).us = s.us := rfl
@[simp] theorem State.mapLaunch_tickAt (s : State) (n : Nat) (f : Launch → Launch) : (s.mapLaunch n f).tickAt = s.tickAt := rfl
@[simp] theorem State.mapLaunch_out (s : State) (n : Nat) (f : Launch → Launch) : (s.mapLaunch n f).out = s.out := rfl
@[simp] theorem State.mapLaunch_cur (s : State) (n : Nat) (f : Launch → Launch) : (s.mapLaunch n f).cur = s.cur := rfl
@[simp] theorem State.mapLaunch_agenda (s : State) (n : Nat) (f : Launch → Launch) : (s.mapLaunch n f).agenda = s.agenda := rfl
@[simp] theorem State.mapLaunch_paces (s : State) (n : Nat) (f : Launch → Launch) : (s.mapLaunch n f).paces = s.paces := rfl
@[simp] theorem State.mapLaunch_stamp (s : State) (n : Nat) (f : Launch → Launch) : (s.mapLaunch n f).stamp = s.stamp := rfl
@[simp] theorem State.mapLaunch_free (s : State) (n : Nat) (f : Launch → Launch) : (s.mapLaunch n f).free = s.free := rfl

/-! ## mapTf -/

@[simp] theorem State.mapTf_side (s : State) (n : Nat) (f : TfBlock → TfBlock) : (s.mapTf n f).side = s.side := rfl
@[simp] theorem State.mapTf_groups (s : State) (n : Nat) (f : TfBlock → TfBlock) : (s.mapTf n f).groups = s.groups := rfl
@[simp] theorem State.mapTf_ops (s : State) (n : Nat) (f : TfBlock → TfBlock) : (s.mapTf n f).ops = s.ops := rfl
@[simp] theorem State.mapTf_copies (s : State) (n : Nat) (f : TfBlock → TfBlock) : (s.mapTf n f).copies = s.copies := rfl
@[simp] theorem State.mapTf_teams (s : State) (n : Nat) (f : TfBlock → TfBlock) : (s.mapTf n f).teams = s.teams := rfl
@[simp] theorem State.mapTf_launches (s : State) (n : Nat) (f : TfBlock → TfBlock) : (s.mapTf n f).launches = s.launches := rfl
@[simp] theorem State.mapTf_tiles (s : State) (n : Nat) (f : TfBlock → TfBlock) : (s.mapTf n f).tiles = s.tiles := rfl
@[simp] theorem State.mapTf_poolMap (s : State) (n : Nat) (f : TfBlock → TfBlock) : (s.mapTf n f).poolMap = s.poolMap := rfl
@[simp] theorem State.mapTf_tfs (s : State) (n : Nat) (f : TfBlock → TfBlock) : (s.mapTf n f).tfs = put s.tfs n (f (s.tf n)) := rfl
@[simp] theorem State.mapTf_queues (s : State) (n : Nat) (f : TfBlock → TfBlock) : (s.mapTf n f).queues = s.queues := rfl
@[simp] theorem State.mapTf_qps (s : State) (n : Nat) (f : TfBlock → TfBlock) : (s.mapTf n f).qps = s.qps := rfl
@[simp] theorem State.mapTf_imports (s : State) (n : Nat) (f : TfBlock → TfBlock) : (s.mapTf n f).imports = s.imports := rfl
@[simp] theorem State.mapTf_slotTab (s : State) (n : Nat) (f : TfBlock → TfBlock) : (s.mapTf n f).slotTab = s.slotTab := rfl
@[simp] theorem State.mapTf_aperts (s : State) (n : Nat) (f : TfBlock → TfBlock) : (s.mapTf n f).aperts = s.aperts := rfl
@[simp] theorem State.mapTf_links (s : State) (n : Nat) (f : TfBlock → TfBlock) : (s.mapTf n f).links = s.links := rfl
@[simp] theorem State.mapTf_taken (s : State) (n : Nat) (f : TfBlock → TfBlock) : (s.mapTf n f).taken = s.taken := rfl
@[simp] theorem State.mapTf_released (s : State) (n : Nat) (f : TfBlock → TfBlock) : (s.mapTf n f).released = s.released := rfl
@[simp] theorem State.mapTf_ctl (s : State) (n : Nat) (f : TfBlock → TfBlock) : (s.mapTf n f).ctl = s.ctl := rfl
@[simp] theorem State.mapTf_health (s : State) (n : Nat) (f : TfBlock → TfBlock) : (s.mapTf n f).health = s.health := rfl
@[simp] theorem State.mapTf_quads (s : State) (n : Nat) (f : TfBlock → TfBlock) : (s.mapTf n f).quads = s.quads := rfl
@[simp] theorem State.mapTf_lastCtx (s : State) (n : Nat) (f : TfBlock → TfBlock) : (s.mapTf n f).lastCtx = s.lastCtx := rfl
@[simp] theorem State.mapTf_clock (s : State) (n : Nat) (f : TfBlock → TfBlock) : (s.mapTf n f).clock = s.clock := rfl
@[simp] theorem State.mapTf_us (s : State) (n : Nat) (f : TfBlock → TfBlock) : (s.mapTf n f).us = s.us := rfl
@[simp] theorem State.mapTf_tickAt (s : State) (n : Nat) (f : TfBlock → TfBlock) : (s.mapTf n f).tickAt = s.tickAt := rfl
@[simp] theorem State.mapTf_out (s : State) (n : Nat) (f : TfBlock → TfBlock) : (s.mapTf n f).out = s.out := rfl
@[simp] theorem State.mapTf_cur (s : State) (n : Nat) (f : TfBlock → TfBlock) : (s.mapTf n f).cur = s.cur := rfl
@[simp] theorem State.mapTf_agenda (s : State) (n : Nat) (f : TfBlock → TfBlock) : (s.mapTf n f).agenda = s.agenda := rfl
@[simp] theorem State.mapTf_paces (s : State) (n : Nat) (f : TfBlock → TfBlock) : (s.mapTf n f).paces = s.paces := rfl
@[simp] theorem State.mapTf_stamp (s : State) (n : Nat) (f : TfBlock → TfBlock) : (s.mapTf n f).stamp = s.stamp := rfl
@[simp] theorem State.mapTf_free (s : State) (n : Nat) (f : TfBlock → TfBlock) : (s.mapTf n f).free = s.free := rfl

/-! ## mapSide -/

@[simp] theorem State.mapSide_side (s : State) (f : MemSide → MemSide) : (s.mapSide f).side = f s.side := rfl
@[simp] theorem State.mapSide_groups (s : State) (f : MemSide → MemSide) : (s.mapSide f).groups = s.groups := rfl
@[simp] theorem State.mapSide_ops (s : State) (f : MemSide → MemSide) : (s.mapSide f).ops = s.ops := rfl
@[simp] theorem State.mapSide_copies (s : State) (f : MemSide → MemSide) : (s.mapSide f).copies = s.copies := rfl
@[simp] theorem State.mapSide_teams (s : State) (f : MemSide → MemSide) : (s.mapSide f).teams = s.teams := rfl
@[simp] theorem State.mapSide_launches (s : State) (f : MemSide → MemSide) : (s.mapSide f).launches = s.launches := rfl
@[simp] theorem State.mapSide_tiles (s : State) (f : MemSide → MemSide) : (s.mapSide f).tiles = s.tiles := rfl
@[simp] theorem State.mapSide_poolMap (s : State) (f : MemSide → MemSide) : (s.mapSide f).poolMap = s.poolMap := rfl
@[simp] theorem State.mapSide_tfs (s : State) (f : MemSide → MemSide) : (s.mapSide f).tfs = s.tfs := rfl
@[simp] theorem State.mapSide_queues (s : State) (f : MemSide → MemSide) : (s.mapSide f).queues = s.queues := rfl
@[simp] theorem State.mapSide_qps (s : State) (f : MemSide → MemSide) : (s.mapSide f).qps = s.qps := rfl
@[simp] theorem State.mapSide_imports (s : State) (f : MemSide → MemSide) : (s.mapSide f).imports = s.imports := rfl
@[simp] theorem State.mapSide_slotTab (s : State) (f : MemSide → MemSide) : (s.mapSide f).slotTab = s.slotTab := rfl
@[simp] theorem State.mapSide_aperts (s : State) (f : MemSide → MemSide) : (s.mapSide f).aperts = s.aperts := rfl
@[simp] theorem State.mapSide_links (s : State) (f : MemSide → MemSide) : (s.mapSide f).links = s.links := rfl
@[simp] theorem State.mapSide_taken (s : State) (f : MemSide → MemSide) : (s.mapSide f).taken = s.taken := rfl
@[simp] theorem State.mapSide_released (s : State) (f : MemSide → MemSide) : (s.mapSide f).released = s.released := rfl
@[simp] theorem State.mapSide_ctl (s : State) (f : MemSide → MemSide) : (s.mapSide f).ctl = s.ctl := rfl
@[simp] theorem State.mapSide_health (s : State) (f : MemSide → MemSide) : (s.mapSide f).health = s.health := rfl
@[simp] theorem State.mapSide_quads (s : State) (f : MemSide → MemSide) : (s.mapSide f).quads = s.quads := rfl
@[simp] theorem State.mapSide_lastCtx (s : State) (f : MemSide → MemSide) : (s.mapSide f).lastCtx = s.lastCtx := rfl
@[simp] theorem State.mapSide_clock (s : State) (f : MemSide → MemSide) : (s.mapSide f).clock = s.clock := rfl
@[simp] theorem State.mapSide_us (s : State) (f : MemSide → MemSide) : (s.mapSide f).us = s.us := rfl
@[simp] theorem State.mapSide_tickAt (s : State) (f : MemSide → MemSide) : (s.mapSide f).tickAt = s.tickAt := rfl
@[simp] theorem State.mapSide_out (s : State) (f : MemSide → MemSide) : (s.mapSide f).out = s.out := rfl
@[simp] theorem State.mapSide_cur (s : State) (f : MemSide → MemSide) : (s.mapSide f).cur = s.cur := rfl
@[simp] theorem State.mapSide_agenda (s : State) (f : MemSide → MemSide) : (s.mapSide f).agenda = s.agenda := rfl
@[simp] theorem State.mapSide_paces (s : State) (f : MemSide → MemSide) : (s.mapSide f).paces = s.paces := rfl
@[simp] theorem State.mapSide_stamp (s : State) (f : MemSide → MemSide) : (s.mapSide f).stamp = s.stamp := rfl
@[simp] theorem State.mapSide_free (s : State) (f : MemSide → MemSide) : (s.mapSide f).free = s.free := rfl

/-! ## mapQueue -/

@[simp] theorem State.mapQueue_side (s : State) (n : Nat) (f : LaunchQueue → LaunchQueue) : (s.mapQueue n f).side = s.side := rfl
@[simp] theorem State.mapQueue_groups (s : State) (n : Nat) (f : LaunchQueue → LaunchQueue) : (s.mapQueue n f).groups = s.groups := rfl
@[simp] theorem State.mapQueue_ops (s : State) (n : Nat) (f : LaunchQueue → LaunchQueue) : (s.mapQueue n f).ops = s.ops := rfl
@[simp] theorem State.mapQueue_copies (s : State) (n : Nat) (f : LaunchQueue → LaunchQueue) : (s.mapQueue n f).copies = s.copies := rfl
@[simp] theorem State.mapQueue_teams (s : State) (n : Nat) (f : LaunchQueue → LaunchQueue) : (s.mapQueue n f).teams = s.teams := rfl
@[simp] theorem State.mapQueue_launches (s : State) (n : Nat) (f : LaunchQueue → LaunchQueue) : (s.mapQueue n f).launches = s.launches := rfl
@[simp] theorem State.mapQueue_tiles (s : State) (n : Nat) (f : LaunchQueue → LaunchQueue) : (s.mapQueue n f).tiles = s.tiles := rfl
@[simp] theorem State.mapQueue_poolMap (s : State) (n : Nat) (f : LaunchQueue → LaunchQueue) : (s.mapQueue n f).poolMap = s.poolMap := rfl
@[simp] theorem State.mapQueue_tfs (s : State) (n : Nat) (f : LaunchQueue → LaunchQueue) : (s.mapQueue n f).tfs = s.tfs := rfl
@[simp] theorem State.mapQueue_queues (s : State) (n : Nat) (f : LaunchQueue → LaunchQueue) : (s.mapQueue n f).queues = put s.queues n (f (s.queueAt n)) := rfl
@[simp] theorem State.mapQueue_qps (s : State) (n : Nat) (f : LaunchQueue → LaunchQueue) : (s.mapQueue n f).qps = s.qps := rfl
@[simp] theorem State.mapQueue_imports (s : State) (n : Nat) (f : LaunchQueue → LaunchQueue) : (s.mapQueue n f).imports = s.imports := rfl
@[simp] theorem State.mapQueue_slotTab (s : State) (n : Nat) (f : LaunchQueue → LaunchQueue) : (s.mapQueue n f).slotTab = s.slotTab := rfl
@[simp] theorem State.mapQueue_aperts (s : State) (n : Nat) (f : LaunchQueue → LaunchQueue) : (s.mapQueue n f).aperts = s.aperts := rfl
@[simp] theorem State.mapQueue_links (s : State) (n : Nat) (f : LaunchQueue → LaunchQueue) : (s.mapQueue n f).links = s.links := rfl
@[simp] theorem State.mapQueue_taken (s : State) (n : Nat) (f : LaunchQueue → LaunchQueue) : (s.mapQueue n f).taken = s.taken := rfl
@[simp] theorem State.mapQueue_released (s : State) (n : Nat) (f : LaunchQueue → LaunchQueue) : (s.mapQueue n f).released = s.released := rfl
@[simp] theorem State.mapQueue_ctl (s : State) (n : Nat) (f : LaunchQueue → LaunchQueue) : (s.mapQueue n f).ctl = s.ctl := rfl
@[simp] theorem State.mapQueue_health (s : State) (n : Nat) (f : LaunchQueue → LaunchQueue) : (s.mapQueue n f).health = s.health := rfl
@[simp] theorem State.mapQueue_quads (s : State) (n : Nat) (f : LaunchQueue → LaunchQueue) : (s.mapQueue n f).quads = s.quads := rfl
@[simp] theorem State.mapQueue_lastCtx (s : State) (n : Nat) (f : LaunchQueue → LaunchQueue) : (s.mapQueue n f).lastCtx = s.lastCtx := rfl
@[simp] theorem State.mapQueue_clock (s : State) (n : Nat) (f : LaunchQueue → LaunchQueue) : (s.mapQueue n f).clock = s.clock := rfl
@[simp] theorem State.mapQueue_us (s : State) (n : Nat) (f : LaunchQueue → LaunchQueue) : (s.mapQueue n f).us = s.us := rfl
@[simp] theorem State.mapQueue_tickAt (s : State) (n : Nat) (f : LaunchQueue → LaunchQueue) : (s.mapQueue n f).tickAt = s.tickAt := rfl
@[simp] theorem State.mapQueue_out (s : State) (n : Nat) (f : LaunchQueue → LaunchQueue) : (s.mapQueue n f).out = s.out := rfl
@[simp] theorem State.mapQueue_cur (s : State) (n : Nat) (f : LaunchQueue → LaunchQueue) : (s.mapQueue n f).cur = s.cur := rfl
@[simp] theorem State.mapQueue_agenda (s : State) (n : Nat) (f : LaunchQueue → LaunchQueue) : (s.mapQueue n f).agenda = s.agenda := rfl
@[simp] theorem State.mapQueue_paces (s : State) (n : Nat) (f : LaunchQueue → LaunchQueue) : (s.mapQueue n f).paces = s.paces := rfl
@[simp] theorem State.mapQueue_stamp (s : State) (n : Nat) (f : LaunchQueue → LaunchQueue) : (s.mapQueue n f).stamp = s.stamp := rfl
@[simp] theorem State.mapQueue_free (s : State) (n : Nat) (f : LaunchQueue → LaunchQueue) : (s.mapQueue n f).free = s.free := rfl

/-! ## mapQuad -/

@[simp] theorem State.mapQuad_side (s : State) (c q : Nat) (f : Quadrant → Quadrant) : (s.mapQuad c q f).side = s.side := rfl
@[simp] theorem State.mapQuad_groups (s : State) (c q : Nat) (f : Quadrant → Quadrant) : (s.mapQuad c q f).groups = s.groups := rfl
@[simp] theorem State.mapQuad_ops (s : State) (c q : Nat) (f : Quadrant → Quadrant) : (s.mapQuad c q f).ops = s.ops := rfl
@[simp] theorem State.mapQuad_copies (s : State) (c q : Nat) (f : Quadrant → Quadrant) : (s.mapQuad c q f).copies = s.copies := rfl
@[simp] theorem State.mapQuad_teams (s : State) (c q : Nat) (f : Quadrant → Quadrant) : (s.mapQuad c q f).teams = s.teams := rfl
@[simp] theorem State.mapQuad_launches (s : State) (c q : Nat) (f : Quadrant → Quadrant) : (s.mapQuad c q f).launches = s.launches := rfl
@[simp] theorem State.mapQuad_tiles (s : State) (c q : Nat) (f : Quadrant → Quadrant) : (s.mapQuad c q f).tiles = s.tiles := rfl
@[simp] theorem State.mapQuad_poolMap (s : State) (c q : Nat) (f : Quadrant → Quadrant) : (s.mapQuad c q f).poolMap = s.poolMap := rfl
@[simp] theorem State.mapQuad_tfs (s : State) (c q : Nat) (f : Quadrant → Quadrant) : (s.mapQuad c q f).tfs = s.tfs := rfl
@[simp] theorem State.mapQuad_queues (s : State) (c q : Nat) (f : Quadrant → Quadrant) : (s.mapQuad c q f).queues = s.queues := rfl
@[simp] theorem State.mapQuad_qps (s : State) (c q : Nat) (f : Quadrant → Quadrant) : (s.mapQuad c q f).qps = s.qps := rfl
@[simp] theorem State.mapQuad_imports (s : State) (c q : Nat) (f : Quadrant → Quadrant) : (s.mapQuad c q f).imports = s.imports := rfl
@[simp] theorem State.mapQuad_slotTab (s : State) (c q : Nat) (f : Quadrant → Quadrant) : (s.mapQuad c q f).slotTab = s.slotTab := rfl
@[simp] theorem State.mapQuad_aperts (s : State) (c q : Nat) (f : Quadrant → Quadrant) : (s.mapQuad c q f).aperts = s.aperts := rfl
@[simp] theorem State.mapQuad_links (s : State) (c q : Nat) (f : Quadrant → Quadrant) : (s.mapQuad c q f).links = s.links := rfl
@[simp] theorem State.mapQuad_taken (s : State) (c q : Nat) (f : Quadrant → Quadrant) : (s.mapQuad c q f).taken = s.taken := rfl
@[simp] theorem State.mapQuad_released (s : State) (c q : Nat) (f : Quadrant → Quadrant) : (s.mapQuad c q f).released = s.released := rfl
@[simp] theorem State.mapQuad_ctl (s : State) (c q : Nat) (f : Quadrant → Quadrant) : (s.mapQuad c q f).ctl = s.ctl := rfl
@[simp] theorem State.mapQuad_health (s : State) (c q : Nat) (f : Quadrant → Quadrant) : (s.mapQuad c q f).health = s.health := rfl
@[simp] theorem State.mapQuad_quads (s : State) (c q : Nat) (f : Quadrant → Quadrant) : (s.mapQuad c q f).quads = put s.quads (4 * c + q) (f (s.quadAt c q)) := rfl
@[simp] theorem State.mapQuad_lastCtx (s : State) (c q : Nat) (f : Quadrant → Quadrant) : (s.mapQuad c q f).lastCtx = s.lastCtx := rfl
@[simp] theorem State.mapQuad_clock (s : State) (c q : Nat) (f : Quadrant → Quadrant) : (s.mapQuad c q f).clock = s.clock := rfl
@[simp] theorem State.mapQuad_us (s : State) (c q : Nat) (f : Quadrant → Quadrant) : (s.mapQuad c q f).us = s.us := rfl
@[simp] theorem State.mapQuad_tickAt (s : State) (c q : Nat) (f : Quadrant → Quadrant) : (s.mapQuad c q f).tickAt = s.tickAt := rfl
@[simp] theorem State.mapQuad_out (s : State) (c q : Nat) (f : Quadrant → Quadrant) : (s.mapQuad c q f).out = s.out := rfl
@[simp] theorem State.mapQuad_cur (s : State) (c q : Nat) (f : Quadrant → Quadrant) : (s.mapQuad c q f).cur = s.cur := rfl
@[simp] theorem State.mapQuad_agenda (s : State) (c q : Nat) (f : Quadrant → Quadrant) : (s.mapQuad c q f).agenda = s.agenda := rfl
@[simp] theorem State.mapQuad_paces (s : State) (c q : Nat) (f : Quadrant → Quadrant) : (s.mapQuad c q f).paces = s.paces := rfl
@[simp] theorem State.mapQuad_stamp (s : State) (c q : Nat) (f : Quadrant → Quadrant) : (s.mapQuad c q f).stamp = s.stamp := rfl
@[simp] theorem State.mapQuad_free (s : State) (c q : Nat) (f : Quadrant → Quadrant) : (s.mapQuad c q f).free = s.free := rfl

/-! ## mapQp -/

@[simp] theorem State.mapQp_side (s : State) (n : Nat) (f : QueuePair → QueuePair) : (s.mapQp n f).side = s.side := rfl
@[simp] theorem State.mapQp_groups (s : State) (n : Nat) (f : QueuePair → QueuePair) : (s.mapQp n f).groups = s.groups := rfl
@[simp] theorem State.mapQp_ops (s : State) (n : Nat) (f : QueuePair → QueuePair) : (s.mapQp n f).ops = s.ops := rfl
@[simp] theorem State.mapQp_copies (s : State) (n : Nat) (f : QueuePair → QueuePair) : (s.mapQp n f).copies = s.copies := rfl
@[simp] theorem State.mapQp_teams (s : State) (n : Nat) (f : QueuePair → QueuePair) : (s.mapQp n f).teams = s.teams := rfl
@[simp] theorem State.mapQp_launches (s : State) (n : Nat) (f : QueuePair → QueuePair) : (s.mapQp n f).launches = s.launches := rfl
@[simp] theorem State.mapQp_tiles (s : State) (n : Nat) (f : QueuePair → QueuePair) : (s.mapQp n f).tiles = s.tiles := rfl
@[simp] theorem State.mapQp_poolMap (s : State) (n : Nat) (f : QueuePair → QueuePair) : (s.mapQp n f).poolMap = s.poolMap := rfl
@[simp] theorem State.mapQp_tfs (s : State) (n : Nat) (f : QueuePair → QueuePair) : (s.mapQp n f).tfs = s.tfs := rfl
@[simp] theorem State.mapQp_queues (s : State) (n : Nat) (f : QueuePair → QueuePair) : (s.mapQp n f).queues = s.queues := rfl
@[simp] theorem State.mapQp_qps (s : State) (n : Nat) (f : QueuePair → QueuePair) : (s.mapQp n f).qps = put s.qps n (f (s.qpAt n)) := rfl
@[simp] theorem State.mapQp_imports (s : State) (n : Nat) (f : QueuePair → QueuePair) : (s.mapQp n f).imports = s.imports := rfl
@[simp] theorem State.mapQp_slotTab (s : State) (n : Nat) (f : QueuePair → QueuePair) : (s.mapQp n f).slotTab = s.slotTab := rfl
@[simp] theorem State.mapQp_aperts (s : State) (n : Nat) (f : QueuePair → QueuePair) : (s.mapQp n f).aperts = s.aperts := rfl
@[simp] theorem State.mapQp_links (s : State) (n : Nat) (f : QueuePair → QueuePair) : (s.mapQp n f).links = s.links := rfl
@[simp] theorem State.mapQp_taken (s : State) (n : Nat) (f : QueuePair → QueuePair) : (s.mapQp n f).taken = s.taken := rfl
@[simp] theorem State.mapQp_released (s : State) (n : Nat) (f : QueuePair → QueuePair) : (s.mapQp n f).released = s.released := rfl
@[simp] theorem State.mapQp_ctl (s : State) (n : Nat) (f : QueuePair → QueuePair) : (s.mapQp n f).ctl = s.ctl := rfl
@[simp] theorem State.mapQp_health (s : State) (n : Nat) (f : QueuePair → QueuePair) : (s.mapQp n f).health = s.health := rfl
@[simp] theorem State.mapQp_quads (s : State) (n : Nat) (f : QueuePair → QueuePair) : (s.mapQp n f).quads = s.quads := rfl
@[simp] theorem State.mapQp_lastCtx (s : State) (n : Nat) (f : QueuePair → QueuePair) : (s.mapQp n f).lastCtx = s.lastCtx := rfl
@[simp] theorem State.mapQp_clock (s : State) (n : Nat) (f : QueuePair → QueuePair) : (s.mapQp n f).clock = s.clock := rfl
@[simp] theorem State.mapQp_us (s : State) (n : Nat) (f : QueuePair → QueuePair) : (s.mapQp n f).us = s.us := rfl
@[simp] theorem State.mapQp_tickAt (s : State) (n : Nat) (f : QueuePair → QueuePair) : (s.mapQp n f).tickAt = s.tickAt := rfl
@[simp] theorem State.mapQp_out (s : State) (n : Nat) (f : QueuePair → QueuePair) : (s.mapQp n f).out = s.out := rfl
@[simp] theorem State.mapQp_cur (s : State) (n : Nat) (f : QueuePair → QueuePair) : (s.mapQp n f).cur = s.cur := rfl
@[simp] theorem State.mapQp_agenda (s : State) (n : Nat) (f : QueuePair → QueuePair) : (s.mapQp n f).agenda = s.agenda := rfl
@[simp] theorem State.mapQp_paces (s : State) (n : Nat) (f : QueuePair → QueuePair) : (s.mapQp n f).paces = s.paces := rfl
@[simp] theorem State.mapQp_stamp (s : State) (n : Nat) (f : QueuePair → QueuePair) : (s.mapQp n f).stamp = s.stamp := rfl
@[simp] theorem State.mapQp_free (s : State) (n : Nat) (f : QueuePair → QueuePair) : (s.mapQp n f).free = s.free := rfl

/-! ## mapLink -/

@[simp] theorem State.mapLink_side (s : State) (n : Nat) (f : Link → Link) : (s.mapLink n f).side = s.side := rfl
@[simp] theorem State.mapLink_groups (s : State) (n : Nat) (f : Link → Link) : (s.mapLink n f).groups = s.groups := rfl
@[simp] theorem State.mapLink_ops (s : State) (n : Nat) (f : Link → Link) : (s.mapLink n f).ops = s.ops := rfl
@[simp] theorem State.mapLink_copies (s : State) (n : Nat) (f : Link → Link) : (s.mapLink n f).copies = s.copies := rfl
@[simp] theorem State.mapLink_teams (s : State) (n : Nat) (f : Link → Link) : (s.mapLink n f).teams = s.teams := rfl
@[simp] theorem State.mapLink_launches (s : State) (n : Nat) (f : Link → Link) : (s.mapLink n f).launches = s.launches := rfl
@[simp] theorem State.mapLink_tiles (s : State) (n : Nat) (f : Link → Link) : (s.mapLink n f).tiles = s.tiles := rfl
@[simp] theorem State.mapLink_poolMap (s : State) (n : Nat) (f : Link → Link) : (s.mapLink n f).poolMap = s.poolMap := rfl
@[simp] theorem State.mapLink_tfs (s : State) (n : Nat) (f : Link → Link) : (s.mapLink n f).tfs = s.tfs := rfl
@[simp] theorem State.mapLink_queues (s : State) (n : Nat) (f : Link → Link) : (s.mapLink n f).queues = s.queues := rfl
@[simp] theorem State.mapLink_qps (s : State) (n : Nat) (f : Link → Link) : (s.mapLink n f).qps = s.qps := rfl
@[simp] theorem State.mapLink_imports (s : State) (n : Nat) (f : Link → Link) : (s.mapLink n f).imports = s.imports := rfl
@[simp] theorem State.mapLink_slotTab (s : State) (n : Nat) (f : Link → Link) : (s.mapLink n f).slotTab = s.slotTab := rfl
@[simp] theorem State.mapLink_aperts (s : State) (n : Nat) (f : Link → Link) : (s.mapLink n f).aperts = s.aperts := rfl
@[simp] theorem State.mapLink_links (s : State) (n : Nat) (f : Link → Link) : (s.mapLink n f).links = put s.links n (f (s.linkAt n)) := rfl
@[simp] theorem State.mapLink_taken (s : State) (n : Nat) (f : Link → Link) : (s.mapLink n f).taken = s.taken := rfl
@[simp] theorem State.mapLink_released (s : State) (n : Nat) (f : Link → Link) : (s.mapLink n f).released = s.released := rfl
@[simp] theorem State.mapLink_ctl (s : State) (n : Nat) (f : Link → Link) : (s.mapLink n f).ctl = s.ctl := rfl
@[simp] theorem State.mapLink_health (s : State) (n : Nat) (f : Link → Link) : (s.mapLink n f).health = s.health := rfl
@[simp] theorem State.mapLink_quads (s : State) (n : Nat) (f : Link → Link) : (s.mapLink n f).quads = s.quads := rfl
@[simp] theorem State.mapLink_lastCtx (s : State) (n : Nat) (f : Link → Link) : (s.mapLink n f).lastCtx = s.lastCtx := rfl
@[simp] theorem State.mapLink_clock (s : State) (n : Nat) (f : Link → Link) : (s.mapLink n f).clock = s.clock := rfl
@[simp] theorem State.mapLink_us (s : State) (n : Nat) (f : Link → Link) : (s.mapLink n f).us = s.us := rfl
@[simp] theorem State.mapLink_tickAt (s : State) (n : Nat) (f : Link → Link) : (s.mapLink n f).tickAt = s.tickAt := rfl
@[simp] theorem State.mapLink_out (s : State) (n : Nat) (f : Link → Link) : (s.mapLink n f).out = s.out := rfl
@[simp] theorem State.mapLink_cur (s : State) (n : Nat) (f : Link → Link) : (s.mapLink n f).cur = s.cur := rfl
@[simp] theorem State.mapLink_agenda (s : State) (n : Nat) (f : Link → Link) : (s.mapLink n f).agenda = s.agenda := rfl
@[simp] theorem State.mapLink_paces (s : State) (n : Nat) (f : Link → Link) : (s.mapLink n f).paces = s.paces := rfl
@[simp] theorem State.mapLink_stamp (s : State) (n : Nat) (f : Link → Link) : (s.mapLink n f).stamp = s.stamp := rfl
@[simp] theorem State.mapLink_free (s : State) (n : Nat) (f : Link → Link) : (s.mapLink n f).free = s.free := rfl

/-! ## mapOp -/

@[simp] theorem State.mapOp_side (s : State) (n : Nat) (f : Op → Op) : (s.mapOp n f).side = s.side := rfl
@[simp] theorem State.mapOp_groups (s : State) (n : Nat) (f : Op → Op) : (s.mapOp n f).groups = s.groups := rfl
@[simp] theorem State.mapOp_ops (s : State) (n : Nat) (f : Op → Op) : (s.mapOp n f).ops = s.ops.map fun o => if o.id = n then f o else o := rfl
@[simp] theorem State.mapOp_copies (s : State) (n : Nat) (f : Op → Op) : (s.mapOp n f).copies = s.copies := rfl
@[simp] theorem State.mapOp_teams (s : State) (n : Nat) (f : Op → Op) : (s.mapOp n f).teams = s.teams := rfl
@[simp] theorem State.mapOp_launches (s : State) (n : Nat) (f : Op → Op) : (s.mapOp n f).launches = s.launches := rfl
@[simp] theorem State.mapOp_tiles (s : State) (n : Nat) (f : Op → Op) : (s.mapOp n f).tiles = s.tiles := rfl
@[simp] theorem State.mapOp_poolMap (s : State) (n : Nat) (f : Op → Op) : (s.mapOp n f).poolMap = s.poolMap := rfl
@[simp] theorem State.mapOp_tfs (s : State) (n : Nat) (f : Op → Op) : (s.mapOp n f).tfs = s.tfs := rfl
@[simp] theorem State.mapOp_queues (s : State) (n : Nat) (f : Op → Op) : (s.mapOp n f).queues = s.queues := rfl
@[simp] theorem State.mapOp_qps (s : State) (n : Nat) (f : Op → Op) : (s.mapOp n f).qps = s.qps := rfl
@[simp] theorem State.mapOp_imports (s : State) (n : Nat) (f : Op → Op) : (s.mapOp n f).imports = s.imports := rfl
@[simp] theorem State.mapOp_slotTab (s : State) (n : Nat) (f : Op → Op) : (s.mapOp n f).slotTab = s.slotTab := rfl
@[simp] theorem State.mapOp_aperts (s : State) (n : Nat) (f : Op → Op) : (s.mapOp n f).aperts = s.aperts := rfl
@[simp] theorem State.mapOp_links (s : State) (n : Nat) (f : Op → Op) : (s.mapOp n f).links = s.links := rfl
@[simp] theorem State.mapOp_taken (s : State) (n : Nat) (f : Op → Op) : (s.mapOp n f).taken = s.taken := rfl
@[simp] theorem State.mapOp_released (s : State) (n : Nat) (f : Op → Op) : (s.mapOp n f).released = s.released := rfl
@[simp] theorem State.mapOp_ctl (s : State) (n : Nat) (f : Op → Op) : (s.mapOp n f).ctl = s.ctl := rfl
@[simp] theorem State.mapOp_health (s : State) (n : Nat) (f : Op → Op) : (s.mapOp n f).health = s.health := rfl
@[simp] theorem State.mapOp_quads (s : State) (n : Nat) (f : Op → Op) : (s.mapOp n f).quads = s.quads := rfl
@[simp] theorem State.mapOp_lastCtx (s : State) (n : Nat) (f : Op → Op) : (s.mapOp n f).lastCtx = s.lastCtx := rfl
@[simp] theorem State.mapOp_clock (s : State) (n : Nat) (f : Op → Op) : (s.mapOp n f).clock = s.clock := rfl
@[simp] theorem State.mapOp_us (s : State) (n : Nat) (f : Op → Op) : (s.mapOp n f).us = s.us := rfl
@[simp] theorem State.mapOp_tickAt (s : State) (n : Nat) (f : Op → Op) : (s.mapOp n f).tickAt = s.tickAt := rfl
@[simp] theorem State.mapOp_out (s : State) (n : Nat) (f : Op → Op) : (s.mapOp n f).out = s.out := rfl
@[simp] theorem State.mapOp_cur (s : State) (n : Nat) (f : Op → Op) : (s.mapOp n f).cur = s.cur := rfl
@[simp] theorem State.mapOp_agenda (s : State) (n : Nat) (f : Op → Op) : (s.mapOp n f).agenda = s.agenda := rfl
@[simp] theorem State.mapOp_paces (s : State) (n : Nat) (f : Op → Op) : (s.mapOp n f).paces = s.paces := rfl
@[simp] theorem State.mapOp_stamp (s : State) (n : Nat) (f : Op → Op) : (s.mapOp n f).stamp = s.stamp := rfl
@[simp] theorem State.mapOp_free (s : State) (n : Nat) (f : Op → Op) : (s.mapOp n f).free = s.free := rfl

/-! ## removeOp -/

@[simp] theorem State.removeOp_side (s : State) (n : Nat) : (s.removeOp n).side = s.side := rfl
@[simp] theorem State.removeOp_groups (s : State) (n : Nat) : (s.removeOp n).groups = s.groups := rfl
@[simp] theorem State.removeOp_ops (s : State) (n : Nat) : (s.removeOp n).ops = s.ops.filter fun o => o.id != n := rfl
@[simp] theorem State.removeOp_copies (s : State) (n : Nat) : (s.removeOp n).copies = s.copies := rfl
@[simp] theorem State.removeOp_teams (s : State) (n : Nat) : (s.removeOp n).teams = s.teams := rfl
@[simp] theorem State.removeOp_launches (s : State) (n : Nat) : (s.removeOp n).launches = s.launches := rfl
@[simp] theorem State.removeOp_tiles (s : State) (n : Nat) : (s.removeOp n).tiles = s.tiles := rfl
@[simp] theorem State.removeOp_poolMap (s : State) (n : Nat) : (s.removeOp n).poolMap = s.poolMap := rfl
@[simp] theorem State.removeOp_tfs (s : State) (n : Nat) : (s.removeOp n).tfs = s.tfs := rfl
@[simp] theorem State.removeOp_queues (s : State) (n : Nat) : (s.removeOp n).queues = s.queues := rfl
@[simp] theorem State.removeOp_qps (s : State) (n : Nat) : (s.removeOp n).qps = s.qps := rfl
@[simp] theorem State.removeOp_imports (s : State) (n : Nat) : (s.removeOp n).imports = s.imports := rfl
@[simp] theorem State.removeOp_slotTab (s : State) (n : Nat) : (s.removeOp n).slotTab = s.slotTab := rfl
@[simp] theorem State.removeOp_aperts (s : State) (n : Nat) : (s.removeOp n).aperts = s.aperts := rfl
@[simp] theorem State.removeOp_links (s : State) (n : Nat) : (s.removeOp n).links = s.links := rfl
@[simp] theorem State.removeOp_taken (s : State) (n : Nat) : (s.removeOp n).taken = s.taken := rfl
@[simp] theorem State.removeOp_released (s : State) (n : Nat) : (s.removeOp n).released = s.released := rfl
@[simp] theorem State.removeOp_ctl (s : State) (n : Nat) : (s.removeOp n).ctl = s.ctl := rfl
@[simp] theorem State.removeOp_health (s : State) (n : Nat) : (s.removeOp n).health = s.health := rfl
@[simp] theorem State.removeOp_quads (s : State) (n : Nat) : (s.removeOp n).quads = s.quads := rfl
@[simp] theorem State.removeOp_lastCtx (s : State) (n : Nat) : (s.removeOp n).lastCtx = s.lastCtx := rfl
@[simp] theorem State.removeOp_clock (s : State) (n : Nat) : (s.removeOp n).clock = s.clock := rfl
@[simp] theorem State.removeOp_us (s : State) (n : Nat) : (s.removeOp n).us = s.us := rfl
@[simp] theorem State.removeOp_tickAt (s : State) (n : Nat) : (s.removeOp n).tickAt = s.tickAt := rfl
@[simp] theorem State.removeOp_out (s : State) (n : Nat) : (s.removeOp n).out = s.out := rfl
@[simp] theorem State.removeOp_cur (s : State) (n : Nat) : (s.removeOp n).cur = s.cur := rfl
@[simp] theorem State.removeOp_agenda (s : State) (n : Nat) : (s.removeOp n).agenda = s.agenda := rfl
@[simp] theorem State.removeOp_paces (s : State) (n : Nat) : (s.removeOp n).paces = s.paces := rfl
@[simp] theorem State.removeOp_stamp (s : State) (n : Nat) : (s.removeOp n).stamp = s.stamp := rfl
@[simp] theorem State.removeOp_free (s : State) (n : Nat) : (s.removeOp n).free = s.free := rfl

/-! ## addOp -/

@[simp] theorem State.addOp_side (s : State) (c i : Nat) (g : Option Nat) (k : OpKind) (r : RegSet × RegSet) : (s.addOp c i g k r).side = s.side := rfl
@[simp] theorem State.addOp_groups (s : State) (c i : Nat) (g : Option Nat) (k : OpKind) (r : RegSet × RegSet) : (s.addOp c i g k r).groups = s.groups := rfl
@[simp] theorem State.addOp_ops (s : State) (c i : Nat) (g : Option Nat) (k : OpKind) (r : RegSet × RegSet) : (s.addOp c i g k r).ops = s.ops ++ [{ id := s.stamp, ctx := c, grp := i, flag := g, kind := k, parked := none, core := s.coreOf c, lanes := (s.groupAt c i).width, dim := (s.groupAt c i).hdim, dst := r.1, src := r.2, weight := s.weight 7 }] := rfl
@[simp] theorem State.addOp_copies (s : State) (c i : Nat) (g : Option Nat) (k : OpKind) (r : RegSet × RegSet) : (s.addOp c i g k r).copies = s.copies := rfl
@[simp] theorem State.addOp_teams (s : State) (c i : Nat) (g : Option Nat) (k : OpKind) (r : RegSet × RegSet) : (s.addOp c i g k r).teams = s.teams := rfl
@[simp] theorem State.addOp_launches (s : State) (c i : Nat) (g : Option Nat) (k : OpKind) (r : RegSet × RegSet) : (s.addOp c i g k r).launches = s.launches := rfl
@[simp] theorem State.addOp_tiles (s : State) (c i : Nat) (g : Option Nat) (k : OpKind) (r : RegSet × RegSet) : (s.addOp c i g k r).tiles = s.tiles := rfl
@[simp] theorem State.addOp_poolMap (s : State) (c i : Nat) (g : Option Nat) (k : OpKind) (r : RegSet × RegSet) : (s.addOp c i g k r).poolMap = s.poolMap := rfl
@[simp] theorem State.addOp_tfs (s : State) (c i : Nat) (g : Option Nat) (k : OpKind) (r : RegSet × RegSet) : (s.addOp c i g k r).tfs = s.tfs := rfl
@[simp] theorem State.addOp_queues (s : State) (c i : Nat) (g : Option Nat) (k : OpKind) (r : RegSet × RegSet) : (s.addOp c i g k r).queues = s.queues := rfl
@[simp] theorem State.addOp_qps (s : State) (c i : Nat) (g : Option Nat) (k : OpKind) (r : RegSet × RegSet) : (s.addOp c i g k r).qps = s.qps := rfl
@[simp] theorem State.addOp_imports (s : State) (c i : Nat) (g : Option Nat) (k : OpKind) (r : RegSet × RegSet) : (s.addOp c i g k r).imports = s.imports := rfl
@[simp] theorem State.addOp_slotTab (s : State) (c i : Nat) (g : Option Nat) (k : OpKind) (r : RegSet × RegSet) : (s.addOp c i g k r).slotTab = s.slotTab := rfl
@[simp] theorem State.addOp_aperts (s : State) (c i : Nat) (g : Option Nat) (k : OpKind) (r : RegSet × RegSet) : (s.addOp c i g k r).aperts = s.aperts := rfl
@[simp] theorem State.addOp_links (s : State) (c i : Nat) (g : Option Nat) (k : OpKind) (r : RegSet × RegSet) : (s.addOp c i g k r).links = s.links := rfl
@[simp] theorem State.addOp_taken (s : State) (c i : Nat) (g : Option Nat) (k : OpKind) (r : RegSet × RegSet) : (s.addOp c i g k r).taken = s.taken := rfl
@[simp] theorem State.addOp_released (s : State) (c i : Nat) (g : Option Nat) (k : OpKind) (r : RegSet × RegSet) : (s.addOp c i g k r).released = s.released := rfl
@[simp] theorem State.addOp_ctl (s : State) (c i : Nat) (g : Option Nat) (k : OpKind) (r : RegSet × RegSet) : (s.addOp c i g k r).ctl = s.ctl := rfl
@[simp] theorem State.addOp_health (s : State) (c i : Nat) (g : Option Nat) (k : OpKind) (r : RegSet × RegSet) : (s.addOp c i g k r).health = s.health := rfl
@[simp] theorem State.addOp_quads (s : State) (c i : Nat) (g : Option Nat) (k : OpKind) (r : RegSet × RegSet) : (s.addOp c i g k r).quads = s.quads := rfl
@[simp] theorem State.addOp_lastCtx (s : State) (c i : Nat) (g : Option Nat) (k : OpKind) (r : RegSet × RegSet) : (s.addOp c i g k r).lastCtx = s.lastCtx := rfl
@[simp] theorem State.addOp_clock (s : State) (c i : Nat) (g : Option Nat) (k : OpKind) (r : RegSet × RegSet) : (s.addOp c i g k r).clock = s.clock := rfl
@[simp] theorem State.addOp_us (s : State) (c i : Nat) (g : Option Nat) (k : OpKind) (r : RegSet × RegSet) : (s.addOp c i g k r).us = s.us := rfl
@[simp] theorem State.addOp_tickAt (s : State) (c i : Nat) (g : Option Nat) (k : OpKind) (r : RegSet × RegSet) : (s.addOp c i g k r).tickAt = s.tickAt := rfl
@[simp] theorem State.addOp_out (s : State) (c i : Nat) (g : Option Nat) (k : OpKind) (r : RegSet × RegSet) : (s.addOp c i g k r).out = s.out := rfl
@[simp] theorem State.addOp_cur (s : State) (c i : Nat) (g : Option Nat) (k : OpKind) (r : RegSet × RegSet) : (s.addOp c i g k r).cur = s.cur := rfl
@[simp] theorem State.addOp_agenda (s : State) (c i : Nat) (g : Option Nat) (k : OpKind) (r : RegSet × RegSet) : (s.addOp c i g k r).agenda = s.agenda := rfl
@[simp] theorem State.addOp_paces (s : State) (c i : Nat) (g : Option Nat) (k : OpKind) (r : RegSet × RegSet) : (s.addOp c i g k r).paces = s.paces := rfl
@[simp] theorem State.addOp_stamp (s : State) (c i : Nat) (g : Option Nat) (k : OpKind) (r : RegSet × RegSet) : (s.addOp c i g k r).stamp = s.stamp + 1 := rfl
@[simp] theorem State.addOp_free (s : State) (c i : Nat) (g : Option Nat) (k : OpKind) (r : RegSet × RegSet) : (s.addOp c i g k r).free = s.free := rfl

/-! ## emit -/

@[simp] theorem State.emit_side (s : State) (m : OutMsg) : (s.emit m).side = s.side := rfl
@[simp] theorem State.emit_groups (s : State) (m : OutMsg) : (s.emit m).groups = s.groups := rfl
@[simp] theorem State.emit_ops (s : State) (m : OutMsg) : (s.emit m).ops = s.ops := rfl
@[simp] theorem State.emit_copies (s : State) (m : OutMsg) : (s.emit m).copies = s.copies := rfl
@[simp] theorem State.emit_teams (s : State) (m : OutMsg) : (s.emit m).teams = s.teams := rfl
@[simp] theorem State.emit_launches (s : State) (m : OutMsg) : (s.emit m).launches = s.launches := rfl
@[simp] theorem State.emit_tiles (s : State) (m : OutMsg) : (s.emit m).tiles = s.tiles := rfl
@[simp] theorem State.emit_poolMap (s : State) (m : OutMsg) : (s.emit m).poolMap = s.poolMap := rfl
@[simp] theorem State.emit_tfs (s : State) (m : OutMsg) : (s.emit m).tfs = s.tfs := rfl
@[simp] theorem State.emit_queues (s : State) (m : OutMsg) : (s.emit m).queues = s.queues := rfl
@[simp] theorem State.emit_qps (s : State) (m : OutMsg) : (s.emit m).qps = s.qps := rfl
@[simp] theorem State.emit_imports (s : State) (m : OutMsg) : (s.emit m).imports = s.imports := rfl
@[simp] theorem State.emit_slotTab (s : State) (m : OutMsg) : (s.emit m).slotTab = s.slotTab := rfl
@[simp] theorem State.emit_aperts (s : State) (m : OutMsg) : (s.emit m).aperts = s.aperts := rfl
@[simp] theorem State.emit_links (s : State) (m : OutMsg) : (s.emit m).links = s.links := rfl
@[simp] theorem State.emit_taken (s : State) (m : OutMsg) : (s.emit m).taken = s.taken := rfl
@[simp] theorem State.emit_released (s : State) (m : OutMsg) : (s.emit m).released = s.released := rfl
@[simp] theorem State.emit_ctl (s : State) (m : OutMsg) : (s.emit m).ctl = s.ctl := rfl
@[simp] theorem State.emit_health (s : State) (m : OutMsg) : (s.emit m).health = s.health := rfl
@[simp] theorem State.emit_quads (s : State) (m : OutMsg) : (s.emit m).quads = s.quads := rfl
@[simp] theorem State.emit_lastCtx (s : State) (m : OutMsg) : (s.emit m).lastCtx = s.lastCtx := rfl
@[simp] theorem State.emit_clock (s : State) (m : OutMsg) : (s.emit m).clock = s.clock := rfl
@[simp] theorem State.emit_us (s : State) (m : OutMsg) : (s.emit m).us = s.us := rfl
@[simp] theorem State.emit_tickAt (s : State) (m : OutMsg) : (s.emit m).tickAt = s.tickAt := rfl
@[simp] theorem State.emit_out (s : State) (m : OutMsg) : (s.emit m).out = s.out ++ [m] := rfl
@[simp] theorem State.emit_cur (s : State) (m : OutMsg) : (s.emit m).cur = s.cur := rfl
@[simp] theorem State.emit_agenda (s : State) (m : OutMsg) : (s.emit m).agenda = s.agenda := rfl
@[simp] theorem State.emit_paces (s : State) (m : OutMsg) : (s.emit m).paces = s.paces := rfl
@[simp] theorem State.emit_stamp (s : State) (m : OutMsg) : (s.emit m).stamp = s.stamp := rfl
@[simp] theorem State.emit_free (s : State) (m : OutMsg) : (s.emit m).free = s.free := rfl

/-! ## mapCopy -/

@[simp] theorem State.mapCopy_side (s : State) (n : Nat) (f : Copy → Copy) : (s.mapCopy n f).side = s.side := rfl
@[simp] theorem State.mapCopy_groups (s : State) (n : Nat) (f : Copy → Copy) : (s.mapCopy n f).groups = s.groups := rfl
@[simp] theorem State.mapCopy_ops (s : State) (n : Nat) (f : Copy → Copy) : (s.mapCopy n f).ops = s.ops := rfl
@[simp] theorem State.mapCopy_teams (s : State) (n : Nat) (f : Copy → Copy) : (s.mapCopy n f).teams = s.teams := rfl
@[simp] theorem State.mapCopy_launches (s : State) (n : Nat) (f : Copy → Copy) : (s.mapCopy n f).launches = s.launches := rfl
@[simp] theorem State.mapCopy_tiles (s : State) (n : Nat) (f : Copy → Copy) : (s.mapCopy n f).tiles = s.tiles := rfl
@[simp] theorem State.mapCopy_poolMap (s : State) (n : Nat) (f : Copy → Copy) : (s.mapCopy n f).poolMap = s.poolMap := rfl
@[simp] theorem State.mapCopy_tfs (s : State) (n : Nat) (f : Copy → Copy) : (s.mapCopy n f).tfs = s.tfs := rfl
@[simp] theorem State.mapCopy_queues (s : State) (n : Nat) (f : Copy → Copy) : (s.mapCopy n f).queues = s.queues := rfl
@[simp] theorem State.mapCopy_qps (s : State) (n : Nat) (f : Copy → Copy) : (s.mapCopy n f).qps = s.qps := rfl
@[simp] theorem State.mapCopy_imports (s : State) (n : Nat) (f : Copy → Copy) : (s.mapCopy n f).imports = s.imports := rfl
@[simp] theorem State.mapCopy_slotTab (s : State) (n : Nat) (f : Copy → Copy) : (s.mapCopy n f).slotTab = s.slotTab := rfl
@[simp] theorem State.mapCopy_aperts (s : State) (n : Nat) (f : Copy → Copy) : (s.mapCopy n f).aperts = s.aperts := rfl
@[simp] theorem State.mapCopy_links (s : State) (n : Nat) (f : Copy → Copy) : (s.mapCopy n f).links = s.links := rfl
@[simp] theorem State.mapCopy_taken (s : State) (n : Nat) (f : Copy → Copy) : (s.mapCopy n f).taken = s.taken := rfl
@[simp] theorem State.mapCopy_released (s : State) (n : Nat) (f : Copy → Copy) : (s.mapCopy n f).released = s.released := rfl
@[simp] theorem State.mapCopy_ctl (s : State) (n : Nat) (f : Copy → Copy) : (s.mapCopy n f).ctl = s.ctl := rfl
@[simp] theorem State.mapCopy_health (s : State) (n : Nat) (f : Copy → Copy) : (s.mapCopy n f).health = s.health := rfl
@[simp] theorem State.mapCopy_quads (s : State) (n : Nat) (f : Copy → Copy) : (s.mapCopy n f).quads = s.quads := rfl
@[simp] theorem State.mapCopy_lastCtx (s : State) (n : Nat) (f : Copy → Copy) : (s.mapCopy n f).lastCtx = s.lastCtx := rfl
@[simp] theorem State.mapCopy_clock (s : State) (n : Nat) (f : Copy → Copy) : (s.mapCopy n f).clock = s.clock := rfl
@[simp] theorem State.mapCopy_us (s : State) (n : Nat) (f : Copy → Copy) : (s.mapCopy n f).us = s.us := rfl
@[simp] theorem State.mapCopy_tickAt (s : State) (n : Nat) (f : Copy → Copy) : (s.mapCopy n f).tickAt = s.tickAt := rfl
@[simp] theorem State.mapCopy_out (s : State) (n : Nat) (f : Copy → Copy) : (s.mapCopy n f).out = s.out := rfl
@[simp] theorem State.mapCopy_cur (s : State) (n : Nat) (f : Copy → Copy) : (s.mapCopy n f).cur = s.cur := rfl
@[simp] theorem State.mapCopy_agenda (s : State) (n : Nat) (f : Copy → Copy) : (s.mapCopy n f).agenda = s.agenda := rfl
@[simp] theorem State.mapCopy_paces (s : State) (n : Nat) (f : Copy → Copy) : (s.mapCopy n f).paces = s.paces := rfl
@[simp] theorem State.mapCopy_stamp (s : State) (n : Nat) (f : Copy → Copy) : (s.mapCopy n f).stamp = s.stamp := rfl
@[simp] theorem State.mapCopy_free (s : State) (n : Nat) (f : Copy → Copy) : (s.mapCopy n f).free = s.free := rfl

/-! ## removeCopy -/

@[simp] theorem State.removeCopy_side (s : State) (n : Nat) : (s.removeCopy n).side = s.side := rfl
@[simp] theorem State.removeCopy_groups (s : State) (n : Nat) : (s.removeCopy n).groups = s.groups := rfl
@[simp] theorem State.removeCopy_ops (s : State) (n : Nat) : (s.removeCopy n).ops = s.ops := rfl
@[simp] theorem State.removeCopy_copies (s : State) (n : Nat) : (s.removeCopy n).copies = s.copies.filter fun c => c.id != n := rfl
@[simp] theorem State.removeCopy_teams (s : State) (n : Nat) : (s.removeCopy n).teams = s.teams := rfl
@[simp] theorem State.removeCopy_launches (s : State) (n : Nat) : (s.removeCopy n).launches = s.launches := rfl
@[simp] theorem State.removeCopy_tiles (s : State) (n : Nat) : (s.removeCopy n).tiles = s.tiles := rfl
@[simp] theorem State.removeCopy_poolMap (s : State) (n : Nat) : (s.removeCopy n).poolMap = s.poolMap := rfl
@[simp] theorem State.removeCopy_tfs (s : State) (n : Nat) : (s.removeCopy n).tfs = s.tfs := rfl
@[simp] theorem State.removeCopy_queues (s : State) (n : Nat) : (s.removeCopy n).queues = s.queues := rfl
@[simp] theorem State.removeCopy_qps (s : State) (n : Nat) : (s.removeCopy n).qps = s.qps := rfl
@[simp] theorem State.removeCopy_imports (s : State) (n : Nat) : (s.removeCopy n).imports = s.imports := rfl
@[simp] theorem State.removeCopy_slotTab (s : State) (n : Nat) : (s.removeCopy n).slotTab = s.slotTab := rfl
@[simp] theorem State.removeCopy_aperts (s : State) (n : Nat) : (s.removeCopy n).aperts = s.aperts := rfl
@[simp] theorem State.removeCopy_links (s : State) (n : Nat) : (s.removeCopy n).links = s.links := rfl
@[simp] theorem State.removeCopy_taken (s : State) (n : Nat) : (s.removeCopy n).taken = s.taken := rfl
@[simp] theorem State.removeCopy_released (s : State) (n : Nat) : (s.removeCopy n).released = s.released := rfl
@[simp] theorem State.removeCopy_ctl (s : State) (n : Nat) : (s.removeCopy n).ctl = s.ctl := rfl
@[simp] theorem State.removeCopy_health (s : State) (n : Nat) : (s.removeCopy n).health = s.health := rfl
@[simp] theorem State.removeCopy_quads (s : State) (n : Nat) : (s.removeCopy n).quads = s.quads := rfl
@[simp] theorem State.removeCopy_lastCtx (s : State) (n : Nat) : (s.removeCopy n).lastCtx = s.lastCtx := rfl
@[simp] theorem State.removeCopy_clock (s : State) (n : Nat) : (s.removeCopy n).clock = s.clock := rfl
@[simp] theorem State.removeCopy_us (s : State) (n : Nat) : (s.removeCopy n).us = s.us := rfl
@[simp] theorem State.removeCopy_tickAt (s : State) (n : Nat) : (s.removeCopy n).tickAt = s.tickAt := rfl
@[simp] theorem State.removeCopy_out (s : State) (n : Nat) : (s.removeCopy n).out = s.out := rfl
@[simp] theorem State.removeCopy_cur (s : State) (n : Nat) : (s.removeCopy n).cur = s.cur := rfl
@[simp] theorem State.removeCopy_agenda (s : State) (n : Nat) : (s.removeCopy n).agenda = s.agenda := rfl
@[simp] theorem State.removeCopy_paces (s : State) (n : Nat) : (s.removeCopy n).paces = s.paces := rfl
@[simp] theorem State.removeCopy_stamp (s : State) (n : Nat) : (s.removeCopy n).stamp = s.stamp := rfl
@[simp] theorem State.removeCopy_free (s : State) (n : Nat) : (s.removeCopy n).free = s.free := rfl

/-! ## setEntry -/

@[simp] theorem State.setEntry_side (s : State) (c p : Nat) (e : PoolEntry) : (s.setEntry c p e).side = s.side := rfl
@[simp] theorem State.setEntry_groups (s : State) (c p : Nat) (e : PoolEntry) : (s.setEntry c p e).groups = s.groups := rfl
@[simp] theorem State.setEntry_ops (s : State) (c p : Nat) (e : PoolEntry) : (s.setEntry c p e).ops = s.ops := rfl
@[simp] theorem State.setEntry_copies (s : State) (c p : Nat) (e : PoolEntry) : (s.setEntry c p e).copies = s.copies := rfl
@[simp] theorem State.setEntry_teams (s : State) (c p : Nat) (e : PoolEntry) : (s.setEntry c p e).teams = s.teams := rfl
@[simp] theorem State.setEntry_launches (s : State) (c p : Nat) (e : PoolEntry) : (s.setEntry c p e).launches = s.launches := rfl
@[simp] theorem State.setEntry_tiles (s : State) (c p : Nat) (e : PoolEntry) : (s.setEntry c p e).tiles = s.tiles := rfl
@[simp] theorem State.setEntry_tfs (s : State) (c p : Nat) (e : PoolEntry) : (s.setEntry c p e).tfs = s.tfs := rfl
@[simp] theorem State.setEntry_queues (s : State) (c p : Nat) (e : PoolEntry) : (s.setEntry c p e).queues = s.queues := rfl
@[simp] theorem State.setEntry_qps (s : State) (c p : Nat) (e : PoolEntry) : (s.setEntry c p e).qps = s.qps := rfl
@[simp] theorem State.setEntry_imports (s : State) (c p : Nat) (e : PoolEntry) : (s.setEntry c p e).imports = s.imports := rfl
@[simp] theorem State.setEntry_slotTab (s : State) (c p : Nat) (e : PoolEntry) : (s.setEntry c p e).slotTab = s.slotTab := rfl
@[simp] theorem State.setEntry_aperts (s : State) (c p : Nat) (e : PoolEntry) : (s.setEntry c p e).aperts = s.aperts := rfl
@[simp] theorem State.setEntry_links (s : State) (c p : Nat) (e : PoolEntry) : (s.setEntry c p e).links = s.links := rfl
@[simp] theorem State.setEntry_taken (s : State) (c p : Nat) (e : PoolEntry) : (s.setEntry c p e).taken = s.taken := rfl
@[simp] theorem State.setEntry_released (s : State) (c p : Nat) (e : PoolEntry) : (s.setEntry c p e).released = s.released := rfl
@[simp] theorem State.setEntry_ctl (s : State) (c p : Nat) (e : PoolEntry) : (s.setEntry c p e).ctl = s.ctl := rfl
@[simp] theorem State.setEntry_health (s : State) (c p : Nat) (e : PoolEntry) : (s.setEntry c p e).health = s.health := rfl
@[simp] theorem State.setEntry_quads (s : State) (c p : Nat) (e : PoolEntry) : (s.setEntry c p e).quads = s.quads := rfl
@[simp] theorem State.setEntry_lastCtx (s : State) (c p : Nat) (e : PoolEntry) : (s.setEntry c p e).lastCtx = s.lastCtx := rfl
@[simp] theorem State.setEntry_clock (s : State) (c p : Nat) (e : PoolEntry) : (s.setEntry c p e).clock = s.clock := rfl
@[simp] theorem State.setEntry_us (s : State) (c p : Nat) (e : PoolEntry) : (s.setEntry c p e).us = s.us := rfl
@[simp] theorem State.setEntry_tickAt (s : State) (c p : Nat) (e : PoolEntry) : (s.setEntry c p e).tickAt = s.tickAt := rfl
@[simp] theorem State.setEntry_out (s : State) (c p : Nat) (e : PoolEntry) : (s.setEntry c p e).out = s.out := rfl
@[simp] theorem State.setEntry_cur (s : State) (c p : Nat) (e : PoolEntry) : (s.setEntry c p e).cur = s.cur := rfl
@[simp] theorem State.setEntry_agenda (s : State) (c p : Nat) (e : PoolEntry) : (s.setEntry c p e).agenda = s.agenda := rfl
@[simp] theorem State.setEntry_paces (s : State) (c p : Nat) (e : PoolEntry) : (s.setEntry c p e).paces = s.paces := rfl
@[simp] theorem State.setEntry_stamp (s : State) (c p : Nat) (e : PoolEntry) : (s.setEntry c p e).stamp = s.stamp := rfl
@[simp] theorem State.setEntry_free (s : State) (c p : Nat) (e : PoolEntry) : (s.setEntry c p e).free = s.free := rfl

/-! ## dropEntry -/

@[simp] theorem State.dropEntry_side (s : State) (c p : Nat) : (s.dropEntry c p).side = s.side := rfl
@[simp] theorem State.dropEntry_groups (s : State) (c p : Nat) : (s.dropEntry c p).groups = s.groups := rfl
@[simp] theorem State.dropEntry_ops (s : State) (c p : Nat) : (s.dropEntry c p).ops = s.ops := rfl
@[simp] theorem State.dropEntry_copies (s : State) (c p : Nat) : (s.dropEntry c p).copies = s.copies := rfl
@[simp] theorem State.dropEntry_teams (s : State) (c p : Nat) : (s.dropEntry c p).teams = s.teams := rfl
@[simp] theorem State.dropEntry_launches (s : State) (c p : Nat) : (s.dropEntry c p).launches = s.launches := rfl
@[simp] theorem State.dropEntry_tiles (s : State) (c p : Nat) : (s.dropEntry c p).tiles = s.tiles := rfl
@[simp] theorem State.dropEntry_tfs (s : State) (c p : Nat) : (s.dropEntry c p).tfs = s.tfs := rfl
@[simp] theorem State.dropEntry_queues (s : State) (c p : Nat) : (s.dropEntry c p).queues = s.queues := rfl
@[simp] theorem State.dropEntry_qps (s : State) (c p : Nat) : (s.dropEntry c p).qps = s.qps := rfl
@[simp] theorem State.dropEntry_imports (s : State) (c p : Nat) : (s.dropEntry c p).imports = s.imports := rfl
@[simp] theorem State.dropEntry_slotTab (s : State) (c p : Nat) : (s.dropEntry c p).slotTab = s.slotTab := rfl
@[simp] theorem State.dropEntry_aperts (s : State) (c p : Nat) : (s.dropEntry c p).aperts = s.aperts := rfl
@[simp] theorem State.dropEntry_links (s : State) (c p : Nat) : (s.dropEntry c p).links = s.links := rfl
@[simp] theorem State.dropEntry_taken (s : State) (c p : Nat) : (s.dropEntry c p).taken = s.taken := rfl
@[simp] theorem State.dropEntry_released (s : State) (c p : Nat) : (s.dropEntry c p).released = s.released := rfl
@[simp] theorem State.dropEntry_ctl (s : State) (c p : Nat) : (s.dropEntry c p).ctl = s.ctl := rfl
@[simp] theorem State.dropEntry_health (s : State) (c p : Nat) : (s.dropEntry c p).health = s.health := rfl
@[simp] theorem State.dropEntry_quads (s : State) (c p : Nat) : (s.dropEntry c p).quads = s.quads := rfl
@[simp] theorem State.dropEntry_lastCtx (s : State) (c p : Nat) : (s.dropEntry c p).lastCtx = s.lastCtx := rfl
@[simp] theorem State.dropEntry_clock (s : State) (c p : Nat) : (s.dropEntry c p).clock = s.clock := rfl
@[simp] theorem State.dropEntry_us (s : State) (c p : Nat) : (s.dropEntry c p).us = s.us := rfl
@[simp] theorem State.dropEntry_tickAt (s : State) (c p : Nat) : (s.dropEntry c p).tickAt = s.tickAt := rfl
@[simp] theorem State.dropEntry_out (s : State) (c p : Nat) : (s.dropEntry c p).out = s.out := rfl
@[simp] theorem State.dropEntry_cur (s : State) (c p : Nat) : (s.dropEntry c p).cur = s.cur := rfl
@[simp] theorem State.dropEntry_agenda (s : State) (c p : Nat) : (s.dropEntry c p).agenda = s.agenda := rfl
@[simp] theorem State.dropEntry_paces (s : State) (c p : Nat) : (s.dropEntry c p).paces = s.paces := rfl
@[simp] theorem State.dropEntry_stamp (s : State) (c p : Nat) : (s.dropEntry c p).stamp = s.stamp := rfl
@[simp] theorem State.dropEntry_free (s : State) (c p : Nat) : (s.dropEntry c p).free = s.free := rfl

/-! ## dropTiles -/

@[simp] theorem State.dropTiles_side (s : State) (l : List Nat) : (s.dropTiles l).side = s.side := rfl
@[simp] theorem State.dropTiles_groups (s : State) (l : List Nat) : (s.dropTiles l).groups = s.groups := rfl
@[simp] theorem State.dropTiles_ops (s : State) (l : List Nat) : (s.dropTiles l).ops = s.ops := rfl
@[simp] theorem State.dropTiles_copies (s : State) (l : List Nat) : (s.dropTiles l).copies = s.copies := rfl
@[simp] theorem State.dropTiles_teams (s : State) (l : List Nat) : (s.dropTiles l).teams = s.teams := rfl
@[simp] theorem State.dropTiles_launches (s : State) (l : List Nat) : (s.dropTiles l).launches = s.launches := rfl
@[simp] theorem State.dropTiles_poolMap (s : State) (l : List Nat) : (s.dropTiles l).poolMap = s.poolMap := rfl
@[simp] theorem State.dropTiles_tfs (s : State) (l : List Nat) : (s.dropTiles l).tfs = s.tfs := rfl
@[simp] theorem State.dropTiles_queues (s : State) (l : List Nat) : (s.dropTiles l).queues = s.queues := rfl
@[simp] theorem State.dropTiles_qps (s : State) (l : List Nat) : (s.dropTiles l).qps = s.qps := rfl
@[simp] theorem State.dropTiles_imports (s : State) (l : List Nat) : (s.dropTiles l).imports = s.imports := rfl
@[simp] theorem State.dropTiles_slotTab (s : State) (l : List Nat) : (s.dropTiles l).slotTab = s.slotTab := rfl
@[simp] theorem State.dropTiles_aperts (s : State) (l : List Nat) : (s.dropTiles l).aperts = s.aperts := rfl
@[simp] theorem State.dropTiles_links (s : State) (l : List Nat) : (s.dropTiles l).links = s.links := rfl
@[simp] theorem State.dropTiles_taken (s : State) (l : List Nat) : (s.dropTiles l).taken = s.taken := rfl
@[simp] theorem State.dropTiles_released (s : State) (l : List Nat) : (s.dropTiles l).released = s.released := rfl
@[simp] theorem State.dropTiles_ctl (s : State) (l : List Nat) : (s.dropTiles l).ctl = s.ctl := rfl
@[simp] theorem State.dropTiles_health (s : State) (l : List Nat) : (s.dropTiles l).health = s.health := rfl
@[simp] theorem State.dropTiles_quads (s : State) (l : List Nat) : (s.dropTiles l).quads = s.quads := rfl
@[simp] theorem State.dropTiles_lastCtx (s : State) (l : List Nat) : (s.dropTiles l).lastCtx = s.lastCtx := rfl
@[simp] theorem State.dropTiles_clock (s : State) (l : List Nat) : (s.dropTiles l).clock = s.clock := rfl
@[simp] theorem State.dropTiles_us (s : State) (l : List Nat) : (s.dropTiles l).us = s.us := rfl
@[simp] theorem State.dropTiles_tickAt (s : State) (l : List Nat) : (s.dropTiles l).tickAt = s.tickAt := rfl
@[simp] theorem State.dropTiles_out (s : State) (l : List Nat) : (s.dropTiles l).out = s.out := rfl
@[simp] theorem State.dropTiles_cur (s : State) (l : List Nat) : (s.dropTiles l).cur = s.cur := rfl
@[simp] theorem State.dropTiles_agenda (s : State) (l : List Nat) : (s.dropTiles l).agenda = s.agenda := rfl
@[simp] theorem State.dropTiles_paces (s : State) (l : List Nat) : (s.dropTiles l).paces = s.paces := rfl
@[simp] theorem State.dropTiles_stamp (s : State) (l : List Nat) : (s.dropTiles l).stamp = s.stamp := rfl
@[simp] theorem State.dropTiles_free (s : State) (l : List Nat) : (s.dropTiles l).free = s.free := rfl

/-! ## chargeUnits -/

@[simp] theorem State.chargeUnits_side (s : State) (c n : Nat) : (s.chargeUnits c n).side = s.side := rfl
@[simp] theorem State.chargeUnits_groups (s : State) (c n : Nat) : (s.chargeUnits c n).groups = s.groups := rfl
@[simp] theorem State.chargeUnits_ops (s : State) (c n : Nat) : (s.chargeUnits c n).ops = s.ops := rfl
@[simp] theorem State.chargeUnits_copies (s : State) (c n : Nat) : (s.chargeUnits c n).copies = s.copies := rfl
@[simp] theorem State.chargeUnits_launches (s : State) (c n : Nat) : (s.chargeUnits c n).launches = s.launches := rfl
@[simp] theorem State.chargeUnits_tiles (s : State) (c n : Nat) : (s.chargeUnits c n).tiles = s.tiles := rfl
@[simp] theorem State.chargeUnits_poolMap (s : State) (c n : Nat) : (s.chargeUnits c n).poolMap = s.poolMap := rfl
@[simp] theorem State.chargeUnits_tfs (s : State) (c n : Nat) : (s.chargeUnits c n).tfs = s.tfs := rfl
@[simp] theorem State.chargeUnits_queues (s : State) (c n : Nat) : (s.chargeUnits c n).queues = s.queues := rfl
@[simp] theorem State.chargeUnits_qps (s : State) (c n : Nat) : (s.chargeUnits c n).qps = s.qps := rfl
@[simp] theorem State.chargeUnits_imports (s : State) (c n : Nat) : (s.chargeUnits c n).imports = s.imports := rfl
@[simp] theorem State.chargeUnits_slotTab (s : State) (c n : Nat) : (s.chargeUnits c n).slotTab = s.slotTab := rfl
@[simp] theorem State.chargeUnits_aperts (s : State) (c n : Nat) : (s.chargeUnits c n).aperts = s.aperts := rfl
@[simp] theorem State.chargeUnits_links (s : State) (c n : Nat) : (s.chargeUnits c n).links = s.links := rfl
@[simp] theorem State.chargeUnits_taken (s : State) (c n : Nat) : (s.chargeUnits c n).taken = s.taken := rfl
@[simp] theorem State.chargeUnits_released (s : State) (c n : Nat) : (s.chargeUnits c n).released = s.released := rfl
@[simp] theorem State.chargeUnits_ctl (s : State) (c n : Nat) : (s.chargeUnits c n).ctl = s.ctl := rfl
@[simp] theorem State.chargeUnits_health (s : State) (c n : Nat) : (s.chargeUnits c n).health = s.health := rfl
@[simp] theorem State.chargeUnits_quads (s : State) (c n : Nat) : (s.chargeUnits c n).quads = s.quads := rfl
@[simp] theorem State.chargeUnits_lastCtx (s : State) (c n : Nat) : (s.chargeUnits c n).lastCtx = s.lastCtx := rfl
@[simp] theorem State.chargeUnits_clock (s : State) (c n : Nat) : (s.chargeUnits c n).clock = s.clock := rfl
@[simp] theorem State.chargeUnits_us (s : State) (c n : Nat) : (s.chargeUnits c n).us = s.us := rfl
@[simp] theorem State.chargeUnits_tickAt (s : State) (c n : Nat) : (s.chargeUnits c n).tickAt = s.tickAt := rfl
@[simp] theorem State.chargeUnits_out (s : State) (c n : Nat) : (s.chargeUnits c n).out = s.out := rfl
@[simp] theorem State.chargeUnits_cur (s : State) (c n : Nat) : (s.chargeUnits c n).cur = s.cur := rfl
@[simp] theorem State.chargeUnits_agenda (s : State) (c n : Nat) : (s.chargeUnits c n).agenda = s.agenda := rfl
@[simp] theorem State.chargeUnits_paces (s : State) (c n : Nat) : (s.chargeUnits c n).paces = s.paces := rfl
@[simp] theorem State.chargeUnits_stamp (s : State) (c n : Nat) : (s.chargeUnits c n).stamp = s.stamp := rfl
@[simp] theorem State.chargeUnits_free (s : State) (c n : Nat) : (s.chargeUnits c n).free = s.free := rfl

/-! ## stampIssue -/

@[simp] theorem State.stampIssue_side (s : State) : (s.stampIssue).side = s.side := rfl
@[simp] theorem State.stampIssue_ops (s : State) : (s.stampIssue).ops = s.ops := rfl
@[simp] theorem State.stampIssue_copies (s : State) : (s.stampIssue).copies = s.copies := rfl
@[simp] theorem State.stampIssue_teams (s : State) : (s.stampIssue).teams = s.teams := rfl
@[simp] theorem State.stampIssue_launches (s : State) : (s.stampIssue).launches = s.launches := rfl
@[simp] theorem State.stampIssue_tiles (s : State) : (s.stampIssue).tiles = s.tiles := rfl
@[simp] theorem State.stampIssue_poolMap (s : State) : (s.stampIssue).poolMap = s.poolMap := rfl
@[simp] theorem State.stampIssue_tfs (s : State) : (s.stampIssue).tfs = s.tfs := rfl
@[simp] theorem State.stampIssue_queues (s : State) : (s.stampIssue).queues = s.queues := rfl
@[simp] theorem State.stampIssue_qps (s : State) : (s.stampIssue).qps = s.qps := rfl
@[simp] theorem State.stampIssue_imports (s : State) : (s.stampIssue).imports = s.imports := rfl
@[simp] theorem State.stampIssue_slotTab (s : State) : (s.stampIssue).slotTab = s.slotTab := rfl
@[simp] theorem State.stampIssue_aperts (s : State) : (s.stampIssue).aperts = s.aperts := rfl
@[simp] theorem State.stampIssue_links (s : State) : (s.stampIssue).links = s.links := rfl
@[simp] theorem State.stampIssue_taken (s : State) : (s.stampIssue).taken = s.taken := rfl
@[simp] theorem State.stampIssue_released (s : State) : (s.stampIssue).released = s.released := rfl
@[simp] theorem State.stampIssue_ctl (s : State) : (s.stampIssue).ctl = s.ctl := rfl
@[simp] theorem State.stampIssue_health (s : State) : (s.stampIssue).health = s.health := rfl
@[simp] theorem State.stampIssue_lastCtx (s : State) : (s.stampIssue).lastCtx = s.lastCtx := rfl
@[simp] theorem State.stampIssue_clock (s : State) : (s.stampIssue).clock = s.clock := rfl
@[simp] theorem State.stampIssue_us (s : State) : (s.stampIssue).us = s.us := rfl
@[simp] theorem State.stampIssue_tickAt (s : State) : (s.stampIssue).tickAt = s.tickAt := rfl
@[simp] theorem State.stampIssue_out (s : State) : (s.stampIssue).out = s.out := rfl
@[simp] theorem State.stampIssue_cur (s : State) : (s.stampIssue).cur = s.cur := rfl
@[simp] theorem State.stampIssue_agenda (s : State) : (s.stampIssue).agenda = s.agenda := rfl
@[simp] theorem State.stampIssue_paces (s : State) : (s.stampIssue).paces = s.paces := rfl
@[simp] theorem State.stampIssue_stamp (s : State) : (s.stampIssue).stamp = s.stamp + 1 := rfl
@[simp] theorem State.stampIssue_free (s : State) : (s.stampIssue).free = s.free := rfl

/-! ## unhold -/

@[simp] theorem State.unhold_side (s : State) (c : Nat) : (s.unhold c).side = s.side := rfl
@[simp] theorem State.unhold_ops (s : State) (c : Nat) : (s.unhold c).ops = s.ops := rfl
@[simp] theorem State.unhold_copies (s : State) (c : Nat) : (s.unhold c).copies = s.copies := rfl
@[simp] theorem State.unhold_teams (s : State) (c : Nat) : (s.unhold c).teams = s.teams := rfl
@[simp] theorem State.unhold_launches (s : State) (c : Nat) : (s.unhold c).launches = s.launches := rfl
@[simp] theorem State.unhold_tiles (s : State) (c : Nat) : (s.unhold c).tiles = s.tiles := rfl
@[simp] theorem State.unhold_poolMap (s : State) (c : Nat) : (s.unhold c).poolMap = s.poolMap := rfl
@[simp] theorem State.unhold_tfs (s : State) (c : Nat) : (s.unhold c).tfs = s.tfs := rfl
@[simp] theorem State.unhold_queues (s : State) (c : Nat) : (s.unhold c).queues = s.queues := rfl
@[simp] theorem State.unhold_qps (s : State) (c : Nat) : (s.unhold c).qps = s.qps := rfl
@[simp] theorem State.unhold_imports (s : State) (c : Nat) : (s.unhold c).imports = s.imports := rfl
@[simp] theorem State.unhold_slotTab (s : State) (c : Nat) : (s.unhold c).slotTab = s.slotTab := rfl
@[simp] theorem State.unhold_aperts (s : State) (c : Nat) : (s.unhold c).aperts = s.aperts := rfl
@[simp] theorem State.unhold_links (s : State) (c : Nat) : (s.unhold c).links = s.links := rfl
@[simp] theorem State.unhold_taken (s : State) (c : Nat) : (s.unhold c).taken = s.taken := rfl
@[simp] theorem State.unhold_released (s : State) (c : Nat) : (s.unhold c).released = s.released := rfl
@[simp] theorem State.unhold_ctl (s : State) (c : Nat) : (s.unhold c).ctl = s.ctl := rfl
@[simp] theorem State.unhold_health (s : State) (c : Nat) : (s.unhold c).health = s.health := rfl
@[simp] theorem State.unhold_quads (s : State) (c : Nat) : (s.unhold c).quads = s.quads := rfl
@[simp] theorem State.unhold_lastCtx (s : State) (c : Nat) : (s.unhold c).lastCtx = s.lastCtx := rfl
@[simp] theorem State.unhold_clock (s : State) (c : Nat) : (s.unhold c).clock = s.clock := rfl
@[simp] theorem State.unhold_us (s : State) (c : Nat) : (s.unhold c).us = s.us := rfl
@[simp] theorem State.unhold_tickAt (s : State) (c : Nat) : (s.unhold c).tickAt = s.tickAt := rfl
@[simp] theorem State.unhold_out (s : State) (c : Nat) : (s.unhold c).out = s.out := rfl
@[simp] theorem State.unhold_cur (s : State) (c : Nat) : (s.unhold c).cur = s.cur := rfl
@[simp] theorem State.unhold_agenda (s : State) (c : Nat) : (s.unhold c).agenda = s.agenda := rfl
@[simp] theorem State.unhold_paces (s : State) (c : Nat) : (s.unhold c).paces = s.paces := rfl
@[simp] theorem State.unhold_stamp (s : State) (c : Nat) : (s.unhold c).stamp = s.stamp := rfl
@[simp] theorem State.unhold_free (s : State) (c : Nat) : (s.unhold c).free = s.free := rfl

end Sys2Proof.Machine
end

