-- ==== Sys2Proof/Laws/Ops.lean ====
section
/-!
SUPPORT. What the shared operations can do, said once: running a word, a transfer or an operation, counting a flag, the
checks that words have in common, and the writes of bytes.
-/

namespace Sys2Proof.Machine

set_option Elab.async false

/-! ## Running a word -/

variable {e : Energy} {m : M Unit} {s t : State}

/-- A word whose own effect succeeds goes on to the next word. -/
theorem runWord_ok (h : m s = .ok () t) : runWord e m s = t.issued e := by
  simp only [runWord, h, State.issued]

/-- A word that holds waits and has no other effect. -/
theorem runWord_hold {k : Hold} (h : m s = .error (.hold k) t) : runWord e m s = s.waitCur (.hold k) := by
  simp only [runWord, h]

/-- A word that traps takes its trap, charged, with the return point of R238. -/
theorem runWord_trap {c : Byte} {d : Word} {a l : DWord} (h : m s = .error (.trap c d a l) t) :
    runWord e m s = ((t.charge e).stampIssue).takeTrap c d a l s.trapRet := by
  simp only [runWord, h, State.stopWord, State.endWord, State.willPark, Bool.false_eq_true, if_false]

/-- A word that faults ends its team, charged. -/
theorem runWord_fault {f : FaultInfo} (h : m s = .error (.fault f) t) :
    runWord e m s = ((t.charge e).stampIssue).faultParty t.cur f := by
  simp only [runWord, h, State.stopWord, State.endWord, State.willPark, Bool.false_eq_true, if_false]; rfl

/-- A word that meets a missing page parks its party, which charges nothing. -/
theorem runWord_miss {f : FaultInfo} (h : m s = .error (.miss f) t) (hp : t.parks (t.tfOf t.cur.ctx) = true) :
    runWord e m s = t.stampIssue.parkParty t.cur f := by
  simp only [runWord, h, State.stopWord, State.endWord, State.willPark, hp, if_true]; rfl

/-- A word that meets a missing page where no page can be asked for is charged, and its party faults (R143, R357). -/
theorem runWord_noPark {f : FaultInfo} (h : m s = .error (.miss f) t) (hp : t.parks (t.tfOf t.cur.ctx) = false) :
    runWord e m s = ((t.charge e).stampIssue).parkParty t.cur f := by
  simp only [runWord, h, State.stopWord, State.endWord, State.willPark, hp, Bool.false_eq_true, if_false]; rfl

/-- A word that waits leaves the active set, charged. -/
theorem runWord_wait {w : Wait} (h : m s = .error (.wait w) t) :
    runWord e m s = ((t.charge e).stampIssue).waitCur w := by
  simp only [runWord, h, State.stopWord, State.endWord, State.willPark, Bool.false_eq_true, if_false]

/-- A transfer not taken goes on to the next word. -/
theorem runTransfer_next {r : M (Option DWord)} (h : r s = .ok none t) : runTransfer r s = t.issued ⟨0, false⟩ := by
  simp only [runTransfer, h, State.issued]

/-- A transfer taken ends the clause at its target. -/
theorem runTransfer_taken {r : M (Option DWord)} {a : DWord} (h : r s = .ok (some a) t) :
    runTransfer r s = ((t.charge ⟨0, false⟩).stampIssue).endClause s.cur a := by
  simp only [runTransfer, h]

/-- A transfer that traps. -/
theorem runTransfer_trap {r : M (Option DWord)} {c : Byte} {d : Word} {a l : DWord} (h : r s = .error (.trap c d a l) t) :
    runTransfer r s = ((t.charge ⟨0, false⟩).stampIssue).takeTrap c d a l s.trapRet := by
  simp only [runTransfer, h, State.stopWord, State.endWord, State.willPark, Bool.false_eq_true, if_false]

/-- A hypervector word whose own effect succeeds charges its units and goes on. -/
theorem runCharged_ok {n : Nat} (h : m s = .ok () t) :
    runCharged n m s = (t.chargeUnits s.cur.ctx n).stampIssue.advance := by
  simp only [runCharged, h]

/-- An operation in flight that acts. -/
theorem runOp_ok {o : Op} {f : Op → Option (M Unit)} (h : s.canEnd o) (hf : f o = some m) (hm : m s = .ok () t) :
    s.runOp o.id f = t := by
  simp only [State.runOp, h.1, h.2, hf, hm, if_true]

/-- An operation in flight with nothing to do now. -/
theorem runOp_none {o : Op} {f : Op → Option (M Unit)} (h : s.canEnd o) (hf : f o = none) : s.runOp o.id f = s := by
  simp only [State.runOp, h.1, h.2, hf, if_true]

/-! ## Checks that words share -/

/-- A run of registers in order passes its check without an effect. -/
theorem checkRegs_ok {named sources : List Nat} (h : s.vecCtx.regsOk named sources) :
    checkRegs named sources s = .ok () s := by
  obtain ⟨hn, hs⟩ := h
  have h1 : named.find? (fun n => decide (s.curGroup.budget ≤ n)) = none := by
    simpa [State.vecCtx] using hn
  have h2 : sources.any s.curGroup.vPoison.contains = false := by
    simpa [State.vecCtx] using hs
  simp [checkRegs, curGroup, bind, EStateM.bind, EStateM.get, get, getThe, MonadStateOf.get, pure, EStateM.pure, h1, h2]

/-- Prefix checks that pass give the word's context without an effect. -/
theorem vctx_ok {b : Bool} (h : prefixOk b s.vecCtx.pre = true) : vctx b s = .ok s.vecCtx s := by
  simp only [State.vecCtx] at h
  simp [vctx, bind, EStateM.bind, EStateM.get, get, getThe, MonadStateOf.get, pure, EStateM.pure, h, State.vecCtx]

/-- A task that is not pure passes the purity check of a whole word. -/
theorem impure_ok (h : (s.launchOf s.cur.ctx).isPure = false) : impure s = .ok () s := by
  simp [impure, bind, EStateM.bind, EStateM.get, get, getThe, MonadStateOf.get, pure, EStateM.pure, h]

/-- A flag with room counts. -/
theorem countFlag_ok {f : BitVec 1} (h : s.flagRoom f) : countFlag f s = .ok (s.flagOf f) (s.counted f) := by
  unfold countFlag State.counted
  simp only [bind, EStateM.bind, get, getThe, MonadStateOf.get, EStateM.get]
  cases hf : s.flagOf f with
  | none => rfl
  | some n =>
    dsimp only
    rw [if_neg (Nat.not_le.2 (h n hf))]
    rfl

/-- A flag without room makes its word hold. -/
theorem countFlag_full {f : BitVec 1} {n : Nat} (h : s.flagOf f = some n) (hn : 63 ≤ s.curGroup.flags.getD n 0) :
    countFlag f s = .error (.hold (.flag n)) s := by
  unfold countFlag
  simp only [bind, EStateM.bind, get, getThe, MonadStateOf.get, EStateM.get, h, if_pos hn]
  rfl

/-! ## What the ends of operations leave alone -/

/-- What a group's late changes leave alone (Table 02-4): everything but the pool map. -/
@[simp] theorem State.touchFrame_side (s : State) (c i : Nat) : (s.touchFrame c i).side = s.side := by
  unfold State.touchFrame; split <;> rfl
@[simp] theorem State.touchFrame_teams (s : State) (c i : Nat) : (s.touchFrame c i).teams = s.teams := by
  unfold State.touchFrame; split <;> rfl
@[simp] theorem State.touchFrame_groups (s : State) (c i : Nat) : (s.touchFrame c i).groups = s.groups := by
  unfold State.touchFrame; split <;> rfl
@[simp] theorem State.touchFrame_ops (s : State) (c i : Nat) : (s.touchFrame c i).ops = s.ops := by
  unfold State.touchFrame; split <;> rfl
@[simp] theorem State.touchFrame_launches (s : State) (c i : Nat) : (s.touchFrame c i).launches = s.launches := by
  unfold State.touchFrame; split <;> rfl

@[simp] theorem State.dropFlag_side (s : State) (c i : Nat) (f : Option Nat) : (s.dropFlag c i f).side = s.side := by
  cases f <;> simp [State.dropFlag]
@[simp] theorem State.dropFlag_teams (s : State) (c i : Nat) (f : Option Nat) : (s.dropFlag c i f).teams = s.teams := by
  cases f <;> simp [State.dropFlag]
@[simp] theorem State.dropFlag_ops (s : State) (c i : Nat) (f : Option Nat) : (s.dropFlag c i f).ops = s.ops := by
  cases f <;> simp [State.dropFlag]
@[simp] theorem State.dropFlag_launches (s : State) (c i : Nat) (f : Option Nat) : (s.dropFlag c i f).launches = s.launches := by
  cases f <;> simp [State.dropFlag]

/-- A group with a live party does not exit. -/
theorem State.groupExit_live {s : State} {c i : Nat} (h : (s.groupAt c i).parties ≠ []) : s.groupExit c i = s := by
  have : (s.groupAt c i).parties.isEmpty = false := by cases hp : (s.groupAt c i).parties <;> simp_all
  simp [State.groupExit, this]

/-- An operation that completes in a group with a live party leaves, and its flag falls. -/
theorem State.finishOp_live {s : State} {o : Op}
    (h : (((s.removeOp o.id).dropFlag o.ctx o.grp o.flag).groupAt o.ctx o.grp).parties ≠ []) :
    s.finishOp o = (s.removeOp o.id).dropFlag o.ctx o.grp o.flag := State.groupExit_live h

/-- An acquire leaves home memory as it is. -/
@[simp] theorem State.acquireActions_mem (s : State) (c n : Nat) : (s.acquireActions c n).side.mem = s.side.mem := by
  unfold State.acquireActions; split <;> rfl

/-- An acquire leaves every group and team as it is. -/
@[simp] theorem State.acquireActions_groups (s : State) (c n : Nat) : (s.acquireActions c n).groups = s.groups := by
  unfold State.acquireActions; split <;> rfl
@[simp] theorem State.acquireActions_teams (s : State) (c n : Nat) : (s.acquireActions c n).teams = s.teams := by
  unfold State.acquireActions; split <;> rfl

/-- What a write shows to waiting barriers changes no more than their waits, and nothing where no party waits so. -/
@[simp] theorem State.seeWrite_side (s : State) (c : Option Nat) (f : Nat → Bool) : (s.seeWrite c f).side = s.side := by
  unfold State.seeWrite; split <;> rfl
@[simp] theorem State.seeWrite_teams (s : State) (c : Option Nat) (f : Nat → Bool) : (s.seeWrite c f).teams = s.teams := by
  unfold State.seeWrite; split <;> rfl
theorem State.seeWrite_none {s : State} (c : Option Nat) (f : Nat → Bool) (h : s.groups.any Group.hasBarwait = false) :
    s.seeWrite c f = s := by
  simp only [State.seeWrite, h]; rfl

/-- A write to a pool window leaves home memory as it is, and every group where no party waits at a barrier. -/
@[simp] theorem State.poolWrite_side (s : State) (c a : Nat) (bs : List Byte) : (s.poolWrite c a bs).side = s.side := by
  simp [State.poolWrite]
theorem State.poolWrite_groups {s : State} (c a : Nat) (bs : List Byte) (h : s.groups.any Group.hasBarwait = false) :
    (s.poolWrite c a bs).groups = s.groups := by
  unfold State.poolWrite; rw [State.seeWrite_none _ _ (by exact h)]; rfl

/-- A charge changes energy counters alone. -/
@[simp] theorem State.charge_side (s : State) (e : Energy) : (s.charge e).side = s.side := rfl
@[simp] theorem State.charge_groups (s : State) (e : Energy) : (s.charge e).groups = s.groups := rfl

/-! ## Lists by key -/

/-- The value under a key that was put there. -/
theorem look_put_self {α : Type} (k : Nat) (v d : α) : ∀ l : List (Nat × α), look (put l k v) k d = v
  | [] => by simp [put, look]
  | (j, u) :: t => by
    unfold put
    split
    · simp [look]
    · split
      · simp [look]
      · rename_i h
        simp [look, h, look_put_self k v d t]

/-- The value under another key. -/
theorem look_put_other {α : Type} {k j : Nat} (v d : α) (h : j ≠ k) : ∀ l : List (Nat × α), look (put l k v) j d = look l j d
  | [] => by simp [put, look, Ne.symm h]
  | (i, u) :: t => by
    unfold put
    split
    · simp [look, Ne.symm h]
    · split
      · rename_i hi; subst hi; simp [look, Ne.symm h]
      · simp only [look, look_put_other v d h t]

/-- What a change of one tenant function's block shows. -/
@[simp] theorem State.tf_mapTf_self (s : State) (n : Nat) (f : TfBlock → TfBlock) : (s.mapTf n f).tf n = f (s.tf n) :=
  look_put_self n _ _ s.tfs

/-- A change of one tenant function's block leaves the others. -/
theorem State.tf_mapTf_other {s : State} {n k : Nat} {f : TfBlock → TfBlock} (h : k ≠ n) : (s.mapTf n f).tf k = s.tf k :=
  look_put_other _ _ h s.tfs

@[simp] theorem State.queueAt_mapQueue_self (s : State) (n : Nat) (f : LaunchQueue → LaunchQueue) :
    (s.mapQueue n f).queueAt n = f (s.queueAt n) := look_put_self n _ _ s.queues

@[simp] theorem State.qpAt_mapQp_self (s : State) (n : Nat) (f : QueuePair → QueuePair) :
    (s.mapQp n f).qpAt n = f (s.qpAt n) := look_put_self n _ _ s.qps

@[simp] theorem State.linkAt_mapLink_self (s : State) (n : Nat) (f : Link → Link) :
    (s.mapLink n f).linkAt n = f (s.linkAt n) := look_put_self n _ _ s.links

end Sys2Proof.Machine
end

