-- ==== Sys2Proof/Laws/PerInstr.lean ====
section
/-!
SUPPORT. What holds of each instruction as syntax, one lemma a constructor: a step that is no word has no field but
the numbers of units, which must exist.
-/

namespace Sys2Proof.Laws

/-- A step that has no encoding is ill formed only where it names a unit that does not exist. -/
def Coded.Statement (i : Instr) : Prop := encode i = none → wfError i = none ∨ wfError i = some .fixedField

/-- One check of a unit's number. -/
theorem Coded.check (b : Bool) :
    (if !b then some DecodeError.fixedField else none) = none ∨ (if !b then some DecodeError.fixedField else none) = some .fixedField := by
  cases b <;> simp

theorem Coded.bra (o : BitVec 21) : Coded.Statement (.bra o) := nofun
theorem Coded.brc (n : BitVec 4) (o : BitVec 21) : Coded.Statement (.brc n o) := nofun
theorem Coded.brmAny (n : BitVec 3) (o : BitVec 21) : Coded.Statement (.brmAny n o) := nofun
theorem Coded.brmNone (n : BitVec 3) (o : BitVec 21) : Coded.Statement (.brmNone n o) := nofun
theorem Coded.jmpi (n : BitVec 4) : Coded.Statement (.jmpi n) := nofun
theorem Coded.call (o : BitVec 21) : Coded.Statement (.call o) := nofun
theorem Coded.calli (n : BitVec 4) : Coded.Statement (.calli n) := nofun
theorem Coded.ret : Coded.Statement .ret := nofun
theorem Coded.loop (n : BitVec 4) (o : BitVec 21) : Coded.Statement (.loop n o) := nofun
theorem Coded.split (t : BitVec 4) (c : BitVec 4) (o : BitVec 17) : Coded.Statement (.split t c o) := nofun
theorem Coded.join (t : BitVec 4) : Coded.Statement (.join t) := nofun
theorem Coded.joinMerge (p : PartyRef) : Coded.Statement (.joinMerge p) := fun _ => .inl rfl
theorem Coded.exit : Coded.Statement .exit := nofun
theorem Coded.yield : Coded.Statement .yield := nofun
theorem Coded.nop : Coded.Statement .nop := nofun
theorem Coded.trap (c : BitVec 8) : Coded.Statement (.trap c) := nofun
theorem Coded.bkpt : Coded.Statement .bkpt := nofun
theorem Coded.eret : Coded.Statement .eret := nofun
theorem Coded.sadd (i : BitVec 1) (d : BitVec 5) (a : BitVec 8) (b : BitVec 8) : Coded.Statement (.sadd i d a b) := nofun
theorem Coded.ssub (i : BitVec 1) (d : BitVec 5) (a : BitVec 8) (b : BitVec 8) : Coded.Statement (.ssub i d a b) := nofun
theorem Coded.smul (i : BitVec 1) (d : BitVec 5) (a : BitVec 8) (b : BitVec 8) : Coded.Statement (.smul i d a b) := nofun
theorem Coded.smulh (i : BitVec 1) (d : BitVec 5) (a : BitVec 8) (b : BitVec 8) : Coded.Statement (.smulh i d a b) := nofun
theorem Coded.smulhU (i : BitVec 1) (d : BitVec 5) (a : BitVec 8) (b : BitVec 8) : Coded.Statement (.smulhU i d a b) := nofun
theorem Coded.sdiv (i : BitVec 1) (d : BitVec 5) (a : BitVec 8) (b : BitVec 8) : Coded.Statement (.sdiv i d a b) := nofun
theorem Coded.sdivU (i : BitVec 1) (d : BitVec 5) (a : BitVec 8) (b : BitVec 8) : Coded.Statement (.sdivU i d a b) := nofun
theorem Coded.srem (i : BitVec 1) (d : BitVec 5) (a : BitVec 8) (b : BitVec 8) : Coded.Statement (.srem i d a b) := nofun
theorem Coded.sremU (i : BitVec 1) (d : BitVec 5) (a : BitVec 8) (b : BitVec 8) : Coded.Statement (.sremU i d a b) := nofun
theorem Coded.sand (i : BitVec 1) (d : BitVec 5) (a : BitVec 8) (b : BitVec 8) : Coded.Statement (.sand i d a b) := nofun
theorem Coded.sor (i : BitVec 1) (d : BitVec 5) (a : BitVec 8) (b : BitVec 8) : Coded.Statement (.sor i d a b) := nofun
theorem Coded.sxor (i : BitVec 1) (d : BitVec 5) (a : BitVec 8) (b : BitVec 8) : Coded.Statement (.sxor i d a b) := nofun
theorem Coded.sandn (i : BitVec 1) (d : BitVec 5) (a : BitVec 8) (b : BitVec 8) : Coded.Statement (.sandn i d a b) := nofun
theorem Coded.sshl (i : BitVec 1) (d : BitVec 5) (a : BitVec 8) (b : BitVec 8) : Coded.Statement (.sshl i d a b) := nofun
theorem Coded.sshr (i : BitVec 1) (d : BitVec 5) (a : BitVec 8) (b : BitVec 8) : Coded.Statement (.sshr i d a b) := nofun
theorem Coded.ssar (i : BitVec 1) (d : BitVec 5) (a : BitVec 8) (b : BitVec 8) : Coded.Statement (.ssar i d a b) := nofun
theorem Coded.srot (i : BitVec 1) (d : BitVec 5) (a : BitVec 8) (b : BitVec 8) : Coded.Statement (.srot i d a b) := nofun
theorem Coded.smin (i : BitVec 1) (d : BitVec 5) (a : BitVec 8) (b : BitVec 8) : Coded.Statement (.smin i d a b) := nofun
theorem Coded.sminU (i : BitVec 1) (d : BitVec 5) (a : BitVec 8) (b : BitVec 8) : Coded.Statement (.sminU i d a b) := nofun
theorem Coded.smax (i : BitVec 1) (d : BitVec 5) (a : BitVec 8) (b : BitVec 8) : Coded.Statement (.smax i d a b) := nofun
theorem Coded.smaxU (i : BitVec 1) (d : BitVec 5) (a : BitVec 8) (b : BitVec 8) : Coded.Statement (.smaxU i d a b) := nofun
theorem Coded.scmpEq (i : BitVec 1) (d : BitVec 5) (a : BitVec 8) (b : BitVec 8) : Coded.Statement (.scmpEq i d a b) := nofun
theorem Coded.scmpNe (i : BitVec 1) (d : BitVec 5) (a : BitVec 8) (b : BitVec 8) : Coded.Statement (.scmpNe i d a b) := nofun
theorem Coded.scmpLt (i : BitVec 1) (d : BitVec 5) (a : BitVec 8) (b : BitVec 8) : Coded.Statement (.scmpLt i d a b) := nofun
theorem Coded.scmpLe (i : BitVec 1) (d : BitVec 5) (a : BitVec 8) (b : BitVec 8) : Coded.Statement (.scmpLe i d a b) := nofun
theorem Coded.scmpLtU (i : BitVec 1) (d : BitVec 5) (a : BitVec 8) (b : BitVec 8) : Coded.Statement (.scmpLtU i d a b) := nofun
theorem Coded.scmpLeU (i : BitVec 1) (d : BitVec 5) (a : BitVec 8) (b : BitVec 8) : Coded.Statement (.scmpLeU i d a b) := nofun
theorem Coded.ssel (i : BitVec 1) (d : BitVec 5) (a : BitVec 8) (b : BitVec 8) : Coded.Statement (.ssel i d a b) := nofun
theorem Coded.smov (i : BitVec 1) (d : BitVec 5) (b : BitVec 8) : Coded.Statement (.smov i d b) := nofun
theorem Coded.sli (d : BitVec 5) (a : BitVec 8) (b : BitVec 8) : Coded.Statement (.sli d a b) := nofun
theorem Coded.spopc (d : BitVec 5) (a : BitVec 8) : Coded.Statement (.spopc d a) := nofun
theorem Coded.sclz (d : BitVec 5) (a : BitVec 8) : Coded.Statement (.sclz d a) := nofun
theorem Coded.sbfe (i : BitVec 1) (d : BitVec 5) (a : BitVec 8) (b : BitVec 8) : Coded.Statement (.sbfe i d a b) := nofun
theorem Coded.sbfeS (i : BitVec 1) (d : BitVec 5) (a : BitVec 8) (b : BitVec 8) : Coded.Statement (.sbfeS i d a b) := nofun
theorem Coded.mand (d : BitVec 4) (a : BitVec 8) (b : BitVec 8) : Coded.Statement (.mand d a b) := nofun
theorem Coded.mor (d : BitVec 4) (a : BitVec 8) (b : BitVec 8) : Coded.Statement (.mor d a b) := nofun
theorem Coded.mxor (d : BitVec 4) (a : BitVec 8) (b : BitVec 8) : Coded.Statement (.mxor d a b) := nofun
theorem Coded.mandn (d : BitVec 4) (a : BitVec 8) (b : BitVec 8) : Coded.Statement (.mandn d a b) := nofun
theorem Coded.mnot (d : BitVec 4) (a : BitVec 4) : Coded.Statement (.mnot d a) := nofun
theorem Coded.mmov (d : BitVec 4) (a : BitVec 4) : Coded.Statement (.mmov d a) := nofun
theorem Coded.mfroms (d : BitVec 4) (a : BitVec 8) : Coded.Statement (.mfroms d a) := nofun
theorem Coded.mtos (d : BitVec 5) (a : BitVec 4) : Coded.Statement (.mtos d a) := nofun
theorem Coded.mpopc (d : BitVec 5) (a : BitVec 4) : Coded.Statement (.mpopc d a) := nofun
theorem Coded.mffs (d : BitVec 5) (a : BitVec 4) : Coded.Statement (.mffs d a) := nofun
theorem Coded.mlane (i : BitVec 1) (d : BitVec 4) (b : BitVec 8) : Coded.Statement (.mlane i d b) := nofun
theorem Coded.mtest (d : BitVec 5) (a : BitVec 4) (b : BitVec 8) : Coded.Statement (.mtest d a b) := nofun
theorem Coded.vadd (i : BitVec 1) (d : BitVec 7) (a : BitVec 7) (b : BitVec 8) : Coded.Statement (.vadd i d a b) := nofun
theorem Coded.vaddI16 (i : BitVec 1) (d : BitVec 7) (a : BitVec 7) (b : BitVec 8) : Coded.Statement (.vaddI16 i d a b) := nofun
theorem Coded.vaddI8 (i : BitVec 1) (d : BitVec 7) (a : BitVec 7) (b : BitVec 8) : Coded.Statement (.vaddI8 i d a b) := nofun
theorem Coded.vsub (i : BitVec 1) (d : BitVec 7) (a : BitVec 7) (b : BitVec 8) : Coded.Statement (.vsub i d a b) := nofun
theorem Coded.vsubI16 (i : BitVec 1) (d : BitVec 7) (a : BitVec 7) (b : BitVec 8) : Coded.Statement (.vsubI16 i d a b) := nofun
theorem Coded.vsubI8 (i : BitVec 1) (d : BitVec 7) (a : BitVec 7) (b : BitVec 8) : Coded.Statement (.vsubI8 i d a b) := nofun
theorem Coded.vmullo (i : BitVec 1) (d : BitVec 7) (a : BitVec 7) (b : BitVec 8) : Coded.Statement (.vmullo i d a b) := nofun
theorem Coded.vmulloI16 (i : BitVec 1) (d : BitVec 7) (a : BitVec 7) (b : BitVec 8) : Coded.Statement (.vmulloI16 i d a b) := nofun
theorem Coded.vmulloI8 (i : BitVec 1) (d : BitVec 7) (a : BitVec 7) (b : BitVec 8) : Coded.Statement (.vmulloI8 i d a b) := nofun
theorem Coded.vmulhi (i : BitVec 1) (d : BitVec 7) (a : BitVec 7) (b : BitVec 8) : Coded.Statement (.vmulhi i d a b) := nofun
theorem Coded.vmulhiU (i : BitVec 1) (d : BitVec 7) (a : BitVec 7) (b : BitVec 8) : Coded.Statement (.vmulhiU i d a b) := nofun
theorem Coded.vmad (i : BitVec 1) (d : BitVec 7) (a : BitVec 7) (b : BitVec 8) : Coded.Statement (.vmad i d a b) := nofun
theorem Coded.vmadI16 (i : BitVec 1) (d : BitVec 7) (a : BitVec 7) (b : BitVec 8) : Coded.Statement (.vmadI16 i d a b) := nofun
theorem Coded.vmadI8 (i : BitVec 1) (d : BitVec 7) (a : BitVec 7) (b : BitVec 8) : Coded.Statement (.vmadI8 i d a b) := nofun
theorem Coded.vmin (i : BitVec 1) (d : BitVec 7) (a : BitVec 7) (b : BitVec 8) : Coded.Statement (.vmin i d a b) := nofun
theorem Coded.vminI16 (i : BitVec 1) (d : BitVec 7) (a : BitVec 7) (b : BitVec 8) : Coded.Statement (.vminI16 i d a b) := nofun
theorem Coded.vminI8 (i : BitVec 1) (d : BitVec 7) (a : BitVec 7) (b : BitVec 8) : Coded.Statement (.vminI8 i d a b) := nofun
theorem Coded.vminU (i : BitVec 1) (d : BitVec 7) (a : BitVec 7) (b : BitVec 8) : Coded.Statement (.vminU i d a b) := nofun
theorem Coded.vminUI16 (i : BitVec 1) (d : BitVec 7) (a : BitVec 7) (b : BitVec 8) : Coded.Statement (.vminUI16 i d a b) := nofun
theorem Coded.vminUI8 (i : BitVec 1) (d : BitVec 7) (a : BitVec 7) (b : BitVec 8) : Coded.Statement (.vminUI8 i d a b) := nofun
theorem Coded.vmax (i : BitVec 1) (d : BitVec 7) (a : BitVec 7) (b : BitVec 8) : Coded.Statement (.vmax i d a b) := nofun
theorem Coded.vmaxI16 (i : BitVec 1) (d : BitVec 7) (a : BitVec 7) (b : BitVec 8) : Coded.Statement (.vmaxI16 i d a b) := nofun
theorem Coded.vmaxI8 (i : BitVec 1) (d : BitVec 7) (a : BitVec 7) (b : BitVec 8) : Coded.Statement (.vmaxI8 i d a b) := nofun
theorem Coded.vmaxU (i : BitVec 1) (d : BitVec 7) (a : BitVec 7) (b : BitVec 8) : Coded.Statement (.vmaxU i d a b) := nofun
theorem Coded.vmaxUI16 (i : BitVec 1) (d : BitVec 7) (a : BitVec 7) (b : BitVec 8) : Coded.Statement (.vmaxUI16 i d a b) := nofun
theorem Coded.vmaxUI8 (i : BitVec 1) (d : BitVec 7) (a : BitVec 7) (b : BitVec 8) : Coded.Statement (.vmaxUI8 i d a b) := nofun
theorem Coded.vabsd (i : BitVec 1) (d : BitVec 7) (a : BitVec 7) (b : BitVec 8) : Coded.Statement (.vabsd i d a b) := nofun
theorem Coded.vabsdU (i : BitVec 1) (d : BitVec 7) (a : BitVec 7) (b : BitVec 8) : Coded.Statement (.vabsdU i d a b) := nofun
theorem Coded.vaddsat (i : BitVec 1) (d : BitVec 7) (a : BitVec 7) (b : BitVec 8) : Coded.Statement (.vaddsat i d a b) := nofun
theorem Coded.vaddsatI16 (i : BitVec 1) (d : BitVec 7) (a : BitVec 7) (b : BitVec 8) : Coded.Statement (.vaddsatI16 i d a b) := nofun
theorem Coded.vaddsatI8 (i : BitVec 1) (d : BitVec 7) (a : BitVec 7) (b : BitVec 8) : Coded.Statement (.vaddsatI8 i d a b) := nofun
theorem Coded.vaddsatU8 (i : BitVec 1) (d : BitVec 7) (a : BitVec 7) (b : BitVec 8) : Coded.Statement (.vaddsatU8 i d a b) := nofun
theorem Coded.vsubsat (i : BitVec 1) (d : BitVec 7) (a : BitVec 7) (b : BitVec 8) : Coded.Statement (.vsubsat i d a b) := nofun
theorem Coded.vsubsatI16 (i : BitVec 1) (d : BitVec 7) (a : BitVec 7) (b : BitVec 8) : Coded.Statement (.vsubsatI16 i d a b) := nofun
theorem Coded.vsubsatI8 (i : BitVec 1) (d : BitVec 7) (a : BitVec 7) (b : BitVec 8) : Coded.Statement (.vsubsatI8 i d a b) := nofun
theorem Coded.vsubsatU8 (i : BitVec 1) (d : BitVec 7) (a : BitVec 7) (b : BitVec 8) : Coded.Statement (.vsubsatU8 i d a b) := nofun
theorem Coded.vand (i : BitVec 1) (d : BitVec 7) (a : BitVec 7) (b : BitVec 8) : Coded.Statement (.vand i d a b) := nofun
theorem Coded.vor (i : BitVec 1) (d : BitVec 7) (a : BitVec 7) (b : BitVec 8) : Coded.Statement (.vor i d a b) := nofun
theorem Coded.vxor (i : BitVec 1) (d : BitVec 7) (a : BitVec 7) (b : BitVec 8) : Coded.Statement (.vxor i d a b) := nofun
theorem Coded.vandn (i : BitVec 1) (d : BitVec 7) (a : BitVec 7) (b : BitVec 8) : Coded.Statement (.vandn i d a b) := nofun
theorem Coded.vshl (i : BitVec 1) (d : BitVec 7) (a : BitVec 7) (b : BitVec 8) : Coded.Statement (.vshl i d a b) := nofun
theorem Coded.vshr (i : BitVec 1) (d : BitVec 7) (a : BitVec 7) (b : BitVec 8) : Coded.Statement (.vshr i d a b) := nofun
theorem Coded.vsar (i : BitVec 1) (d : BitVec 7) (a : BitVec 7) (b : BitVec 8) : Coded.Statement (.vsar i d a b) := nofun
theorem Coded.vrot (i : BitVec 1) (d : BitVec 7) (a : BitVec 7) (b : BitVec 8) : Coded.Statement (.vrot i d a b) := nofun
theorem Coded.vpopc (d : BitVec 7) (a : BitVec 7) : Coded.Statement (.vpopc d a) := nofun
theorem Coded.vclz (d : BitVec 7) (a : BitVec 7) : Coded.Statement (.vclz d a) := nofun
theorem Coded.vbrev (d : BitVec 7) (a : BitVec 7) : Coded.Statement (.vbrev d a) := nofun
theorem Coded.vbfe (i : BitVec 1) (d : BitVec 7) (a : BitVec 7) (b : BitVec 8) : Coded.Statement (.vbfe i d a b) := nofun
theorem Coded.vbfeS (i : BitVec 1) (d : BitVec 7) (a : BitVec 7) (b : BitVec 8) : Coded.Statement (.vbfeS i d a b) := nofun
theorem Coded.vbfi (i : BitVec 1) (d : BitVec 7) (a : BitVec 7) (b : BitVec 8) : Coded.Statement (.vbfi i d a b) := nofun
theorem Coded.vcmp (i : BitVec 1) (c : BitVec 3) (m : BitVec 4) (a : BitVec 7) (b : BitVec 8) : Coded.Statement (.vcmp i c m a b) := nofun
theorem Coded.vsel (i : BitVec 1) (d : BitVec 7) (a : BitVec 7) (b : BitVec 8) : Coded.Statement (.vsel i d a b) := nofun
theorem Coded.vmov (i : BitVec 1) (d : BitVec 7) (b : BitVec 8) : Coded.Statement (.vmov i d b) := nofun
theorem Coded.vrdx (i : BitVec 1) (d : BitVec 7) (a : BitVec 7) (b : BitVec 8) : Coded.Statement (.vrdx i d a b) := nofun
theorem Coded.vwrx (i : BitVec 1) (s : BitVec 7) (a : BitVec 7) (b : BitVec 8) : Coded.Statement (.vwrx i s a b) := nofun
theorem Coded.vdead (d : BitVec 7) (n : BitVec 8) : Coded.Statement (.vdead d n) := nofun
theorem Coded.vfadd (d : BitVec 7) (a : BitVec 7) (b : BitVec 8) : Coded.Statement (.vfadd d a b) := nofun
theorem Coded.vfaddF16 (d : BitVec 7) (a : BitVec 7) (b : BitVec 8) : Coded.Statement (.vfaddF16 d a b) := nofun
theorem Coded.vfaddBf16 (d : BitVec 7) (a : BitVec 7) (b : BitVec 8) : Coded.Statement (.vfaddBf16 d a b) := nofun
theorem Coded.vfsub (d : BitVec 7) (a : BitVec 7) (b : BitVec 8) : Coded.Statement (.vfsub d a b) := nofun
theorem Coded.vfsubF16 (d : BitVec 7) (a : BitVec 7) (b : BitVec 8) : Coded.Statement (.vfsubF16 d a b) := nofun
theorem Coded.vfsubBf16 (d : BitVec 7) (a : BitVec 7) (b : BitVec 8) : Coded.Statement (.vfsubBf16 d a b) := nofun
theorem Coded.vfmul (d : BitVec 7) (a : BitVec 7) (b : BitVec 8) : Coded.Statement (.vfmul d a b) := nofun
theorem Coded.vfmulF16 (d : BitVec 7) (a : BitVec 7) (b : BitVec 8) : Coded.Statement (.vfmulF16 d a b) := nofun
theorem Coded.vfmulBf16 (d : BitVec 7) (a : BitVec 7) (b : BitVec 8) : Coded.Statement (.vfmulBf16 d a b) := nofun
theorem Coded.vfma (d : BitVec 7) (a : BitVec 7) (b : BitVec 8) : Coded.Statement (.vfma d a b) := nofun
theorem Coded.vfmaF16 (d : BitVec 7) (a : BitVec 7) (b : BitVec 8) : Coded.Statement (.vfmaF16 d a b) := nofun
theorem Coded.vfmaBf16 (d : BitVec 7) (a : BitVec 7) (b : BitVec 8) : Coded.Statement (.vfmaBf16 d a b) := nofun
theorem Coded.vfmin (d : BitVec 7) (a : BitVec 7) (b : BitVec 8) : Coded.Statement (.vfmin d a b) := nofun
theorem Coded.vfminF16 (d : BitVec 7) (a : BitVec 7) (b : BitVec 8) : Coded.Statement (.vfminF16 d a b) := nofun
theorem Coded.vfminBf16 (d : BitVec 7) (a : BitVec 7) (b : BitVec 8) : Coded.Statement (.vfminBf16 d a b) := nofun
theorem Coded.vfmax (d : BitVec 7) (a : BitVec 7) (b : BitVec 8) : Coded.Statement (.vfmax d a b) := nofun
theorem Coded.vfmaxF16 (d : BitVec 7) (a : BitVec 7) (b : BitVec 8) : Coded.Statement (.vfmaxF16 d a b) := nofun
theorem Coded.vfmaxBf16 (d : BitVec 7) (a : BitVec 7) (b : BitVec 8) : Coded.Statement (.vfmaxBf16 d a b) := nofun
theorem Coded.vfsgn (d : BitVec 7) (a : BitVec 7) (b : BitVec 8) : Coded.Statement (.vfsgn d a b) := nofun
theorem Coded.vfsgnN (d : BitVec 7) (a : BitVec 7) (b : BitVec 8) : Coded.Statement (.vfsgnN d a b) := nofun
theorem Coded.vfsgnX (d : BitVec 7) (a : BitVec 7) (b : BitVec 8) : Coded.Statement (.vfsgnX d a b) := nofun
theorem Coded.vfcmp (c : BitVec 3) (m : BitVec 4) (a : BitVec 7) (b : BitVec 8) : Coded.Statement (.vfcmp c m a b) := nofun
theorem Coded.vfclass (d : BitVec 7) (a : BitVec 7) : Coded.Statement (.vfclass d a) := nofun
theorem Coded.vfdiv (d : BitVec 7) (a : BitVec 7) (b : BitVec 8) : Coded.Statement (.vfdiv d a b) := nofun
theorem Coded.vfsqrt (d : BitVec 7) (a : BitVec 7) : Coded.Statement (.vfsqrt d a) := nofun
theorem Coded.vfrcp (d : BitVec 7) (a : BitVec 7) : Coded.Statement (.vfrcp d a) := nofun
theorem Coded.vfrsq (d : BitVec 7) (a : BitVec 7) : Coded.Statement (.vfrsq d a) := nofun
theorem Coded.vfexp2 (d : BitVec 7) (a : BitVec 7) : Coded.Statement (.vfexp2 d a) := nofun
theorem Coded.vflog2 (d : BitVec 7) (a : BitVec 7) : Coded.Statement (.vflog2 d a) := nofun
theorem Coded.vfsin (d : BitVec 7) (a : BitVec 7) : Coded.Statement (.vfsin d a) := nofun
theorem Coded.vfcos (d : BitVec 7) (a : BitVec 7) : Coded.Statement (.vfcos d a) := nofun
theorem Coded.vfrnd (d : BitVec 7) (a : BitVec 7) : Coded.Statement (.vfrnd d a) := nofun
theorem Coded.vfrndF16 (d : BitVec 7) (a : BitVec 7) : Coded.Statement (.vfrndF16 d a) := nofun
theorem Coded.vfrndBf16 (d : BitVec 7) (a : BitVec 7) : Coded.Statement (.vfrndBf16 d a) := nofun
theorem Coded.vcvt (g : BitVec 2) (d : BitVec 7) (a : BitVec 7) (t : BitVec 4) (s : BitVec 4) : Coded.Statement (.vcvt g d a t s) := nofun
theorem Coded.vpack (g : BitVec 2) (d : BitVec 7) (a : BitVec 7) (f : BitVec 4) : Coded.Statement (.vpack g d a f) := nofun
theorem Coded.vunpk (g : BitVec 2) (d : BitVec 7) (a : BitVec 7) (f : BitVec 4) : Coded.Statement (.vunpk g d a f) := nofun
theorem Coded.vquantE4m3 (d : BitVec 7) (a : BitVec 7) : Coded.Statement (.vquantE4m3 d a) := nofun
theorem Coded.vquantE5m2 (d : BitVec 7) (a : BitVec 7) : Coded.Statement (.vquantE5m2 d a) := nofun
theorem Coded.vquantE2m1 (d : BitVec 7) (a : BitVec 7) : Coded.Statement (.vquantE2m1 d a) := nofun
theorem Coded.vdeqE4m3 (d : BitVec 7) (a : BitVec 7) : Coded.Statement (.vdeqE4m3 d a) := nofun
theorem Coded.vdeqE5m2 (d : BitVec 7) (a : BitVec 7) : Coded.Statement (.vdeqE5m2 d a) := nofun
theorem Coded.vdeqE2m1 (d : BitVec 7) (a : BitVec 7) : Coded.Statement (.vdeqE2m1 d a) := nofun
theorem Coded.vperm (d : BitVec 7) (a : BitVec 7) (b : BitVec 8) : Coded.Statement (.vperm d a b) := nofun
theorem Coded.vbcast (i : BitVec 1) (d : BitVec 7) (a : BitVec 7) (b : BitVec 8) : Coded.Statement (.vbcast i d a b) := nofun
theorem Coded.vlshiftUp (i : BitVec 1) (d : BitVec 7) (a : BitVec 7) (b : BitVec 8) : Coded.Statement (.vlshiftUp i d a b) := nofun
theorem Coded.vlshiftDn (i : BitVec 1) (d : BitVec 7) (a : BitVec 7) (b : BitVec 8) : Coded.Statement (.vlshiftDn i d a b) := nofun
theorem Coded.vred (d : BitVec 7) (a : BitVec 7) (o : BitVec 8) : Coded.Statement (.vred d a o) := nofun
theorem Coded.vredScalar (d : BitVec 5) (a : BitVec 7) (o : BitVec 8) : Coded.Statement (.vredScalar d a o) := nofun
theorem Coded.vredmi (d : BitVec 7) (a : BitVec 7) : Coded.Statement (.vredmi d a) := nofun
theorem Coded.vredmiScalar (d : BitVec 5) (a : BitVec 7) : Coded.Statement (.vredmiScalar d a) := nofun
theorem Coded.vscan (d : BitVec 7) (a : BitVec 7) (o : BitVec 8) : Coded.Statement (.vscan d a o) := nofun
theorem Coded.vscanEx (d : BitVec 7) (a : BitVec 7) (o : BitVec 8) : Coded.Statement (.vscanEx d a o) := nofun
theorem Coded.vballot (m : BitVec 4) (a : BitVec 7) : Coded.Statement (.vballot m a) := nofun
theorem Coded.vextr (i : BitVec 1) (d : BitVec 5) (a : BitVec 7) (b : BitVec 8) : Coded.Statement (.vextr i d a b) := nofun
theorem Coded.vins (i : BitVec 1) (d : BitVec 7) (a : BitVec 5) (b : BitVec 8) : Coded.Statement (.vins i d a b) := nofun
theorem Coded.prefixWord (m : BitVec 4) (z : BitVec 1) (r : BitVec 3) (f : BitVec 8) (k : BitVec 3) (a : BitVec 6) : Coded.Statement (.prefixWord m z r f k a) := nofun
theorem Coded.ld (f : BitVec 1) (z : BitVec 2) (d : BitVec 7) (o : BitVec 7) (b : BitVec 5) (k : BitVec 2) (n : BitVec 1) : Coded.Statement (.ld f z d o b k n) := nofun
theorem Coded.st (f : BitVec 1) (z : BitVec 2) (d : BitVec 7) (o : BitVec 7) (b : BitVec 5) (k : BitVec 2) (n : BitVec 1) : Coded.Statement (.st f z d o b k n) := nofun
theorem Coded.lds (f : BitVec 1) (z : BitVec 2) (d : BitVec 5) (o : BitVec 7) (b : BitVec 5) (k : BitVec 2) (n : BitVec 1) : Coded.Statement (.lds f z d o b k n) := nofun
theorem Coded.sts (f : BitVec 1) (z : BitVec 2) (d : BitVec 5) (o : BitVec 7) (b : BitVec 5) (k : BitVec 2) (n : BitVec 1) : Coded.Statement (.sts f z d o b k n) := nofun
theorem Coded.ldp (f : BitVec 1) (z : BitVec 2) (d : BitVec 7) (o : BitVec 7) (b : BitVec 5) (k : BitVec 2) (n : BitVec 1) : Coded.Statement (.ldp f z d o b k n) := nofun
theorem Coded.stp (f : BitVec 1) (z : BitVec 2) (d : BitVec 7) (o : BitVec 7) (b : BitVec 5) (k : BitVec 2) (n : BitVec 1) : Coded.Statement (.stp f z d o b k n) := nofun
theorem Coded.ldcl (f : BitVec 1) (z : BitVec 2) (d : BitVec 7) (o : BitVec 7) (b : BitVec 5) (k : BitVec 2) (n : BitVec 1) : Coded.Statement (.ldcl f z d o b k n) := nofun
theorem Coded.atomAdd (f : BitVec 1) (w : BitVec 1) (d : BitVec 7) (o : BitVec 7) (b : BitVec 5) : Coded.Statement (.atomAdd f w d o b) := nofun
theorem Coded.atomExch (f : BitVec 1) (w : BitVec 1) (d : BitVec 7) (o : BitVec 7) (b : BitVec 5) : Coded.Statement (.atomExch f w d o b) := nofun
theorem Coded.atomAnd (f : BitVec 1) (w : BitVec 1) (d : BitVec 7) (o : BitVec 7) (b : BitVec 5) : Coded.Statement (.atomAnd f w d o b) := nofun
theorem Coded.atomOr (f : BitVec 1) (w : BitVec 1) (d : BitVec 7) (o : BitVec 7) (b : BitVec 5) : Coded.Statement (.atomOr f w d o b) := nofun
theorem Coded.atomXor (f : BitVec 1) (w : BitVec 1) (d : BitVec 7) (o : BitVec 7) (b : BitVec 5) : Coded.Statement (.atomXor f w d o b) := nofun
theorem Coded.atomMin (f : BitVec 1) (w : BitVec 1) (d : BitVec 7) (o : BitVec 7) (b : BitVec 5) : Coded.Statement (.atomMin f w d o b) := nofun
theorem Coded.atomMax (f : BitVec 1) (w : BitVec 1) (d : BitVec 7) (o : BitVec 7) (b : BitVec 5) : Coded.Statement (.atomMax f w d o b) := nofun
theorem Coded.atomMinU (f : BitVec 1) (w : BitVec 1) (d : BitVec 7) (o : BitVec 7) (b : BitVec 5) : Coded.Statement (.atomMinU f w d o b) := nofun
theorem Coded.atomMaxU (f : BitVec 1) (w : BitVec 1) (d : BitVec 7) (o : BitVec 7) (b : BitVec 5) : Coded.Statement (.atomMaxU f w d o b) := nofun
theorem Coded.atomFadd (f : BitVec 1) (d : BitVec 7) (o : BitVec 7) (b : BitVec 5) : Coded.Statement (.atomFadd f d o b) := nofun
theorem Coded.atomc (f : BitVec 1) (z : BitVec 2) (d : BitVec 7) (o : BitVec 7) (b : BitVec 5) : Coded.Statement (.atomc f z d o b) := nofun
theorem Coded.atompAdd (f : BitVec 1) (w : BitVec 1) (d : BitVec 7) (o : BitVec 7) (b : BitVec 5) : Coded.Statement (.atompAdd f w d o b) := nofun
theorem Coded.atompExch (f : BitVec 1) (w : BitVec 1) (d : BitVec 7) (o : BitVec 7) (b : BitVec 5) : Coded.Statement (.atompExch f w d o b) := nofun
theorem Coded.atompAnd (f : BitVec 1) (w : BitVec 1) (d : BitVec 7) (o : BitVec 7) (b : BitVec 5) : Coded.Statement (.atompAnd f w d o b) := nofun
theorem Coded.atompOr (f : BitVec 1) (w : BitVec 1) (d : BitVec 7) (o : BitVec 7) (b : BitVec 5) : Coded.Statement (.atompOr f w d o b) := nofun
theorem Coded.atompXor (f : BitVec 1) (w : BitVec 1) (d : BitVec 7) (o : BitVec 7) (b : BitVec 5) : Coded.Statement (.atompXor f w d o b) := nofun
theorem Coded.atompMin (f : BitVec 1) (w : BitVec 1) (d : BitVec 7) (o : BitVec 7) (b : BitVec 5) : Coded.Statement (.atompMin f w d o b) := nofun
theorem Coded.atompMax (f : BitVec 1) (w : BitVec 1) (d : BitVec 7) (o : BitVec 7) (b : BitVec 5) : Coded.Statement (.atompMax f w d o b) := nofun
theorem Coded.atompMinU (f : BitVec 1) (w : BitVec 1) (d : BitVec 7) (o : BitVec 7) (b : BitVec 5) : Coded.Statement (.atompMinU f w d o b) := nofun
theorem Coded.atompMaxU (f : BitVec 1) (w : BitVec 1) (d : BitVec 7) (o : BitVec 7) (b : BitVec 5) : Coded.Statement (.atompMaxU f w d o b) := nofun
theorem Coded.atompFadd (f : BitVec 1) (d : BitVec 7) (o : BitVec 7) (b : BitVec 5) : Coded.Statement (.atompFadd f d o b) := nofun
theorem Coded.fence (o : BitVec 2) (s : BitVec 3) : Coded.Statement (.fence o s) := nofun
theorem Coded.prefL1 (f : BitVec 1) (o : BitVec 7) (b : BitVec 5) (k : BitVec 2) (n : BitVec 1) : Coded.Statement (.prefL1 f o b k n) := nofun
theorem Coded.prefL2 (f : BitVec 1) (o : BitVec 7) (b : BitVec 5) (k : BitVec 2) (n : BitVec 1) : Coded.Statement (.prefL2 f o b k n) := nofun
theorem Coded.cctlWb (f : BitVec 1) (o : BitVec 7) (b : BitVec 5) (k : BitVec 2) (n : BitVec 1) : Coded.Statement (.cctlWb f o b k n) := nofun
theorem Coded.cctlDc (f : BitVec 1) (o : BitVec 7) (b : BitVec 5) (k : BitVec 2) (n : BitVec 1) : Coded.Statement (.cctlDc f o b k n) := nofun
theorem Coded.cctlWbdc (f : BitVec 1) (o : BitVec 7) (b : BitVec 5) (k : BitVec 2) (n : BitVec 1) : Coded.Statement (.cctlWbdc f o b k n) := nofun
theorem Coded.memoryAccessComplete (op : Nat) : Coded.Statement (.memoryAccessComplete op) := fun _ => .inl rfl
theorem Coded.fabricRejection (op : Nat) : Coded.Statement (.fabricRejection op) := fun _ => .inl rfl
theorem Coded.pgrow (i : BitVec 1) (d : BitVec 5) (b : BitVec 8) : Coded.Statement (.pgrow i d b) := nofun
theorem Coded.pshrink (i : BitVec 1) (d : BitVec 5) (b : BitVec 8) : Coded.Statement (.pshrink i d b) := nofun
theorem Coded.pquery (d : BitVec 5) (x : BitVec 8) : Coded.Statement (.pquery d x) := nofun
theorem Coded.pshare (i : BitVec 1) (d : BitVec 5) (a : BitVec 8) (b : BitVec 8) : Coded.Statement (.pshare i d a b) := nofun
theorem Coded.barinit (d : BitVec 5) (a : BitVec 8) (p : BitVec 1) (c : BitVec 3) : Coded.Statement (.barinit d a p c) := nofun
theorem Coded.bararr (a : BitVec 8) (p : BitVec 1) (c : BitVec 3) : Coded.Statement (.bararr a p c) := nofun
theorem Coded.barwait (d : BitVec 5) (a : BitVec 8) (p : BitVec 1) (c : BitVec 3) : Coded.Statement (.barwait d a p c) := nofun
theorem Coded.bartest (d : BitVec 5) (a : BitVec 8) (p : BitVec 1) (c : BitVec 3) : Coded.Statement (.bartest d a p c) := nofun
theorem Coded.barrierPass (p : PartyRef) : Coded.Statement (.barrierPass p) := fun _ => .inl rfl
theorem Coded.cpy (f : BitVec 1) (d : BitVec 5) (b : BitVec 8) : Coded.Statement (.cpy f d b) := nofun
theorem Coded.cpyim (f : BitVec 1) (d : BitVec 5) (b : BitVec 8) : Coded.Statement (.cpyim f d b) := nofun
theorem Coded.cpygt (f : BitVec 1) (d : BitVec 5) (b : BitVec 8) : Coded.Statement (.cpygt f d b) := nofun
theorem Coded.bxeChunkComplete (copy chunk : Nat) : Coded.Statement (.bxeChunkComplete copy chunk) := fun _ => .inl rfl
theorem Coded.copyComplete (copy : Nat) : Coded.Statement (.copyComplete copy) := fun _ => .inl rfl
theorem Coded.chkw (d : BitVec 5) (b : BitVec 8) : Coded.Statement (.chkw d b) := nofun
theorem Coded.chkwT (d : BitVec 5) (a : BitVec 5) (b : BitVec 8) : Coded.Statement (.chkwT d a b) := nofun
theorem Coded.chkwPass (p : PartyRef) : Coded.Statement (.chkwPass p) := fun _ => .inl rfl
theorem Coded.csend (f : BitVec 1) (d : BitVec 7) : Coded.Statement (.csend f d) := nofun
theorem Coded.crecv (f : BitVec 1) (d : BitVec 7) : Coded.Statement (.crecv f d) := nofun
theorem Coded.csendComplete (op : Nat) : Coded.Statement (.csendComplete op) := fun _ => .inl rfl
theorem Coded.crecvComplete (op : Nat) (others : List (List Byte)) : Coded.Statement (.crecvComplete op others) := fun _ => .inl rfl
theorem Coded.ldw (f : BitVec 1) (s : BitVec 5) (c : BitVec 8) : Coded.Statement (.ldw f s c) := nofun
theorem Coded.ldwLatch (op : Nat) (latchErrors : BitVec 4) : Coded.Statement (.ldwLatch op latchErrors) := fun _ => .inl rfl
theorem Coded.mma (f : BitVec 1) (f2 : BitVec 4) (t : BitVec 3) (a : BitVec 7) (x : BitVec 1) : Coded.Statement (.mma f f2 t a x) := nofun
theorem Coded.mmaz (f : BitVec 1) (f2 : BitVec 4) (t : BitVec 3) (a : BitVec 7) (x : BitVec 1) : Coded.Statement (.mmaz f f2 t a x) := nofun
theorem Coded.mmaStep (op : Nat) : Coded.Statement (.mmaStep op) := fun _ => .inl rfl
theorem Coded.accrd (d : BitVec 7) (g : BitVec 3) (t : BitVec 3) (c : BitVec 5) : Coded.Statement (.accrd d g t c) := nofun
theorem Coded.accwr (d : BitVec 7) (g : BitVec 3) (t : BitVec 3) : Coded.Statement (.accwr d g t) := nofun
theorem Coded.accz (t : BitVec 3) : Coded.Statement (.accz t) := nofun
theorem Coded.acccvt (d : BitVec 7) (g : BitVec 3) (t : BitVec 3) (s : BitVec 1) (f : BitVec 4) : Coded.Statement (.acccvt d g t s f) := nofun
theorem Coded.accalloc (t : BitVec 3) : Coded.Statement (.accalloc t) := nofun
theorem Coded.accfree (t : BitVec 3) : Coded.Statement (.accfree t) := nofun
theorem Coded.hvld (f : BitVec 1) (h : BitVec 4) (p : BitVec 1) (s : BitVec 5) : Coded.Statement (.hvld f h p s) := nofun
theorem Coded.hvst (f : BitVec 1) (h : BitVec 4) (p : BitVec 1) (s : BitVec 5) : Coded.Statement (.hvst f h p s) := nofun
theorem Coded.hvxor (d : BitVec 4) (a : BitVec 4) (b : BitVec 4) : Coded.Statement (.hvxor d a b) := nofun
theorem Coded.hvmaj3 (d : BitVec 4) (a : BitVec 4) (c : BitVec 4) (b : BitVec 4) : Coded.Statement (.hvmaj3 d a c b) := nofun
theorem Coded.hvrotS (d : BitVec 4) (a : BitVec 4) (n : BitVec 5) : Coded.Statement (.hvrotS d a n) := nofun
theorem Coded.hvrotImm (d : BitVec 4) (a : BitVec 4) (n : BitVec 8) : Coded.Statement (.hvrotImm d a n) := nofun
theorem Coded.hvbun (d : BitVec 2) (a : BitVec 4) : Coded.Statement (.hvbun d a) := nofun
theorem Coded.hvbunSub (d : BitVec 2) (a : BitVec 4) : Coded.Statement (.hvbunSub d a) := nofun
theorem Coded.hvthr (d : BitVec 4) (a : BitVec 2) (t : BitVec 4) : Coded.Statement (.hvthr d a t) := nofun
theorem Coded.hvthrAlt (d : BitVec 4) (a : BitVec 2) : Coded.Statement (.hvthrAlt d a) := nofun
theorem Coded.hvclrb (d : BitVec 2) : Coded.Statement (.hvclrb d) := nofun
theorem Coded.hvdist (d : BitVec 5) (a : BitVec 4) (b : BitVec 4) : Coded.Statement (.hvdist d a b) := nofun
theorem Coded.hvpopc (d : BitVec 5) (a : BitVec 4) : Coded.Statement (.hvpopc d a) := nofun
theorem Coded.hvnear (f : BitVec 1) (p : BitVec 1) (d : BitVec 5) (a : BitVec 4) (b : BitVec 5) : Coded.Statement (.hvnear f p d a b) := nofun
theorem Coded.hvgen (d : BitVec 4) (c : BitVec 8) : Coded.Statement (.hvgen d c) := nofun
theorem Coded.hvget (d : BitVec 7) (a : BitVec 4) (i : BitVec 8) : Coded.Statement (.hvget d a i) := nofun
theorem Coded.hvset (d : BitVec 4) (a : BitVec 7) (i : BitVec 8) : Coded.Statement (.hvset d a i) := nofun
theorem Coded.hvuWordComplete (op : Nat) : Coded.Statement (.hvuWordComplete op) := fun _ => .inl rfl
theorem Coded.hvldComplete (op : Nat) : Coded.Statement (.hvldComplete op) := fun _ => .inl rfl
theorem Coded.hvnearComplete (op : Nat) : Coded.Statement (.hvnearComplete op) := fun _ => .inl rfl
theorem Coded.emit (f : BitVec 1) (p : BitVec 5) (c : BitVec 5) (j : BitVec 8) : Coded.Statement (.emit f p c j) := nofun
theorem Coded.eflush (f : BitVec 1) (j : BitVec 8) : Coded.Statement (.eflush f j) := nofun
theorem Coded.launch (f : BitVec 1) (r : BitVec 5) : Coded.Statement (.launch f r) := nofun
theorem Coded.signal (f : BitVec 1) (r : BitVec 5) : Coded.Statement (.signal f r) := nofun
theorem Coded.sysrd (d : BitVec 5) (x : BitVec 8) : Coded.Statement (.sysrd d x) := nofun
theorem Coded.modewMode (b : BitVec 8) : Coded.Statement (.modewMode b) := nofun
theorem Coded.moderMode (d : BitVec 5) : Coded.Statement (.moderMode d) := nofun
theorem Coded.modewFstat (b : BitVec 8) : Coded.Statement (.modewFstat b) := nofun
theorem Coded.moderFstat (d : BitVec 5) : Coded.Statement (.moderFstat d) := nofun
theorem Coded.trapinfo (d : BitVec 5) (a : BitVec 8) (b : BitVec 8) : Coded.Statement (.trapinfo d a b) := nofun
theorem Coded.fwd : Coded.Statement .fwd := nofun
theorem Coded.clauseStart (p : PartyRef) : Coded.Statement (.clauseStart p) := fun _ => .inl rfl
theorem Coded.operandFill (p : PartyRef) (reg : BitVec 7) : Coded.Statement (.operandFill p reg) := fun _ => .inl rfl
theorem Coded.poolGrant (core : Nat) : Coded.Statement (.poolGrant core) := fun _ => Coded.check _
theorem Coded.poolStallLimit (p : PartyRef) : Coded.Statement (.poolStallLimit p) := fun _ => .inl rfl
theorem Coded.poolDeadlock (core : Nat) : Coded.Statement (.poolDeadlock core) := fun _ => Coded.check _
theorem Coded.granulePassToL1 (core granule : Nat) : Coded.Statement (.granulePassToL1 core granule) := fun _ => Coded.check _
theorem Coded.pshareMoveComplete (p : PartyRef) : Coded.Statement (.pshareMoveComplete p) := fun _ => .inl rfl
theorem Coded.l1TimedWriteback (core sector : Nat) : Coded.Statement (.l1TimedWriteback core sector) := fun _ => Coded.check _
theorem Coded.combiningBufferTimeout (core quad line : Nat) : Coded.Statement (.combiningBufferTimeout core quad line) := fun _ => Coded.check _
theorem Coded.replicaPlacement (core sector : Nat) : Coded.Statement (.replicaPlacement core sector) := fun _ => Coded.check _
theorem Coded.replicaDrop (area sector : Nat) : Coded.Statement (.replicaDrop area sector) := fun _ => .inl rfl
theorem Coded.uncorrectableError (site : ErrorSite) : Coded.Statement (.uncorrectableError site) := fun _ => .inl rfl
theorem Coded.correctedError (unit : HwUnit) : Coded.Statement (.correctedError unit) := fun _ => .inl rfl
theorem Coded.unitRetirement (unit : HwUnit) : Coded.Statement (.unitRetirement unit) := fun _ => .inl rfl
theorem Coded.queueRecordTake (part : Nat) : Coded.Statement (.queueRecordTake part) := fun _ => Coded.check _
theorem Coded.daymarkCopyComplete (launch : Nat) : Coded.Statement (.daymarkCopyComplete launch) := fun _ => .inl rfl
theorem Coded.deviceLaunchAccept (op : Nat) : Coded.Statement (.deviceLaunchAccept op) := fun _ => .inl rfl
theorem Coded.teamAdmit (part : Nat) : Coded.Statement (.teamAdmit part) := fun _ => Coded.check _
theorem Coded.teamResume (part : Nat) : Coded.Statement (.teamResume part) := fun _ => Coded.check _
theorem Coded.teamRetire (ctx : Nat) : Coded.Statement (.teamRetire ctx) := fun _ => .inl rfl
theorem Coded.launchComplete (launch : Nat) : Coded.Statement (.launchComplete launch) := fun _ => .inl rfl
theorem Coded.emitAccept (op : Nat) : Coded.Statement (.emitAccept op) := fun _ => .inl rfl
theorem Coded.eflushAccept (op : Nat) : Coded.Statement (.eflushAccept op) := fun _ => .inl rfl
theorem Coded.timeSlice (ctx : Nat) : Coded.Statement (.timeSlice ctx) := fun _ => .inl rfl
theorem Coded.preemptForRoom (part : Nat) : Coded.Statement (.preemptForRoom part) := fun _ => Coded.check _
theorem Coded.placementAging (part : Nat) : Coded.Statement (.placementAging part) := fun _ => Coded.check _
theorem Coded.keeperSave (ctx : Nat) : Coded.Statement (.keeperSave ctx) := fun _ => .inl rfl
theorem Coded.preemptHardStop (ctx : Nat) : Coded.Statement (.preemptHardStop ctx) := fun _ => .inl rfl
theorem Coded.partyActivate (core quad : Nat) : Coded.Statement (.partyActivate core quad) := fun _ => Coded.check _
theorem Coded.starvation (core quad : Nat) : Coded.Statement (.starvation core quad) := fun _ => Coded.check _
theorem Coded.energyTick : Coded.Statement .energyTick := fun _ => .inl rfl
theorem Coded.powerSample (watts celsius : Nat) : Coded.Statement (.powerSample watts celsius) := fun _ => .inl rfl
theorem Coded.clockStepUp : Coded.Statement .clockStepUp := fun _ => .inl rfl
theorem Coded.capIsolatedDanger : Coded.Statement .capIsolatedDanger := fun _ => .inl rfl
theorem Coded.resumeToken (tf : BitVec 8) (token : Word) : Coded.Statement (.resumeToken tf token) := fun _ => .inl rfl
theorem Coded.resumeAll (tf : BitVec 8) : Coded.Statement (.resumeAll tf) := fun _ => .inl rfl
theorem Coded.invcmdRange (tf : BitVec 8) (v : DWord) : Coded.Statement (.invcmdRange tf v) := fun _ => .inl rfl
theorem Coded.invcmdAsid (tf : BitVec 8) (v : DWord) : Coded.Statement (.invcmdAsid tf v) := fun _ => .inl rfl
theorem Coded.invcmdIgnored (tf : BitVec 8) (v : DWord) : Coded.Statement (.invcmdIgnored tf v) := fun _ => .inl rfl
theorem Coded.invalidationComplete (tf : BitVec 8) : Coded.Statement (.invalidationComplete tf) := fun _ => .inl rfl
theorem Coded.faultQueueEnable (tf : BitVec 8) (v : DWord) : Coded.Statement (.faultQueueEnable tf v) := fun _ => .inl rfl
theorem Coded.faultQueueDisable (tf : BitVec 8) (v : DWord) : Coded.Statement (.faultQueueDisable tf v) := fun _ => .inl rfl
theorem Coded.fqconsWrite (tf : BitVec 8) (v : DWord) : Coded.Statement (.fqconsWrite tf v) := fun _ => .inl rfl
theorem Coded.codeLoad (tf : BitVec 8) (slot : BitVec 7) (v : DWord) : Coded.Statement (.codeLoad tf slot v) := fun _ => .inl rfl
theorem Coded.codeLoadVerify (tf : BitVec 8) (slot : BitVec 7) : Coded.Statement (.codeLoadVerify tf slot) := fun _ => .inl rfl
theorem Coded.codeUnload (tf : BitVec 8) (slot : BitVec 7) (v : DWord) : Coded.Statement (.codeUnload tf slot v) := fun _ => .inl rfl
theorem Coded.codeUnloadForce (tf : BitVec 8) (slot : BitVec 7) (v : DWord) : Coded.Statement (.codeUnloadForce tf slot v) := fun _ => .inl rfl
theorem Coded.codeCmdIgnored (tf : BitVec 8) (slot : BitVec 7) (v : DWord) : Coded.Statement (.codeCmdIgnored tf slot v) := fun _ => .inl rfl
theorem Coded.codePageVerify (tf : BitVec 8) (slot : BitVec 7) (page : Nat) : Coded.Statement (.codePageVerify tf slot page) := fun _ => .inl rfl
theorem Coded.codeObjectEmpty (tf : BitVec 8) (slot : BitVec 7) : Coded.Statement (.codeObjectEmpty tf slot) := fun _ => .inl rfl
theorem Coded.ttctlWrite (tf : BitVec 8) (v : DWord) : Coded.Statement (.ttctlWrite tf v) := fun _ => .inl rfl
theorem Coded.ttrootWrite (tf : BitVec 8) (v : DWord) : Coded.Statement (.ttrootWrite tf v) := fun _ => .inl rfl
theorem Coded.tfPartWrite (tf : BitVec 8) (v : DWord) : Coded.Statement (.tfPartWrite tf v) := fun _ => .inl rfl
theorem Coded.daymarkKeyWrite (tf : BitVec 8) (half : Bool) (v : DWord) : Coded.Statement (.daymarkKeyWrite tf half v) := fun _ => .inl rfl
theorem Coded.queueEnable (q : BitVec 12) (v : DWord) : Coded.Statement (.queueEnable q v) := fun _ => .inl rfl
theorem Coded.queueDisable (q : BitVec 12) (v : DWord) : Coded.Statement (.queueDisable q v) := fun _ => .inl rfl
theorem Coded.partitionChange (v : DWord) : Coded.Statement (.partitionChange v) := fun _ => .inl rfl
theorem Coded.partitionChangeComplete : Coded.Statement .partitionChangeComplete := fun _ => .inl rfl
theorem Coded.collectiveSlotRelease (slot : BitVec 12) (v : DWord) : Coded.Statement (.collectiveSlotRelease slot v) := fun _ => .inl rfl
theorem Coded.attestationRequest (v : DWord) : Coded.Statement (.attestationRequest v) := fun _ => .inl rfl
theorem Coded.attestationComplete : Coded.Statement .attestationComplete := fun _ => .inl rfl
theorem Coded.serviceRegisterWrite (offset : Nat) (v : DWord) : Coded.Statement (.serviceRegisterWrite offset v) := fun _ => .inl rfl
theorem Coded.rdmaWrite (r : RdmaRequest) (rkey : Word) (va : DWord) (data : List Byte) : Coded.Statement (.rdmaWrite r rkey va data) := fun _ => Coded.check _
theorem Coded.rdmaWriteWithImmediate (r : RdmaRequest) (rkey : Word) (va : DWord) (data : List Byte) (imm : Word) : Coded.Statement (.rdmaWriteWithImmediate r rkey va data imm) := fun _ => Coded.check _
theorem Coded.rdmaRead (r : RdmaRequest) (rkey : Word) (va : DWord) (len : Nat) : Coded.Statement (.rdmaRead r rkey va len) := fun _ => Coded.check _
theorem Coded.send (r : RdmaRequest) (payload : List Byte) : Coded.Statement (.send r payload) := fun _ => Coded.check _
theorem Coded.invalidRequest (qp : Nat) : Coded.Statement (.invalidRequest qp) := fun _ => Coded.check _
theorem Coded.roceRetransmission (qp : Nat) (what : RoceSignal) : Coded.Statement (.roceRetransmission qp what) := fun _ => Coded.check _
theorem Coded.peerAccess (dev : BitVec 20) (acc : PeerOp) : Coded.Statement (.peerAccess dev acc) := fun _ => .inl rfl
theorem Coded.flitData (port : Nat) (flit : List Byte) : Coded.Statement (.flitData port flit) := fun _ => Coded.check _
theorem Coded.flitAcknowledgement (port : Nat) (flit : List Byte) : Coded.Statement (.flitAcknowledgement port flit) := fun _ => Coded.check _
theorem Coded.flitReplayRequest (port : Nat) (flit : List Byte) (eccOk : Bool) : Coded.Statement (.flitReplayRequest port flit eccOk) := fun _ => Coded.check _
theorem Coded.flitIdle (port : Nat) (flit : List Byte) : Coded.Statement (.flitIdle port flit) := fun _ => Coded.check _
theorem Coded.replayRequestRepeat (port : Nat) : Coded.Statement (.replayRequestRepeat port) := fun _ => Coded.check _
theorem Coded.powerUpReset (report : PowerUpReport) : Coded.Statement (.powerUpReset report) := fun _ => .inl rfl
theorem Coded.mgmtStatus : Coded.Statement .mgmtStatus := fun _ => .inl rfl
theorem Coded.mgmtLog (offset : Nat) : Coded.Statement (.mgmtLog offset) := fun _ => .inl rfl
theorem Coded.mgmtImageBlock (offset : Nat) (bytes : List Byte) : Coded.Statement (.mgmtImageBlock offset bytes) := fun _ => .inl rfl
theorem Coded.mgmtImageCommit : Coded.Statement .mgmtImageCommit := fun _ => .inl rfl
theorem Coded.mgmtOtherDatagram (bytes : List Byte) : Coded.Statement (.mgmtOtherDatagram bytes) := fun _ => .inl rfl
theorem Coded.illegalInstruction (word : Word) : Coded.Statement (.illegalInstruction word) := fun _ => .inl rfl
theorem Coded.linkTraining (port : Nat) (up : Bool) : Coded.Statement (.linkTraining port up) := fun _ => Coded.check _

end Sys2Proof.Laws
end

