-- ==== Sys2Proof/Tests/Slice0.lean ====
section
/-!
SUPPORT. Small tests: ill-formed terms that the checks refuse, words written out from the spec's encodings, single steps
with results taken from the spec, and for each statement states that meet its hypotheses.
-/

namespace Sys2Proof.Tests

set_option Elab.async false
set_option maxRecDepth 100000

open Machine

/-! ## Ill-formed terms (R213 to R225) -/

theorem test_refused_selectors :
    wfError (.sadd 1 0 0x12 0) = some .reservedSelector ∧ wfError (.sadd 0 0 0xC0 0xF1) = some .reservedSelector ∧
    wfError (.smov 0 0 0x7F) = some .reservedSelector ∧ wfError (.sli 0 0xF2 0) = some .reservedSelector ∧
    wfError (.mand 0 0xC0 0x10) = some .reservedSelector ∧ wfError (.vadd 0 0 0 0xF2) = some .reservedSelector ∧
    wfError (.vcmp 0 0 0 0 0xFF) = some .reservedSelector ∧ wfError (.vfadd 0 0 0xF5) = some .reservedSelector ∧
    wfError (.vfcmp 0 0 0 0xF2) = some .reservedSelector ∧ wfError (.vbcast 0 0 0 0xE1) = some .reservedSelector ∧
    wfError (.barinit 0 0x05 0 1) = some .reservedSelector := by decide +kernel

theorem test_refused_codes :
    wfError (.vcmp 1 6 0 0 0) = some .reservedCode ∧ wfError (.vfcmp 7 0 0 0) = some .reservedCode ∧
    wfError (.vcvt 0 0 0 10 0) = some .reservedCode ∧ wfError (.vcvt 0 0 0 5 0) = some .reservedCode ∧
    wfError (.vpack 0 0 0 0) = some .reservedCode ∧ wfError (.vpack 2 0 0 1) = some .reservedCode ∧
    wfError (.vred 0 0 11) = some .reservedCode ∧ wfError (.prefixWord 0 0 7 0 0 0) = some .reservedCode ∧
    wfError (.prefixWord 0 0 0 0 5 0) = some .reservedCode ∧ wfError (.atomc 0 3 0 0 0) = some .reservedCode ∧
    wfError (.fence 0 6) = some .reservedCode ∧ wfError (.pquery 0 8) = some .reservedCode ∧
    wfError (.barinit 0 0xC0 0 0) = some .reservedCode ∧ wfError (.barinit 0 0xC0 1 2) = some .reservedCode ∧
    wfError (.mma 0 0 0 0 0) = some .reservedCode ∧ wfError (.mma 0 5 0 0 0) = some .reservedCode ∧
    wfError (.acccvt 0 0 0 0 5) = some .reservedCode ∧ wfError (.emit 0 0 0 64) = some .reservedCode ∧
    wfError (.sysrd 0 14) = some .reservedCode := by decide +kernel

theorem test_refused_runs :
    wfError (.vdead 127 1) = some .runPastV127 ∧ wfError (.vredmi 127 0) = some .runPastV127 ∧
    wfError (.vredmiScalar 31 0) = some .runPastS31 ∧ wfError (.ld 0 3 127 0 0 0 0) = some .runPastV127 ∧
    wfError (.atomAdd 0 1 127 0 0) = some .runPastV127 ∧ wfError (.atomc 0 1 123 0 0) = some .runPastV127 ∧
    wfError (.mma 0 8 0 113 0) = some .runPastV127 ∧ wfError (.mma 0 3 0 112 1) = some .runPastV127 ∧
    wfError (.accrd 113 0 0 0) = some .runPastV127 ∧ wfError (.acccvt 125 0 0 0 3) = some .runPastV127 ∧
    wfError (.hvnear 0 0 31 0 0) = some .runPastS31 ∧ wfError (.hvnear 0 0 0 0 31) = some .runPastS31 := by decide +kernel

theorem test_refused_fields :
    wfError (.prefixWord 0 0 0 0 4 1) = some .fixedField ∧ wfError (.csend 0 32) = some .fixedField ∧
    wfError (.poolGrant 512) = some .fixedField ∧ wfError (.granulePassToL1 0 256) = some .fixedField ∧
    wfError (.combiningBufferTimeout 0 4 0) = some .fixedField ∧ wfError (.queueRecordTake 4) = some .fixedField ∧
    wfError (.rdmaWrite ⟨8192, 0⟩ 0 0 []) = some .fixedField ∧ wfError (.flitData 0 []) = some .fixedField ∧
    wfError (.replayRequestRepeat 24) = some .fixedField := by decide +kernel

/-- Why the decoder refuses a word. -/
noncomputable def refusal (w : Word) : Option DecodeError :=
  match decodeWord w with
  | .error e => some e
  | .ok _ => none

/-- Opcode 0x1B is unassigned; a of SADD is 0x00; FENCE's scope is 6; VREDMI's pair begins at v127. -/
theorem test_refused_words :
    refusal 0x36000000 = some .unassignedOpcode ∧ refusal 0x20000000 = some .reservedSelector ∧
    refusal 0xCC0C0000 = some .reservedCode ∧ refusal 0xB03F83F0 = some .runPastV127 := by decide +kernel

/-! ## Words of the spec's encodings (Tables 08-5, 08-15), and the worked examples that write them -/

theorem test_words_control :
    decodeTableWord 32 0x1046000C = some (.split 2 3 12) ∧ decodeTableWord 32 0x12400000 = some (.join 2) ∧
    decodeTableWord 32 0x0E3FFFFC = some (.loop 1 (-4)) := by decide +kernel

theorem test_words_scalar_mask :
    decodeTableWord 32 0x3002F081 = some (.smov 0 2 0x81) ∧ decodeTableWord 32 0x2002C2C1 = some (.sadd 0 2 0xC2 0xC1) ∧
    decodeTableWord 32 0x4021E1E2 = some (.mor 1 0xE1 0xE2) ∧ decodeTableWord 32 0x4802F0C1 = some (.mlane 0 2 0xC1) := by decide +kernel

theorem test_words_vector :
    decodeTableWord 32 0xB00303F0 = some (.vredmi 6 3) ∧ decodeTableWord 32 0xB3040300 = some (.vscan 8 3 0) ∧
    decodeTableWord 32 0xFE041043 = some (.prefixWord 0 0 2 8 1 3) := by decide +kernel

theorem test_words_memory :
    decodeTableWord 32 0xC7028218 = some (.atomAdd 1 0 5 2 3) ∧ decodeTableWord 32 0xCC080000 = some (.fence 0 4) ∧
    decodeTableWord 32 0xCC840000 = some (.fence 2 2) ∧ decodeTableWord 32 0xC2CA1830 = some (.stp 0 3 20 24 6 0 0) := by decide +kernel

theorem test_words_engines :
    decodeTableWord 32 0xD00200F0 = some (.cpy 0 4 0xF0) ∧ decodeTableWord 32 0xD2030087 = some (.chkw 6 0x87) ∧
    decodeTableWord 32 0xCF89C809 = some (.barinit 9 0xC8 1 1) ∧ decodeTableWord 32 0xCFA0C809 = some (.bararr 0xC8 1 1) ∧
    decodeTableWord 32 0xE0000000 = some (.accalloc 0) ∧ decodeTableWord 32 0xEE0182F1 = some (.hvget 3 2 0xF1) := by decide +kernel

theorem test_words_system :
    decodeTableWord 32 0xF0020500 = some (.emit 0 4 5 0) ∧ decodeTableWord 32 0xF0400000 = some (.eflush 0 0) ∧
    decodeTableWord 32 0xF3030000 = some (.launch 1 6) ∧ decodeTableWord 32 0xF2430000 = some (.signal 0 6) ∧
    decodeTableWord 32 0xF503F007 = some (.sysrd 3 7) ∧ decodeTableWord 32 0xF600F083 = some (.modewMode 0x83) ∧
    decodeTableWord 32 0xF622F0F0 = some (.moderMode 2) := by decide +kernel

/-! ## A small machine: one team of one group of 16 lanes, in a clause of one word -/

/-- A clause of some words at address 0, at its first word; SETA is f0 and SETB f1. -/
def clauseOf (words : List Word) : Clause :=
  { addr := 0, hdr := BitVec.ofNat 32 (words.length * 2 ^ 28 + 2 ^ 5), words := words, idx := 1, pre := none, mode := 0 }

def main : PartyRef := { ctx := 0, grp := 0, frag := none }

/-- Code object of one verified page, under MM2. -/
def object : CodeObject :=
  { mmrev := 2, codeOff := 0, codeSize := 65536, hashes := [], safe := [], roles := [], consts := [], verified := [0],
    hash := none }

/-- Three granules: one of frame, two shared. -/
def team : Team :=
  { wordTeam with
    granules := [.inPool 20, .inPool 21, .inPool 22], accAt := 1, stagingAt := 1, sharedAt := 1
    acc := [{ alloc := true, count := 0, elems := [] }] }

/-- LFLAGS.GRAPH, NACC 1, SHMAX 100, STALL 16, NSUCC 2. -/
def launch : Launch :=
  { Launch.reset with
    bytes := (List.range 512).map fun i => if i = 6 then 1 else if i = 2 then 0x20 else if i = 0x24 then 100 else if i = 0x28 then 16 else if i = 0x62 then 2 else 0
    succ := [0x1000, 0x2000] }

/-- The first 64 KiB of tenant memory translate to themselves, with every permission. -/
def held : HeldTrans :=
  { core := 0, asid := 0, base := 0, size := 65536, pa := 0, r := true, w := true, x := true, d := true, cl := 0, wp := 0, ev := 0 }

def boxWith (c : Clause) : State :=
  let s := State.reset.withWord 0
  { s with
    teams := [team]
    launches := [launch]
    tfs := put s.tfs 0 ((s.tf 0).mapSlot 0 fun _ => { wordSlot with object := some object })
    groups := [{ wordGroup 0 with main := { wordParty 0 with clause := some c } }]
    poolMap := [((0, 20), { ctx := 0, wg := 0, region := .frame, shared := false, retired := false, dirty := false, parked := none }),
      ((0, 21), { ctx := 0, wg := 1, region := .shared, shared := false, retired := false, dirty := false, parked := none }),
      ((0, 22), { ctx := 0, wg := 2, region := .shared, shared := false, retired := false, dirty := false, parked := none })]
    side := { s.side with tlb := [held] } }

/-- A NOP is the clause's word. -/
def box : State := boxWith (clauseOf [0x18000000])

/-- With scalar registers set. -/
def boxS (l : List (Nat × DWord)) : State :=
  box.mapCur fun g => { g with s := l.foldl (fun s x => s.set x.1 x.2) g.s }

/-- The same, with the lanes l of some vector registers at f(l). -/
def boxV (l : List (Nat × (Nat → Word))) : State :=
  box.mapCur fun g => { g with v := l.foldl (fun v x => v.set x.1 (.raw ((List.range 16).map x.2))) g.v }

/-- A computation that ends well with a value and a state that pass a check. -/
def okB {α} (r : EStateM.Result Stop State α) (p : α → State → Bool) : Bool :=
  match r with
  | .ok v t => p v t
  | .error _ _ => false

theorem ok_of {α} {r : EStateM.Result Stop State α} {p : α → State → Bool} (h : okB r p = true) :
    ∃ v t, r = .ok v t ∧ p v t = true := by
  cases r with
  | ok v t => exact ⟨v, t, rfl, h⟩
  | error _ _ => exact Bool.noConfusion h

/-- A computation that ends at a missing page, with a record and a state that pass a check. -/
def missB {α} (r : EStateM.Result Stop State α) (p : FaultInfo → State → Bool) : Bool :=
  match r with
  | .error (.miss x) t => p x t
  | _ => false

theorem miss_of {α} {r : EStateM.Result Stop State α} {p : FaultInfo → State → Bool} (h : missB r p = true) :
    ∃ x t, r = .error (.miss x) t ∧ p x t = true := by
  cases r with
  | ok _ _ => exact Bool.noConfusion h
  | error e t => cases e <;> first | exact Bool.noConfusion h | exact ⟨_, _, rfl, h⟩

/-- A computation that ends in a fault. -/
def faultB {α} (r : EStateM.Result Stop State α) : Bool :=
  match r with
  | .error (.fault _) _ => true
  | _ => false

theorem fault_of {α} {r : EStateM.Result Stop State α} (h : faultB r = true) : ∃ x t, r = .error (.fault x) t := by
  cases r with
  | ok _ _ => exact Bool.noConfusion h
  | error e t => cases e <;> first | exact Bool.noConfusion h | exact ⟨_, _, rfl⟩

/-- The decoder reads a word as an instruction. -/
noncomputable def reads (w : Word) (i : Instr) : Bool :=
  match decodeWord w with
  | .ok j => decide (j = i)
  | .error _ => false

theorem decode_of {w : Word} {i : Instr} (h : reads w i = true) : decodeWord w = .ok i := by
  unfold reads at h
  generalize decodeWord w = r at h
  cases r with
  | ok j => exact congrArg Except.ok (of_decide_eq_true h)
  | error _ => cases h

/-- The flag can count one more, as a Bool. -/
def room (t : State) (f : BitVec 1) : Bool :=
  match t.flagOf f with
  | some n => decide (t.curGroup.flags.getD n 0 < 63)
  | none => true

theorem flagRoom_of {t : State} {f : BitVec 1} (h : room t f = true) : t.flagRoom f := by
  intro n hn
  rw [room, hn] at h
  exact of_decide_eq_true h

/-! ## The hypotheses of each statement can be met -/

theorem box_running : box.running := by unfold State.running; decide +kernel

theorem witness_DecodeAfterEncode : ∃ i w, WellFormed i ∧ encode i = some w :=
  ⟨.sadd 0 2 0xC2 0xC1, 0x2002C2C1, by unfold WellFormed; decide +kernel, by decide +kernel⟩

theorem witness_EncodeAfterDecode : ∃ w i, decodeWord w = .ok i := ⟨0x2002C2C1, _, decode_of (i := .sadd 0 2 0xC2 0xC1) (by decide +kernel)⟩

/-- The main side and a fragment stand at headers outside the code section, with a handler. -/
def boxStarts : State := box.mapCur fun g =>
  let p : Party := { g.main with pc := 0xFFFFF000, clause := none, active := false }
  { g with
    handler := 0, main := p, m := g.m.set 0 0xFF, tokens := 1
    frags := g.frags.set 0 { Frag.empty with v := true, mask := 0xFF00, party := p } }

theorem witness_StepRunsDecoded :
    (∃ (s : State) (p : PartyRef) (rest : List Agenda) (c : Clause) (i : Instr), s.agenda = .issue p :: rest ∧
      let t : State := { s.passStep with agenda := rest }
      let u : State := { t with cur := p }
      t.mayIssue p = true ∧ (t.partyOf p).clause = some c ∧ u.issueCheck c c.curWord = .go ∧ decodeWord c.curWord = .ok i) ∧
    (∃ (s : State) (i : Instr) (rest : List Agenda), s.agenda = .event i :: rest ∧ ∀ p, i ≠ .clauseStart p) ∧
    ∃ (s : State) (p : PartyRef) (rest : List Agenda), s.agenda = .event (.clauseStart p) :: rest ∧
      let t : State := { s.passStep with agenda := rest }
      (t.startTraps p && t.trapsBefore p) = true :=
  ⟨⟨{ box with agenda := [.issue main] }, main, [], clauseOf [0x18000000], .nop, rfl, by decide +kernel, by decide +kernel,
      by decide +kernel, decode_of (by decide +kernel)⟩,
    ⟨{ box with agenda := [.event .energyTick] }, _, _, rfl, nofun⟩,
    { boxStarts with agenda := [.event (.clauseStart { main with frag := some 0 })] }, _, _, rfl, by decide +kernel⟩

/-- A scalar word in a vector clause, a prefix as its clause's last word with every reserved field set, and an opcode
that is not assigned. -/
theorem witness_RefusedWordsTrap : admitted (clauseOf [0x50000000]) 0x50000000 = false ∧
    (admitted (clauseOf [0xFFFFFFFF]) 0xFFFFFFFF = true ∧ prefixable (clauseOf [0xFFFFFFFF]) = false) ∧
    misplaced (clauseOf [0x36000000]) 0x36000000 = none ∧ refusal 0x36000000 = some .unassignedOpcode := by decide +kernel

theorem witness_IssueFrame : box.curGroup.ending = false := by decide +kernel

theorem witness_IssueAdvances :
    (∃ (s : State) (c : Clause), s.running ∧ s.curParty.clause = some c ∧ c.idx < (c.hdr.extractLsb' 28 4).toNat) ∧
    ∃ (s : State) (c : Clause), s.running ∧ s.curParty.clause = some c ∧ (c.hdr.extractLsb' 28 4).toNat ≤ c.idx :=
  ⟨⟨boxWith (clauseOf [0x18000000, 0x18000000]), _, by unfold State.running; decide +kernel, rfl, by decide +kernel⟩,
    box, _, box_running, rfl, by decide +kernel⟩

theorem reset_inv : State.reset.Inv := by
  unfold State.Inv State.MemWf State.Shape
  exact ⟨⟨by decide +kernel, fun t h => nomatch h⟩, fun g h => nomatch h⟩

theorem box_inv : box.Inv := by
  unfold State.Inv State.MemWf State.Shape Group.Shape
  decide +kernel

theorem witness_StepKeepsInv : ∃ s t : State, s.Inv ∧ step s = .next t :=
  ⟨{ box with agenda := [.event .energyTick] }, _, by
    have h := box_inv
    unfold State.Inv State.MemWf State.Shape at h ⊢
    exact h, rfl⟩

theorem witness_MemoryLaws : Memory.wf [(0, 1)] = true ∧ Memory.wf (Memory.set [(0, 1)] (2 ^ 38) 5) = true := by decide +kernel

/-- A handler at word 16. -/
def boxH : State := box.mapCur fun g => { g with handler := 16 }

/-- The handler runs, in the main side. -/
def boxT : State := boxH.mapCur fun g => { g with trap := { g.trap with hb := true, clause := some (clauseOf [0x18000000]) } }

theorem witness_TrapEntry : ∃ (s : State) (c : Clause), s.running ∧ s.curParty.clause = some c ∧ s.curGroup.trap.hb = false ∧
    s.curGroup.handler ≠ 0xFFFFFFFF :=
  ⟨boxH, _, by unfold State.running; decide +kernel, rfl, by decide +kernel, by decide +kernel⟩

theorem witness_TrapOtherwise :
    (∃ s : State, s.curGroup.trap.hb = true ∧ s.curGroup.trap.owner ≠ s.cur.frag) ∧
    (∃ s : State, s.curGroup.trap.hb = true ∧ s.curGroup.trap.owner = s.cur.frag) ∧
    ∃ s : State, s.curGroup.trap.hb = false ∧ s.curGroup.handler = 0xFFFFFFFF :=
  ⟨⟨{ boxT with cur := { main with frag := some 0 } }, by decide +kernel⟩, ⟨boxT, by decide +kernel⟩, box, by decide +kernel⟩

theorem boxT_running : boxT.running := by unfold State.running; decide +kernel

/-- The handler runs, of the clause of one word, with the return point 4, at its end; at 0 it is no word of the
clause. -/
def boxTr (ret : DWord) : State := boxT.mapCur fun g => { g with trap := { g.trap with words := [0, 0, ret, 0xFFFF, 0, 0, 0, 0] } }

/-- The handler runs, of a clause whose header trapped, and returns to its one word, in memory. -/
def boxTe : State :=
  let s := (boxTr 4).mapCur fun g => { g with trap := { g.trap with clause := some { clauseOf [0x18000000] with words := [], idx := 0 } } }
  { s with side := { s.side with mem := [(0, 0x20), (3, 0x10), (7, 0x18)] } }

theorem witness_SoftwareTrapsAndEret :
    (∃ (s : State) (c : Clause), s.curParty.clause = some c) ∧
    (∃ (s : State) (c : Clause), s.curParty.clause = some c ∧ s.running ∧ s.curGroup.trap.hb = false ∧ s.curGroup.handler ≠ 0xFFFFFFFF) ∧
    (∃ s : State, s.running ∧ s.curGroup.trap.hb = true ∧ s.curGroup.trap.owner = s.cur.frag ∧
      s.inCode (s.curGroup.trap.words.getD 2 0) ∧ (∃ c, s.curGroup.trap.clause = some c ∧ c.words ≠ []) ∧
      ∀ t < 16, s.curGroup.tokenLive t = false) ∧
    (∃ (s w u : State) (rs : List SerialRec), s.running ∧ s.curGroup.trap.hb = true ∧ s.curGroup.trap.owner = s.cur.frag ∧
      s.inCode (s.curGroup.trap.words.getD 2 0) ∧ fetchTrapped s = .ok () w ∧ ownSerials w = .ok rs u ∧
      w.curGroup.trap.clause = some { clauseOf [0x18000000] with idx := 0 }) ∧
    (∀ x ∈ [((4 : DWord), true), (0, false), (8, false)], ∃ (s : State) (c : Clause), s.running ∧ s.curGroup.m.length = 16 ∧
      s.curGroup.trap.clause = some c ∧ s.curGroup.trap.words.getD 2 0 = x.1 ∧
      (decide (0 < (x.1 - c.addr).toNat ∧ (x.1 - c.addr).toNat % 4 = 0 ∧ (x.1 - c.addr).toNat / 4 ≤ (c.hdr.extractLsb' 28 4).toNat)) = x.2) ∧
    (∃ s : State, s.curGroup.trap.hb = false) ∧ (∃ s : State, s.curGroup.trap.owner ≠ s.cur.frag) ∧
    ∃ s : State, ¬ s.inCode (s.curGroup.trap.words.getD 2 0) := by
  obtain ⟨_, w, hw, hp⟩ := ok_of (r := fetchTrapped boxTe)
    (p := fun _ w => decide (w.curGroup.trap.clause = some { clauseOf [0x18000000] with idx := 0 }) &&
      okB (ownSerials w) fun _ _ => true) (by decide +kernel)
  simp only [Bool.and_eq_true, decide_eq_true_eq] at hp
  obtain ⟨rs, u, h, -⟩ := ok_of hp.2
  have hb : ∀ x ∈ [((4 : DWord), true), (0, false), (8, false)],
      (boxTr x.1).hasGroup 0 0 = true ∧ (boxTr x.1).curGroup.live none = true ∧ (boxTr x.1).curGroup.ending = false ∧
      (boxTr x.1).cur = main ∧ (boxTr x.1).curGroup.m.length = 16 ∧
      (boxTr x.1).curGroup.trap.clause = some (clauseOf [0x18000000]) ∧ (boxTr x.1).curGroup.trap.words.getD 2 0 = x.1 ∧
      (decide (0 < (x.1 - 0).toNat ∧ (x.1 - 0).toNat % 4 = 0 ∧
        (x.1 - 0).toNat / 4 ≤ ((clauseOf [0x18000000]).hdr.extractLsb' 28 4).toNat)) = x.2 := by
    intro x hx
    simp only [List.mem_cons, List.not_mem_nil, or_false] at hx
    rcases hx with rfl | rfl | rfl <;> decide +kernel
  refine ⟨⟨box, clauseOf [0x18000000], by decide +kernel⟩,
    ⟨boxH, clauseOf [0x18000000], by decide +kernel, by unfold State.running; decide +kernel, by decide +kernel, by decide +kernel⟩,
    ⟨boxT, boxT_running, by decide +kernel, by decide +kernel, ?_, ⟨_, rfl, by decide +kernel⟩, by decide +kernel⟩,
    ⟨boxTe, w, u, rs, by unfold State.running; decide +kernel, by decide +kernel, by decide +kernel, ?_, hw, h, hp.1⟩,
    fun x hx => ?_, ⟨box, by decide +kernel⟩, ⟨{ boxT with cur := { main with frag := some 0 } }, by decide +kernel⟩,
    boxTr 65536, ?_⟩
  · unfold State.inCode; decide +kernel
  · unfold State.inCode; decide +kernel
  · obtain ⟨h1, h2, h3, h4, h5, h6, h7, h8⟩ := hb x hx
    exact ⟨boxTr x.1, _, ⟨by rw [h4]; exact h1, by rw [h4]; exact h2, h3⟩, h5, h6, h7, h8⟩
  · unfold State.inCode; decide +kernel

/-- The selector classes of Form S at their ends, and the corners of division. -/
theorem witness_ScalarWords :
    (∃ (i : Instr) (s : State) (d : BitVec 5) (v : DWord), scalarTable s i = some (d, v)) ∧
    (∃ n : BitVec 8, 0x80 ≤ n.toNat ∧ n.toNat < 0xC0) ∧ (∃ n : BitVec 8, 0xC0 ≤ n.toNat ∧ n.toNat < 0xE0) ∧
    (∃ n : BitVec 8, n = 0xE0) ∧ (∃ n : BitVec 8, 0xE1 ≤ n.toNat ∧ n.toNat < 0xF0) ∧ ∃ n : BitVec 8, n = 0xF0 :=
  ⟨⟨.sdiv 0 31 0xC3 0xC4, boxS [(3, 7)], _, _, rfl⟩, ⟨0xBF, by decide⟩, ⟨0xDF, by decide⟩, ⟨0xE0, rfl⟩, ⟨0xEF, by decide⟩, 0xF0, rfl⟩

theorem witness_ScalarFrame :
    (∃ (i : Instr) (s : State) (d : BitVec 5) (v : DWord), s.running ∧ s.curGroup.s.length = 32 ∧ scalarTable s i = some (d, v)) ∧
    (∃ (i : Instr) (s : State) (d : BitVec 5) (v : DWord), s.running ∧ s.curGroup.s.length = 32 ∧ maskScalarTable s i = some (d, v)) ∧
    ∃ (i : Instr) (s : State) (d : BitVec 4) (v : DWord), s.running ∧ maskTable s i = some (d, v) ∧ d ≠ 0 :=
  ⟨⟨.sadd 0 31 0xC0 0xC1, box, _, _, box_running, by decide +kernel, rfl⟩,
    ⟨.mpopc 31 0, box, _, _, box_running, by decide +kernel, rfl⟩,
    .mand 15 0xE0 0xE1, box, _, _, box_running, rfl, by decide⟩

theorem witness_MaskWords :
    (∃ (i : Instr) (s : State) (d : BitVec 4) (v : DWord), maskTable s i = some (d, v) ∧ d ≠ 0) ∧
    (∃ (i : Instr) (s t : State) (v : DWord) (rs : List SerialRec), maskTable s i = some (0, v) ∧ ownSerials s = .ok rs t) ∧
    ∃ (i : Instr) (s : State) (d : BitVec 5) (v : DWord), maskScalarTable s i = some (d, v) := by
  obtain ⟨rs, u, h, -⟩ := ok_of (r := ownSerials box) (p := fun _ _ => true) (by decide +kernel)
  exact ⟨⟨.mand 1 0xE0 0xE1, box, _, _, rfl, by decide⟩, ⟨.mor 0 0xE0 0xE1, box, u, _, rs, rfl, h⟩, .mffs 0 15, box, _, _, rfl⟩

/-- JMPI to the last word of the code section, and past it; BRC not taken, to a target outside. -/
theorem witness_Transfers :
    (∃ (i : Instr) (s t : State) (a : DWord), transferTable s i = some (t, some a) ∧ s.inCode a) ∧
    (∃ (i : Instr) (s t : State), transferTable s i = some (t, none)) ∧
    ∃ (i : Instr) (s t : State) (a : DWord), transferTable s i = some (t, some a) ∧ ¬ s.inCode a :=
  ⟨⟨.jmpi 3, boxS [(3, 65532)], _, _, rfl, by unfold State.inCode; decide +kernel⟩,
    ⟨.brc 0 (-2), box, _, rfl⟩,
    .jmpi 3, boxS [(3, 65536)], _, _, rfl, by unfold State.inCode; decide +kernel⟩

/-- m2 takes no lane, every lane, the lower half, and one lane. -/
def boxM (v : DWord) : State := box.mapCur fun g => { g with m := g.m.set 2 v }

theorem boxM_split (v : DWord) (hr : (boxM v).running := by unfold State.running; decide +kernel)
    (h : okB (writeSerial { token := 3, pmask := 0, ppc := 0, jpc := 0, v := false, ph := false, owner := 0, depth := 0 } (boxM v))
      (fun _ u => okB (ownSerials u) fun _ _ => true) = true) :
    (boxM v).running ∧ ∃ u outer w,
      writeSerial { token := 3, pmask := 0, ppc := 0, jpc := 0, v := false, ph := false, owner := 0, depth := 0 } (boxM v) = .ok () u ∧
        ownSerials u = .ok outer w := by
  obtain ⟨_, u, h1, h2⟩ := ok_of h
  obtain ⟨o, w, h3, -⟩ := ok_of h2
  exact ⟨hr, u, o, w, h1, h3⟩

def runB (s : State) : Bool := s.hasGroup s.cur.ctx s.cur.grp && s.curGroup.live s.cur.frag && !s.curGroup.ending

theorem running_of {s : State} (h : runB s = true) : s.running := by
  unfold runB at h
  unfold State.running
  simpa [and_assoc] using h

/-- A SPLIT of token 3 to the word 12 after it, with lanes taken: none, all, the upper half, one. -/
theorem witness_SplitWord :
    (∃ (s : State) (t : BitVec 4) (o : BitVec 17), s.running ∧ s.inCode (s.here + 4 * o.signExtend 64) ∧
      s.curGroup.tokens.getLsbD (2 * t.toNat) = true) ∧
    ∀ x ∈ [(0, 0), (0xFFFF, 1), (0xFF00, 2), (1, 3)], ∃ (s u v : State) (t c : BitVec 4) (o : BitVec 17) (outer : List SerialRec),
      let own := s.curGroup.mask s.cur.frag
      let taken := own &&& s.curGroup.readM s.cur.frag c.toNat
      let other := own &&& ~~~ s.curGroup.readM s.cur.frag c.toNat
      s.running ∧ s.inCode (s.here + 4 * o.signExtend 64) ∧ s.curGroup.tokens.getLsbD (2 * t.toNat) = false ∧
      writeSerial { token := t.toNat, pmask := 0, ppc := 0, jpc := 0, v := false, ph := false, owner := 0, depth := 0 } s = .ok () u ∧
      ownSerials u = .ok outer v ∧
      (x.2 = 0 → taken = 0) ∧ (x.2 = 1 → taken ≠ 0 ∧ other = 0) ∧
      (1 < x.2 → taken ≠ 0 ∧ other ≠ 0 ∧ s.curGroup.freeFrag = some 0) ∧
      (x.2 = 2 → onesIn taken = onesIn other) ∧ taken = x.1 := by
  refine ⟨⟨box.mapCur fun g => { g with tokens := 64 }, 3, 12, running_of (by decide +kernel), by unfold State.inCode; decide +kernel, by decide +kernel⟩, ?_⟩
  have hc : ∀ x ∈ [((0 : DWord), 0), (0xFFFF, 1), (0xFF00, 2), (1, 3)],
      (boxM x.1).inCode ((boxM x.1).here + 4 * (12 : BitVec 17).signExtend 64) := by unfold State.inCode; decide +kernel
  have hr : ∀ x ∈ [((0 : DWord), 0), (0xFFFF, 1), (0xFF00, 2), (1, 3)], runB (boxM x.1) = true ∧
      okB (writeSerial { token := 3, pmask := 0, ppc := 0, jpc := 0, v := false, ph := false, owner := 0, depth := 0 } (boxM x.1))
        (fun _ u => okB (ownSerials u) fun _ _ => true) = true := by decide +kernel
  have hd : ∀ x ∈ [((0 : DWord), 0), (0xFFFF, 1), (0xFF00, 2), (1, 3)],
      let s := boxM x.1
      let own := s.curGroup.mask s.cur.frag
      let taken := own &&& s.curGroup.readM s.cur.frag 2
      let other := own &&& ~~~ s.curGroup.readM s.cur.frag 2
      s.curGroup.tokens.getLsbD 6 = false ∧ (x.2 = 0 → taken = 0) ∧ (x.2 = 1 → taken ≠ 0 ∧ other = 0) ∧
      (1 < x.2 → taken ≠ 0 ∧ other ≠ 0 ∧ s.curGroup.freeFrag = some 0) ∧
      (x.2 = 2 → onesIn taken = onesIn other) ∧ taken = x.1 := by decide +kernel
  intro x hx
  obtain ⟨hr, u, outer, w, h1, h2⟩ := boxM_split x.1 (running_of (hr x hx).1) (hr x hx).2
  exact ⟨boxM x.1, u, w, 3, 2, 12, outer, hr, hc x hx, (hd x hx).1, h1, h2, (hd x hx).2⟩

/-- The upper half of the lanes is fragment 0, of token 3; it has reached its JOIN where `j` is set. -/
def boxF (j : Bool) (w : Wait) : State := box.mapCur fun g =>
  { g with
    m := g.m.set 0 0xFF, tokens := 64, main := { g.main with wait := w }
    frags := g.frags.set 0
      { v := true, mask := 0xFF00, token := 3, j := j
        party := { g.main with active := false, wait := if j then .joined else .none } } }

/-- A record of token 3 whose other side waits at word offset 2 with the upper half of the lanes, in its phase. -/
def serialOf (ph : Bool) : SerialRec :=
  { token := 3, pmask := 0xFF00, ppc := 2, jpc := 0, v := true, ph := ph, owner := 15, depth := 0 }

/-- The state that a computation leaves. -/
def leaves {α} (r : EStateM.Result Stop State α) : State :=
  match r with
  | .ok _ t => t
  | .error _ t => t

/-- Serial records, whose tokens are live. -/
def boxRecs (rs : List SerialRec) (s : State) : State :=
  rs.foldl (fun s r => leaves (writeSerial r s)) (s.mapCur fun g => { g with tokens := BitVec.ofNat 32 ((rs.map fun r => 4 ^ r.token).sum) })

/-- The main side runs one side of that split. -/
def boxSer (ph : Bool) : State := boxRecs [serialOf ph] (box.mapCur fun g => { g with m := g.m.set 0 0xFF })

theorem one_last : (clauseOf [0x18000000]).idx = ((clauseOf [0x18000000]).hdr.extractLsb' 28 4).toNat := by decide +kernel

theorem boxSer_own (ph : Bool) (x : SerialRec)
    (h : okB (ownSerials (boxSer ph)) (fun rs v => decide (rs = [serialOf ph]) && decide (v.curParty.clause = some (clauseOf [0x18000000])) &&
      okB (writeSerial { x with jpc := if x.ph && x.v && x.pmask != 0 then v.wordOffset (v.here + 4) else 0 } v) fun _ _ => true) = true) :
    ∃ v u, ownSerials (boxSer ph) = .ok [serialOf ph] v ∧ v.atLast ∧
      writeSerial { x with jpc := if x.ph && x.v && x.pmask != 0 then v.wordOffset (v.here + 4) else 0 } v = .ok () u := by
  obtain ⟨rs, v, hv, hp⟩ := ok_of h
  obtain ⟨ha, hc⟩ := (Bool.and_eq_true _ _).mp hp
  obtain ⟨hr, hl⟩ := (Bool.and_eq_true _ _).mp ha
  obtain ⟨_, u, hu, -⟩ := ok_of hc
  exact ⟨v, u, of_decide_eq_true hr ▸ hv, ⟨clauseOf [0x18000000], of_decide_eq_true hl, one_last⟩, hu⟩

/-- Fragment 1, of token 5, in the clause of a word, or waiting at the JOIN of token 3, whose fragment 0 has reached it. -/
def boxJ (w : Wait) : State := (boxF true .none).mapCur fun g =>
  { g with
    frags := g.frags.set 1
      { v := true, mask := 0xF0, token := 5, j := false
        party := { g.main with active := false, wait := w, clause := some (clauseOf [0x18000000]) } } }

/-- Fragment 1 issues. -/
def byFrag (s : State) : State := { s with cur := { main with frag := some 1 } }

theorem witness_JoinWord :
    (∃ (s : State) (t : BitVec 4), s.curGroup.tokens.getLsbD (2 * t.toNat) = false) ∧
    (∃ (s : State) (t : BitVec 4) (e : Nat), s.running ∧ s.cur.frag = some e ∧ s.curGroup.tokens.getLsbD (2 * t.toNat) = true ∧
      (s.curGroup.fragAt e).token = t ∧ s.curGroup.live none = true) ∧
    (∀ w ∈ [none, some 1], ∃ (s v : State) (t : BitVec 4) (rs : List SerialRec), s.running ∧ s.cur.frag = w ∧
      (∀ e, s.cur.frag = some e → (s.curGroup.fragAt e).token ≠ t) ∧
      s.curGroup.tokens.getLsbD (2 * t.toNat) = true ∧ ownSerials s = .ok rs v ∧ v.running ∧ v.cur = s.cur ∧
      ∀ r ∈ rs, r.token ≠ t.toNat) ∧
    (∃ s v x : State, s.cur.frag = none ∧ s.curGroup.tokens.getLsbD 6 = true ∧ ownSerials s = .ok [serialOf false] v ∧ v.atLast ∧
      writeSerial { serialOf false with jpc := v.wordOffset (v.here + 4), pmask := 0xFF, ph := true } v = .ok () x) ∧
    (∃ s v : State, s.cur.frag = some 1 ∧ (s.curGroup.fragAt 1).token ≠ 3 ∧ s.curGroup.tokens.getLsbD 6 = true ∧
      ownSerials s = .ok [{ serialOf true with owner := 1 }] v) ∧
    ∃ s v x : State, s.cur.frag = none ∧ s.curGroup.tokens.getLsbD 6 = true ∧ ownSerials s = .ok [serialOf true] v ∧
      writeSerial { serialOf true with v := false } v = .ok () x := by
  have hw : ∀ s, s = boxF false .none ∨ s = byFrag (boxJ .none) → okB (ownSerials s)
      (fun rs v => runB v && decide (v.cur = s.cur) && decide (∀ r ∈ rs, r.token ≠ 3)) = true := by
    rintro s (rfl | rfl) <;> decide +kernel
  have hn : ∀ w ∈ [none, some 1], ∃ s, (s = boxF false .none ∨ s = byFrag (boxJ .none)) ∧ s.running ∧ s.cur.frag = w ∧
      (∀ e, s.cur.frag = some e → (s.curGroup.fragAt e).token ≠ 3) ∧ s.curGroup.tokens.getLsbD 6 = true := by
    intro w hw
    simp only [List.mem_cons, List.not_mem_nil, or_false] at hw
    rcases hw with rfl | rfl
    · exact ⟨boxF false .none, .inl rfl, running_of (by decide +kernel), rfl, (fun _ h => nomatch h), by decide +kernel⟩
    · exact ⟨byFrag (boxJ .none), .inr rfl, running_of (by decide +kernel), rfl, (fun e h => by cases h; decide +kernel),
        by decide +kernel⟩
  obtain ⟨rf, vf, hf, hpf⟩ := ok_of (r := ownSerials (byFrag (boxRecs [{ serialOf true with owner := 1 }] (boxJ .none))))
    (p := fun rs _ => decide (rs = [{ serialOf true with owner := 1 }])) (by decide +kernel)
  obtain ⟨v1, x1, h1, h2, h3⟩ := boxSer_own false { serialOf false with pmask := 0xFF, ph := true } (by decide +kernel)
  obtain ⟨v2, x2, h4, -, h5⟩ := boxSer_own true { serialOf true with v := false } (by decide +kernel)
  exact ⟨⟨box, 15, by decide +kernel⟩,
    ⟨{ boxF false .none with cur := { main with frag := some 0 } }, 3, 0, running_of (by decide +kernel), rfl, by decide +kernel,
      by decide +kernel, by decide +kernel⟩,
    fun w h => by
      obtain ⟨s, hs, h1, h2, h3, h4⟩ := hn w h
      obtain ⟨rs, v, h, hp⟩ := ok_of (hw s hs)
      simp only [Bool.and_eq_true, decide_eq_true_eq] at hp
      exact ⟨s, v, 3, rs, h1, h2, h3, h4, h, running_of hp.1.1, hp.1.2, hp.2⟩,
    ⟨boxSer false, v1, x1, by decide +kernel, by decide +kernel, h1, h2, h3⟩,
    ⟨_, vf, rfl, by decide +kernel, by decide +kernel, of_decide_eq_true hpf ▸ hf⟩,
    boxSer true, v2, x2, by decide +kernel, by decide +kernel, h4, h5⟩

theorem witness_JoinMerge :
    (∀ x ∈ [(boxF true (.join 3), main), (boxJ (.join 3), { main with frag := some 1 })], ∃ (t : Nat) (c : Clause),
      x.1.hasGroup x.2.ctx x.2.grp = true ∧ (x.1.groupAt x.2.ctx x.2.grp).ending = false ∧
      (x.1.groupAt x.2.ctx x.2.grp).live x.2.frag = true ∧ (x.1.groupAt x.2.ctx x.2.grp).m ≠ [] ∧
      (∀ e, x.2.frag = some e → e < 8 ∧ ((x.1.groupAt x.2.ctx x.2.grp).fragAt e).token.toNat ≠ t) ∧
      (x.1.partyOf x.2).wait = .join t ∧ (x.1.partyOf x.2).clause = some c ∧ (x.1.partyOf x.2).stopped = false ∧ t < 16 ∧
      ∀ f ∈ (x.1.groupAt x.2.ctx x.2.grp).frags, f.v = true → f.token.toNat = t → f.j = true) ∧
    ∃ (s : State) (p : PartyRef), (s.partyOf p).stopped = true := by
  refine ⟨fun x hx => ⟨3, clauseOf [0x18000000], ?_⟩,
    ⟨box.mapCur fun g => { g with main := { g.main with stopped := true } }, main, by decide +kernel⟩⟩
  have h : ∀ x ∈ [(boxF true (.join 3), main), (boxJ (.join 3), { main with frag := some 1 })],
      (x.1.hasGroup x.2.ctx x.2.grp = true ∧ (x.1.groupAt x.2.ctx x.2.grp).ending = false ∧
      (x.1.groupAt x.2.ctx x.2.grp).live x.2.frag = true ∧ (x.1.groupAt x.2.ctx x.2.grp).m ≠ []) ∧
      (∀ e ∈ x.2.frag.toList, e < 8 ∧ ((x.1.groupAt x.2.ctx x.2.grp).fragAt e).token.toNat ≠ 3) ∧
      (x.1.partyOf x.2).wait = .join 3 ∧ (x.1.partyOf x.2).clause = some (clauseOf [0x18000000]) ∧ (x.1.partyOf x.2).stopped = false ∧
      (3 < 16 ∧ ∀ f ∈ (x.1.groupAt x.2.ctx x.2.grp).frags, f.v = true → f.token.toNat = 3 → f.j = true) := by decide +kernel
  obtain ⟨⟨a, b, c, d⟩, e, f, g, i, j, k⟩ := h x hx
  exact ⟨a, b, c, d, fun n hn => e n (by rw [hn]; exact List.mem_singleton_self n), f, g, i, j, k⟩

/-- The record of an inner split of token 2 whose first side has exited. -/
def innerRec : SerialRec := { serialOf true with token := 2, pmask := 0, depth := 1 }

def lateTrap : Deferred := { op := 7, cause := 0x0C, detail := 17, flag := none }

/-- No serial record; one in its first phase, in its second with lanes to come back and without; an inner one and an outer
one; and a deferred trap pending. -/
theorem witness_ExitYieldNop :
    (∃ s v : State, ownSerials s = .ok [] v ∧ v.curGroup.deferred = []) ∧
    (∃ s v u : State, ownSerials s = .ok [serialOf false] v ∧ writeSerial { serialOf false with pmask := 0, ph := true } v = .ok () u) ∧
    (∃ s v u : State, ownSerials s = .ok [serialOf true] v ∧ writeSerial { serialOf true with v := false } v = .ok () u) ∧
    (∃ s v u : State, ownSerials s = .ok [innerRec] v ∧ v.curGroup.deferred = [] ∧
      writeSerial { innerRec with v := false } v = .ok () u) ∧
    (∃ s v u x : State, ownSerials s = .ok [innerRec, serialOf false] v ∧ writeSerial { innerRec with v := false } v = .ok () u ∧
      writeSerial { serialOf false with pmask := 0, ph := true } (u.mapCur fun g => g.setToken 2 false) = .ok () x) ∧
    (∃ s v : State, ownSerials s = .ok [innerRec] v ∧ (∀ w ∈ s.curGroup.parties, w = s.cur.frag) ∧
      v.curGroup.deferred.head? = some lateTrap ∧ v.curGroup.trap.hb = false) ∧
    (∃ s : State, (s.quadParties (s.coreOf s.cur.ctx) (s.cur.grp % 4)).any s.pendingReady = false) ∧
    ∃ s : State, (s.quadParties (s.coreOf s.cur.ctx) (s.cur.grp % 4)).any s.pendingReady = true := by
  obtain ⟨rs, v, h, hp⟩ := ok_of (r := ownSerials box) (p := fun rs v => decide (rs = []) && decide (v.curGroup.deferred = []))
    (by decide +kernel)
  simp only [Bool.and_eq_true, decide_eq_true_eq] at hp
  obtain ⟨v1, x1, h1, -, h3⟩ := boxSer_own false { serialOf false with pmask := 0, ph := true } (by decide +kernel)
  obtain ⟨v2, x2, h4, -, h5⟩ := boxSer_own true { serialOf true with v := false } (by decide +kernel)
  let late : State := box.mapCur fun g => { g with deferred := [lateTrap] }
  have key : ∀ (s : State) (rs : List SerialRec) (p : State → Bool),
      okB (ownSerials s) (fun x v => decide (x = rs) && p v) = true → ∃ v, ownSerials s = .ok rs v ∧ p v = true := by
    intro s rs p h
    obtain ⟨x, v, hv, hx⟩ := ok_of h
    obtain ⟨hx, hp⟩ := (Bool.and_eq_true _ _).mp hx
    exact ⟨v, of_decide_eq_true hx ▸ hv, hp⟩
  obtain ⟨v3, h6, p3⟩ := key (boxRecs [innerRec] box) [innerRec]
    (fun v => decide (v.curGroup.deferred = []) && okB (writeSerial { innerRec with v := false } v) fun _ _ => true) (by decide +kernel)
  obtain ⟨v4, h7, p4⟩ := key (boxRecs [innerRec, serialOf false] box) [innerRec, serialOf false]
    (fun v => okB (writeSerial { innerRec with v := false } v) fun _ u =>
      okB (writeSerial { serialOf false with pmask := 0, ph := true } (u.mapCur fun g => g.setToken 2 false)) fun _ _ => true)
    (by decide +kernel)
  obtain ⟨v5, h8, p5⟩ := key (boxRecs [innerRec] late) [innerRec]
    (fun v => decide (v.curGroup.deferred.head? = some lateTrap) && decide (v.curGroup.trap.hb = false)) (by decide +kernel)
  simp only [Bool.and_eq_true, decide_eq_true_eq] at p3 p5
  obtain ⟨_, x3, h9, -⟩ := ok_of p3.2
  obtain ⟨_, u4, h10, p6⟩ := ok_of p4
  obtain ⟨_, x4, h11, -⟩ := ok_of p6
  exact ⟨⟨box, v, hp.1 ▸ h, hp.2⟩, ⟨boxSer false, v1, x1, h1, h3⟩, ⟨boxSer true, v2, x2, h4, h5⟩, ⟨_, v3, x3, h6, p3.1, h9⟩,
    ⟨_, v4, u4, x4, h7, h10, h11⟩, ⟨_, v5, h8, by decide +kernel, p5⟩, ⟨box, by decide +kernel⟩, boxF false .none, by decide +kernel⟩

/-- A prefix stands before the word. -/
def boxP (p : Prefix) : State := boxWith { clauseOf [0x18000000] with pre := some p }

theorem box_shape : box.curGroup.Shape := by unfold Group.Shape; decide +kernel

/-- Mask select m1, Z, a mask as the fourth operand, and a permutation. -/
def pre1 : Prefix := { sel := 1, zero := 1, rnd := 0, fourth := 0xE1, kind := 1, amount := 3 }

/-- VADD of the budget's last registers; and the states in which `witness_VectorWords` meets the other hypotheses. -/
theorem witness_VectorFrame :
    (∃ (i : Instr) (s : State) (e : VEffect), s.running ∧ s.curGroup.Shape ∧
      vectorTable s.vecCtx i = some e ∧ WellFormed i ∧ prefixOk (permAllowed i) s.vecCtx.pre = true ∧
      s.vecCtx.regsOk (e.dest :: e.reads) e.reads) ∧
    box.running ∧ box.curGroup.Shape ∧ (boxP pre1).running ∧ (boxP pre1).curGroup.Shape :=
  ⟨⟨.vadd 0 127 126 0xF1, box, box.vecCtx.two true 32 0 127 126 0xF1 (· + ·), box_running, box_shape, rfl,
      by unfold WellFormed; decide +kernel, by decide +kernel, by unfold VCtx.regsOk; decide +kernel⟩,
    box_running, box_shape, running_of (by decide +kernel), by unfold Group.Shape; decide +kernel⟩

/-- VADD under a prefix, VMOV of an immediate, VFSGN, and VMAD with a mask as its fourth operand. -/
theorem witness_VectorWords :
    (∃ (i : Instr) (s : State) (e : VEffect), vectorTable s.vecCtx i = some e ∧ WellFormed i ∧
      prefixOk (permAllowed i) s.vecCtx.pre = true ∧ s.vecCtx.regsOk (e.dest :: e.reads) e.reads) ∧
    (∃ (i : Instr) (s : State) (e : VEffect), moveTable s.vecCtx i = some e ∧ WellFormed i ∧
      prefixOk (permAllowed i) s.vecCtx.pre = true ∧ s.vecCtx.regsOk (e.dest :: e.reads) e.reads) ∧
    (∃ (i : Instr) (s : State) (n : Nat) (e : VEffect), bitTable s.vecCtx i = some (n, e) ∧ WellFormed i ∧
      prefixOk (permAllowed i) s.vecCtx.pre = true ∧ s.vecCtx.regsOk (e.dest :: e.reads) e.reads) ∧
    ∃ (i : Instr) (s : State) (e : VEffect), fourthTable s.vecCtx i = some e ∧ s.vecCtx.hasPre = true ∧
      selOkV s.vecCtx.pre.fourth = true ∧ WellFormed i ∧ prefixOk (permAllowed i) s.vecCtx.pre = true ∧
      s.vecCtx.regsOk (e.dest :: e.reads) e.reads :=
  ⟨⟨.vadd 1 0 1 0xFF, boxP pre1, (boxP pre1).vecCtx.two true 32 1 0 1 0xFF (· + ·), rfl, by unfold WellFormed; decide +kernel,
      by decide +kernel, by unfold VCtx.regsOk; decide +kernel⟩,
    ⟨.vmov 1 127 0x80, box, { dest := 127, reads := [], lane := box.vecCtx.opB true 32 1 0x80 }, rfl,
      by unfold WellFormed; decide +kernel, by decide +kernel, by unfold VCtx.regsOk; decide +kernel⟩,
    ⟨.vfclass 0 1, box, 2, box.vecCtx.one 0 1 fun x => 1 <<< classOf x, rfl, by unfold WellFormed; decide +kernel,
      by decide +kernel, by unfold VCtx.regsOk; decide +kernel⟩,
    .vmad 0 0 1 2, boxP pre1, (boxP pre1).vecCtx.three true 32 0 0 1 2 fun x y z => x * y + z, rfl, by decide +kernel, by decide +kernel,
      by unfold WellFormed; decide +kernel, by decide +kernel, by unfold VCtx.regsOk; decide +kernel⟩

/-- v126 lies beyond a budget of 126; v1 is poisoned. -/
def boxB : State := box.mapCur fun g => { g with budget := 126, vPoison := [1] }

/-- A bad prefix in each of its ways, a register past the budget and a poisoned source, in words of each kind. -/
theorem witness_VectorTraps :
    (∀ x ∈ [({ pre1 with rnd := 7 }, Instr.vadd 0 0 1 2), ({ pre1 with kind := 5 }, .vfdiv 0 1 2),
        ({ pre1 with kind := 4 }, .vpack 0 0 1 1), ({ pre1 with kind := 1 }, .vmov 0 0 1), ({ pre1 with fourth := 0xFF }, .vfma 0 1 2),
        (pre1, .vins 1 0 1 0), (pre1, .vquantE4m3 127 0)],
      (vectorRegs (boxP x.1) x.2).isSome = true ∧ badForm (boxP x.1).vecCtx x.2) ∧
    (∀ i ∈ [Instr.vadd 0 126 1 127, .vmov 0 126 1, .vperm 126 1 0, .vunpk 0 126 1 1, .vmad 0 126 1 2, .vaddsat 0 126 1 2, .vcmp 0 0 1 126 1,
        .vfsqrt 126 1, .vcvt 0 126 1 0 0, .vquantE4m3 125 1, .vred 126 1 0, .vredmi 125 1, .vdead 0 126, .vins 0 126 1 1],
      ¬ badForm boxB.vecCtx i ∧ ∃ n named sources, vectorRegs boxB i = some (n, named, sources) ∧
        named.find? (fun n => decide (boxB.vecCtx.g.budget ≤ n)) = some 126) ∧
    ∀ i ∈ [Instr.vadd 0 125 0 1, .vmov 0 125 1, .vperm 125 1 0, .vunpk 0 125 1 1, .vmad 0 125 1 2, .vaddsat 0 125 1 2, .vcmp 0 0 1 125 1,
        .vfsqrt 125 1, .vcvt 0 125 1 0 0, .vquantE4m3 124 1, .vred 125 1 0, .vredmi 124 1, .vins 0 125 1 1],
      ¬ badForm boxB.vecCtx i ∧ ∃ n named sources, vectorRegs boxB i = some (n, named, sources) ∧
        (∀ n ∈ named, n < boxB.vecCtx.g.budget) ∧ ∃ n ∈ sources, n ∈ boxB.vecCtx.g.vPoison := by
  have some_of : ∀ (i : Instr) (p : List Nat → List Nat → Bool),
      ((vectorRegs boxB i).any fun x => p x.2.1 x.2.2) = true →
      ∃ n named sources, vectorRegs boxB i = some (n, named, sources) ∧ p named sources = true := by
    intro i p h
    cases hv : vectorRegs boxB i with
    | none => rw [hv] at h; cases h
    | some x => rw [hv] at h; exact ⟨x.1, x.2.1, x.2.2, rfl, h⟩
  refine ⟨by unfold badForm; decide +kernel, fun i hi => ?_, fun i hi => ?_⟩
  · have h : ∀ i ∈ [Instr.vadd 0 126 1 127, .vmov 0 126 1, .vperm 126 1 0, .vunpk 0 126 1 1, .vmad 0 126 1 2, .vaddsat 0 126 1 2,
        .vcmp 0 0 1 126 1, .vfsqrt 126 1, .vcvt 0 126 1 0 0, .vquantE4m3 125 1, .vred 126 1 0, .vredmi 125 1, .vdead 0 126, .vins 0 126 1 1],
        ¬ badForm boxB.vecCtx i ∧ ((vectorRegs boxB i).any fun x =>
          decide (x.2.1.find? (fun n => decide (boxB.vecCtx.g.budget ≤ n)) = some 126)) = true := by unfold badForm; decide +kernel
    obtain ⟨n, named, sources, h1, h2⟩ := some_of i (fun named _ => decide (named.find? (fun n => decide (boxB.vecCtx.g.budget ≤ n)) = some 126))
      (h i hi).2
    exact ⟨(h i hi).1, n, named, sources, h1, of_decide_eq_true h2⟩
  · have h : ∀ i ∈ [Instr.vadd 0 125 0 1, .vmov 0 125 1, .vperm 125 1 0, .vunpk 0 125 1 1, .vmad 0 125 1 2, .vaddsat 0 125 1 2,
        .vcmp 0 0 1 125 1, .vfsqrt 125 1, .vcvt 0 125 1 0 0, .vquantE4m3 124 1, .vred 125 1 0, .vredmi 124 1, .vins 0 125 1 1],
        ¬ badForm boxB.vecCtx i ∧ ((vectorRegs boxB i).any fun x =>
          decide ((∀ n ∈ x.2.1, n < boxB.vecCtx.g.budget) ∧ ∃ n ∈ x.2.2, n ∈ boxB.vecCtx.g.vPoison)) = true := by
      unfold badForm; decide +kernel
    obtain ⟨n, named, sources, h1, h2⟩ := some_of i (fun named sources =>
      decide ((∀ n ∈ named, n < boxB.vecCtx.g.budget) ∧ ∃ n ∈ sources, n ∈ boxB.vecCtx.g.vPoison)) (h i hi).2
    exact ⟨(h i hi).1, n, named, sources, h1, of_decide_eq_true h2⟩

/-- The largest value plus one, in bytes, halves and words: the sums clamp. -/
theorem witness_SaturatingWords :
    ∃ (i : Instr) (s : State) (sg sub : Bool) (w : Nat) (k : BitVec 1) (d a : BitVec 7) (b : BitVec 8),
      satTable i = some (sg, sub, w, k, d, a, b) ∧ prefixOk true s.vecCtx.pre = true ∧
      s.vecCtx.regsOk (d.toNat :: a.toNat :: bRegs k b) (a.toNat :: bRegs k b) ∧
      satTop sg w < satExact sg sub w (s.vecCtx.srcA a 15) (s.vecCtx.opB sg w k b 15) 3 :=
  ⟨.vaddsatI8 1 0 1 1, boxV [(1, fun _ => 0x7F000000)], true, false, 8, 1, 0, 1, 1, rfl, by decide +kernel,
    by unfold VCtx.regsOk; decide +kernel, by decide +kernel⟩

/-- A condition each: VCMP.LE_U, VFCMP.ORD, and the words that write m0. -/
theorem witness_CompareWords :
    (∃ (s : State) (k : BitVec 1) (cc : BitVec 3) (a : BitVec 7) (b : BitVec 8), cc.toNat < 6 ∧
      prefixOk true s.vecCtx.pre = true ∧ s.vecCtx.regsOk (a.toNat :: bRegs k b) (a.toNat :: bRegs k b)) ∧
    (∃ (s : State) (a : BitVec 7), prefixOk true s.vecCtx.pre = true ∧ s.vecCtx.regsOk [a.toNat] [a.toNat]) ∧
    ∃ (s : State) (cc : BitVec 3) (a : BitVec 7) (b : BitVec 8),
      let c := s.vecCtx
      cc.toNat < 6 ∧ prefixOk true c.pre = true ∧ c.regsOk (a.toNat :: selRegs b) (a.toNat :: selRegs b) ∧
        s.quiet (c.lanes.foldl (fun f l => f ||| fcompareFlags cc (c.fval .fp32 (c.srcA a l) 0) (c.fval .fp32 (c.sel b l) 0)) 0) :=
  ⟨⟨box, 0, 5, 127, 0x7F, by decide, by decide +kernel, by unfold VCtx.regsOk; decide +kernel⟩,
    ⟨box, 127, by decide +kernel, by unfold VCtx.regsOk; decide +kernel⟩,
    box, 5, 0, 0xF0, by decide, by decide +kernel, by unfold VCtx.regsOk; decide +kernel, by unfold State.quiet; decide +kernel⟩

/-- v1 holds each lane's number: lane 15 names v15, the last below a budget of 16; below 15 it traps. -/
def boxI (budget : Nat) : State := (boxV [(1, fun l => BitVec.ofNat 32 l)]).mapCur fun g => { g with budget := budget }

theorem witness_IndirectWords :
    (∃ (s : State) (k : BitVec 1) (d a : BitVec 7) (b : BitVec 8),
      let c := s.vecCtx
      prefixOk true c.pre = true ∧ c.regsOk (d.toNat :: a.toNat :: bRegs k b) (d.toNat :: a.toNat :: bRegs k b) ∧
        (∀ l ∈ c.lanes, c.indexAt k a b l < c.g.budget) ∧ (∀ l ∈ c.lanes, c.indexAt k a b l ∉ c.g.vPoison) ∧
        s.curGroup.v.length = 128 ∧ s.curGroup.budget ≤ 128 ∧ s.running) ∧
    ∃ (s : State) (k : BitVec 1) (d a : BitVec 7) (b : BitVec 8) (l : Nat) (rest : List Nat),
      let c := s.vecCtx
      prefixOk true c.pre = true ∧ c.regsOk (d.toNat :: a.toNat :: bRegs k b) (d.toNat :: a.toNat :: bRegs k b) ∧
        c.lanes.filter (fun l => decide (c.g.budget ≤ c.indexAt k a b l)) = l :: rest :=
  ⟨⟨boxI 16, 1, 15, 1, 0, by decide +kernel, by unfold VCtx.regsOk; decide +kernel, by decide +kernel, by decide +kernel,
      by decide +kernel, by decide +kernel, running_of (by decide +kernel)⟩,
    boxI 15, 1, 14, 1, 0, 15, [], by decide +kernel, by unfold VCtx.regsOk; decide +kernel, by decide +kernel⟩

/-- VDEAD to the last register; VEXTR; VINS whose b names each lane itself. -/
theorem witness_DeadExtractInsert :
    (∃ (s : State) (d : BitVec 7) (n : BitVec 8), prefixOk false s.vecCtx.pre = true ∧ d.toNat + n.toNat < 128 ∧
      d.toNat + n.toNat < s.curGroup.budget ∧ s.running ∧ s.curGroup.v.length = 128) ∧
    (∃ (s : State) (a : BitVec 7), prefixOk true s.vecCtx.pre = true ∧ s.vecCtx.regsOk [a.toNat] [a.toNat]) ∧
    ∃ (s : State) (d : BitVec 7) (b : BitVec 8), prefixOk false s.vecCtx.pre = true ∧ s.vecCtx.z = false ∧
      s.vecCtx.regsOk (d.toNat :: bRegs 0 b) (bRegs 0 b) ∧ (s.vecCtx.sel b 15).toNat % s.vecCtx.g.width = 15 :=
  ⟨⟨box, 0, 127, by decide +kernel, by decide, by decide +kernel, box_running, by decide +kernel⟩,
    ⟨box, 127, by decide +kernel, by unfold VCtx.regsOk; decide +kernel⟩,
    boxI 128, 127, 1, by decide +kernel, by decide +kernel, by unfold VCtx.regsOk; decide +kernel, by decide +kernel⟩

/-- MODE enables IV. -/
def boxE : State := (boxWith { clauseOf [0x18000000] with mode := 0x80 }).mapCur fun g => { g with mode := 0x80 }

/-- Quiet: 0 + 0. Not quiet: signalling NaNs with IV enabled. -/
theorem witness_FpWords :
    (∃ (i : Instr) (s : State) (e : FEffect), fpTable s i = some e ∧ prefixOk true s.vecCtx.pre = true ∧
      s.vecCtx.regsOk (e.dest :: e.reads) e.reads ∧ s.quiet (e.flags s.vecCtx)) ∧
    (∃ (i : Instr) (s : State) (e : FEffect), fmaTable s i = some e ∧ s.vecCtx.hasPre = true ∧
      selOkV s.vecCtx.pre.fourth = true ∧ prefixOk true s.vecCtx.pre = true ∧
      s.vecCtx.regsOk (e.dest :: e.reads) e.reads ∧ s.quiet (e.flags s.vecCtx)) ∧
    ∃ (i : Instr) (s : State) (e : FEffect), fpTable s i = some e ∧ prefixOk true s.vecCtx.pre = true ∧
      s.vecCtx.regsOk (e.dest :: e.reads) e.reads ∧ ¬ s.quiet (e.flags s.vecCtx) := by
  let sn : State := boxE.mapCur fun g => { g with v := g.v.set 1 (.raw (List.replicate 16 0x7F800001)) }
  have h1 : ∃ e, fpTable box (.vfadd 0 1 2) = some e ∧ box.vecCtx.regsOk (e.dest :: e.reads) e.reads ∧ box.quiet (e.flags box.vecCtx) :=
    ⟨_, rfl, by unfold VCtx.regsOk; decide +kernel, by unfold State.quiet; decide +kernel⟩
  have h2 : ∃ e, fmaTable (boxP pre1) (.vfma 0 1 2) = some e ∧ (boxP pre1).vecCtx.regsOk (e.dest :: e.reads) e.reads ∧
      (boxP pre1).quiet (e.flags (boxP pre1).vecCtx) :=
    ⟨_, rfl, by unfold VCtx.regsOk; decide +kernel, by unfold State.quiet; decide +kernel⟩
  have h3 : ∃ e, fpTable sn (.vfadd 0 1 2) = some e ∧ sn.vecCtx.regsOk (e.dest :: e.reads) e.reads ∧ ¬ sn.quiet (e.flags sn.vecCtx) :=
    ⟨_, rfl, by unfold VCtx.regsOk; decide +kernel, by unfold State.quiet; decide +kernel⟩
  obtain ⟨e, a, b, c⟩ := h1
  obtain ⟨e', a', b', c'⟩ := h2
  obtain ⟨e'', a'', b'', c''⟩ := h3
  exact ⟨⟨_, box, e, a, by decide +kernel, b, c⟩, ⟨_, boxP pre1, e', a', by decide +kernel, by decide +kernel, by decide +kernel, b', c'⟩,
    _, sn, e'', a'', by decide +kernel, b'', c''⟩
/-- Groups of 32 lanes. -/
def box32 : State := box.mapCur fun g => { g with width := 32, m := g.m.set 0 0xFFFFFFFF }

/-- VCVT of FP16 from FP32; VQUANT in groups of 32 lanes, and of pairs ending at v127 in groups of 16. -/
theorem witness_ConversionWords :
    (∃ (s : State) (g : BitVec 2) (d a : BitVec 7) (t q : BitVec 4),
      let c := s.vecCtx
      let one (l : Nat) : Word × Nat :=
        cvtLane s c (numFmt q.toNat) (numFmt t.toNat) g.toNat l (c.srcA a l) (s.curGroup.lane d.toNat l)
      prefixOk true c.pre = true ∧ (numFmt t.toNat).width < (numFmt q.toNat).width ∧
        c.regsOk [d.toNat, a.toNat] [d.toNat, a.toNat] ∧ s.quiet (c.lanes.foldl (fun f l => f ||| (one l).2) 0)) ∧
    ∃ (s u : State) (f : Fmt) (d a : BitVec 7), f = .e4m3 ∧
      (let c := s.vecCtx
       let lane (j l : Nat) : Word := c.g.lane (a.toNat + j) (c.permLane l)
       let x (j l : Nat) : FVal := c.fval .fp32 (lane j l) 0
       let code (l : Nat) : Nat := blockScale f ((c.lanes.filter fun k => k / 32 == l / 32).map (x 0))
       prefixOk true c.pre = true ∧ c.g.width = 32 ∧ c.regsOk [d.toNat, a.toNat] [a.toNat] ∧
         s.quiet (c.lanes.foldl (fun f' l =>
           f' ||| (quantElem f (s.fenv c f l 0) (code l) (Fmt.fp32.decode false (lane 0 l).toNat)).flags) 0)) ∧
      (let c := u.vecCtx
       let lane (j l : Nat) : Word := c.g.lane (a.toNat + j) (c.permLane l)
       let x (j l : Nat) : FVal := c.fval .fp32 (lane j l) 0
       let code : Nat := blockScale f ([0, 1].flatMap fun j => c.lanes.map (x j))
       let one (j l : Nat) : FRes := quantElem f (u.fenv c f l j) code (Fmt.fp32.decode false (lane j l).toNat)
       prefixOk true c.pre = true ∧ c.g.width = 16 ∧ d.toNat < 127 ∧ a.toNat < 127 ∧
         c.regsOk [d.toNat, d.toNat + 1, a.toNat, a.toNat + 1] [a.toNat, a.toNat + 1] ∧
         u.quiet (c.lanes.foldl (fun f l => f ||| (one 0 l).flags ||| (one 1 l).flags) 0)) :=
  ⟨⟨box, 1, 127, 126, 1, 0, by decide +kernel, by decide +kernel, by unfold VCtx.regsOk; decide +kernel,
      by unfold State.quiet; decide +kernel⟩,
    box32, boxV [(126, fun l => BitVec.ofNat 32 (l * 2 ^ 23)), (127, fun _ => 0x3F800000)], .e4m3, 124, 126, rfl,
    ⟨by decide +kernel, by decide +kernel, by unfold VCtx.regsOk; decide +kernel, by unfold State.quiet; decide +kernel⟩,
    by decide +kernel, by decide +kernel, by decide, by decide, by unfold VCtx.regsOk; decide +kernel,
    by unfold State.quiet; decide +kernel⟩

/-- The largest FP32 number, and the smallest E2M1 one. -/
theorem witness_RoundExact :
    ∀ x ∈ [(Fmt.fp32, 0x7F7FFFFF), (.e2m1, 1)], x.2 < 2 ^ x.1.width ∧ FEnv.rne.ftz = false ∧
      ∃ (neg : Bool) (m : Nat) (e : Int), x.1.decode false x.2 = .fin neg m e := by
  intro x hx
  have h : ∀ x ∈ [(Fmt.fp32, 0x7F7FFFFF), (.e2m1, 1)], x.2 < 2 ^ x.1.width ∧
      (match x.1.decode false x.2 with | .fin _ _ _ => true | _ => false) = true := by decide +kernel
  refine ⟨(h x hx).1, rfl, ?_⟩
  have h' := (h x hx).2
  generalize x.1.decode false x.2 = y at h'
  match y, h' with
  | .fin a b c, _ => exact ⟨a, b, c, rfl⟩

/-- VRED.ADD, and the floating-point fold of code 10; VREDMI with no lane active, and with sixteen. -/
theorem witness_ReductionWords :
    (∀ k ∈ [0, 8, 10], k ≤ 10 ∧ prefixOk true box.vecCtx.pre = true ∧
      box.vecCtx.regsOk [127, 126] [126] ∧ box.quiet (foldFlags box box.vecCtx k 126)) ∧
    (∃ s : State, prefixOk true s.vecCtx.pre = true ∧ s.vecCtx.g.width ≤ 64 ∧ s.vecCtx.lanes = [] ∧ s.vecCtx.regsOk [126, 127, 1] [1]) ∧
    ∃ s : State, prefixOk true s.vecCtx.pre = true ∧ s.vecCtx.g.width ≤ 64 ∧ s.vecCtx.lanes ≠ [] ∧ s.vecCtx.regsOk [126, 127, 1] [1] :=
  ⟨by unfold VCtx.regsOk State.quiet; decide +kernel,
    ⟨boxP pre1, by decide +kernel, by decide +kernel, by decide +kernel, by unfold VCtx.regsOk; decide +kernel⟩,
    box, by decide +kernel, by decide +kernel, by decide +kernel, by unfold VCtx.regsOk; decide +kernel⟩

/-- Granule 1 of the window is cluster-shared; v1 holds multiples of 4 from 4096 on. -/
def boxL : State :=
  let s := boxV [(1, fun l => BitVec.ofNat 32 (4096 + 4 * l))]
  { s with
    teams := [{ team with shared := [1] }]
    poolMap := s.poolMap.map fun e => if e.1 = (0, 21) then (e.1, { e.2 with shared := true }) else e }

theorem boxL_regs : boxL.vecCtx.regsOk [126, 127, 1] [126, 127, 1] := by unfold VCtx.regsOk; decide +kernel

theorem memOk_of {s : State} {k : MemKind} {wide ext party : Bool}
    (h : (prefixOk false s.vecCtx.pre && !s.vecCtx.hasPre && ordOk k 0) = true) (hm : s.vecCtx.pre = Prefix.absent) :
    s.vecCtx.memOk k wide ext party := by
  simp only [Bool.and_eq_true, Bool.not_eq_true'] at h
  unfold VCtx.memOk VCtx.memForm
  rw [h.1.2, hm]
  simp only [Bool.false_eq_true, ↓reduceIte, false_implies, true_and, and_true, h.2]
  exact ⟨by decide +kernel, fun _ => ⟨by decide, by decide⟩, by decide⟩

theorem boxL_mem (k : MemKind) (wide ext party : Bool) : boxL.vecCtx.memOk k wide ext party :=
  memOk_of (by cases k <;> decide +kernel) (by decide +kernel)

/-- The same, with s4 at a base. -/
def boxAt (base : DWord) : State := boxL.mapCur fun g => { g with s := g.s.set 4 base }

/-- With v1 poisoned under a budget of 127, and an acquire prefix. -/
def boxBad : State := boxL.mapCur fun g => { g with budget := 127, vPoison := [1] }
def boxAcq (base : DWord) : State :=
  (boxAt base).mapCurParty fun pt => { pt with clause := pt.clause.map fun c => { c with pre := some { Prefix.absent with fourth := 0x60 } } }

/-- PURITY and everything before it passes. -/
theorem pure_of {m : MemWord} {s : State} (h : okB (m.pure s) (fun _ p => decide (p = s)) = true) : m.pure s = .ok () s := by
  obtain ⟨u, p, h1, h2⟩ := ok_of h
  rw [of_decide_eq_true h2] at h1
  exact h1

/-- A prefix with a rounding code that is reserved; a register past the budget, and a poisoned one; the first lane not
canonical; the second lane's translation faulting; STP and LDCL outside their space; ATOM, ATOMP and LDCL.ACQ not aligned; a
leaf without W under a store. -/
theorem witness_MemoryWordTraps :
    (∃ (s : State) (i : Instr) (m : MemWord), memTable s i = some m ∧ ¬ m.ok) ∧
    (∃ (s : State) (i : Instr) (m : MemWord), memTable s i = some m ∧ m.ok ∧ m.pure s = .ok () s ∧
      m.named.find? (fun n => decide (s.vecCtx.g.budget ≤ n)) = some 127) ∧
    (∃ (s : State) (i : Instr) (m : MemWord), memTable s i = some m ∧ m.ok ∧ m.pure s = .ok () s ∧
      (∀ n ∈ m.named, n < s.vecCtx.g.budget) ∧ ∃ n ∈ m.sources, n ∈ s.vecCtx.g.vPoison) ∧
    (∃ (s : State) (i : Instr) (m : MemWord) (x : Nat × DWord) (post : List (Nat × DWord)), memTable s i = some m ∧ m.ok ∧
      m.pure s = .ok () s ∧ s.vecCtx.regsOk m.named m.sources ∧ m.space = .tenant ∧ m.lanes = x :: post ∧
      x.2.extractLsb' 57 7 ≠ (if x.2.getLsbD 56 then 0x7F else 0)) ∧
    (∃ (s t u : State) (i : Instr) (m : MemWord) (y x : Nat × DWord) (post : List (Nat × DWord)) (ps : List Plan) (e : FaultInfo),
      memTable s i = some m ∧ m.ok ∧ m.pure s = .ok () s ∧ s.vecCtx.regsOk m.named m.sources ∧ m.space = .tenant ∧
      m.lanes = [y] ++ x :: post ∧ [y].mapM m.plan s = .ok ps t ∧
      translate (t.tfOf t.cur.ctx) (t.coreOf t.cur.ctx) (some t.cur.ctx) x.2 (m.access x.2) t = .error (.fault e) u) ∧
    (∃ (s : State) (i : Instr) (m : MemWord), memTable s i = some m ∧ m.ok ∧ m.pure s = .ok () s ∧
      s.vecCtx.regsOk m.named m.sources ∧ m.space = .pool ∧ (m.lanes.find? fun x => !s.myTeam.inData x.2.toNat m.bytes).isSome = true) ∧
    (∃ (s : State) (i : Instr) (m : MemWord), memTable s i = some m ∧ m.ok ∧ m.pure s = .ok () s ∧
      s.vecCtx.regsOk m.named m.sources ∧ m.space = .cluster ∧
      (m.lanes.find? fun x => !(s.clusterRun s.cur.ctx x.2 m.bytes).isSome).isSome = true) ∧
    (∃ (s t : State) (i : Instr) (m : MemWord) (ps : List Plan), memTable s i = some m ∧ m.ok ∧ m.pure s = .ok () s ∧
      s.vecCtx.regsOk m.named m.sources ∧ m.aligned ∧ (m.lanes.filter fun x => x.2.toNat % m.bytes != 0) ≠ [] ∧ m.space = .tenant ∧
      m.lanes.mapM m.plan s = .ok ps t) ∧
    (∃ (s : State) (i : Instr) (m : MemWord), memTable s i = some m ∧ m.ok ∧ m.pure s = .ok () s ∧
      s.vecCtx.regsOk m.named m.sources ∧ m.aligned ∧ (m.lanes.filter fun x => x.2.toNat % m.bytes != 0) ≠ [] ∧ m.space = .pool ∧
      ∀ x ∈ m.lanes, s.myTeam.inData x.2.toNat m.bytes = true) ∧
    (∃ (s : State) (i : Instr) (m : MemWord), memTable s i = some m ∧ m.ok ∧ m.pure s = .ok () s ∧
      s.vecCtx.regsOk m.named m.sources ∧ m.aligned ∧ (m.lanes.filter fun x => x.2.toNat % m.bytes != 0) ≠ [] ∧ m.space = .cluster ∧
      ∀ x ∈ m.lanes, (s.clusterRun s.cur.ctx x.2 m.bytes).isSome = true) ∧
    ∃ s : State,
      let e := Memory.readLe s.side.mem (0x1000 + 8 * ((0 : DWord).toNat / 2 ^ (9 * 0 + 12) % 512)) 8
      0x1000 < Config.hbmBytes ∧ (s.window 0 0x1000).1 = true ∧ e.testBit 0 = true ∧ e.testBit 1 = false ∧
        (Access.store false).any = false ∧ (Access.store false).w = true ∧ e.testBit 4 = false := by
  have mem (s : State) (k : MemKind) (a b c : Bool)
      (h : (prefixOk false s.vecCtx.pre && !s.vecCtx.hasPre && ordOk k 0) = true ∧ s.vecCtx.pre = Prefix.absent) :
      s.vecCtx.memOk k a b c := memOk_of h.1 h.2
  have acq : (boxAcq 0x14001).vecCtx.memOk .load false false false := by
    unfold VCtx.memOk; decide +kernel
  refine ⟨⟨boxP { pre1 with rnd := 7 }, .ld 0 2 126 1 4 0 0, _, rfl, fun h => absurd h.1.1 (by decide +kernel)⟩,
    ⟨boxBad, .ld 0 2 127 1 4 0 0, _, rfl, ⟨mem _ _ _ _ _ (by decide +kernel), by decide +kernel⟩, pure_of (by decide +kernel), by decide +kernel⟩,
    ⟨boxBad, .stp 0 2 126 1 4 0 0, _, rfl, ⟨mem _ _ _ _ _ (by decide +kernel), by decide +kernel⟩, pure_of (by decide +kernel),
      by decide +kernel, by decide +kernel⟩,
    ⟨boxAt 0x0100000000000000, .atomAdd 0 0 127 1 4, _, _, _, rfl, mem _ _ _ _ _ (by decide +kernel), pure_of (by decide +kernel),
      by unfold VCtx.regsOk; decide +kernel, rfl, rfl, by decide +kernel⟩, ?_,
    ⟨boxAt 0x2000, .stp 0 2 126 1 4 0 0, _, rfl, ⟨mem _ _ _ _ _ (by decide +kernel), by decide +kernel⟩, pure_of (by decide +kernel),
      by unfold VCtx.regsOk; decide +kernel, rfl, by decide +kernel⟩,
    ⟨boxAt 0, .ldcl 0 2 126 1 4 0 0, _, rfl, ⟨mem _ _ _ _ _ (by decide +kernel), by decide +kernel⟩, pure_of (by decide +kernel),
      by unfold VCtx.regsOk; decide +kernel, rfl, by decide +kernel⟩, ?_,
    ⟨boxAt 1, .atompAdd 0 0 127 1 4, _, rfl, mem _ _ _ _ _ (by decide +kernel), pure_of (by decide +kernel),
      by unfold VCtx.regsOk; decide +kernel, .inl rfl, by decide +kernel, rfl, by decide +kernel⟩,
    ⟨boxAcq 0x14001, .ldcl 0 2 126 1 4 0 0, _, rfl, ⟨acq, by decide +kernel⟩, pure_of (by decide +kernel),
      by unfold VCtx.regsOk; decide +kernel, .inr (by decide +kernel), by decide +kernel, rfl, by decide +kernel⟩,
    ⟨{ box with
        tfs := put box.tfs 0 { box.tf 0 with
          windows := (box.tf 0).windows.set 0 { base := 0, limit := 0x7FFFFFFF, ro := false, en := true } }
        side := { box.side with mem := [(0x1000, 0x09)] } }, by decide +kernel⟩⟩
  · obtain ⟨ps, t, h, h'⟩ := ok_of (r := [((0 : Nat), (0xFFFC : DWord))].mapM
        (planLane (fun va => Access.load (svcFits 4 va)) true false 4) (boxAt 0xEFFC))
      (p := fun _ t => faultB (translate (t.tfOf t.cur.ctx) (t.coreOf t.cur.ctx) (some t.cur.ctx) 0x10000
        (Access.load (svcFits 4 0x10000)) t)) (by decide +kernel)
    obtain ⟨e, u, he⟩ := fault_of h'
    exact ⟨boxAt 0xEFFC, t, u, .ld 0 2 126 1 4 0 0, _, (0, 0xFFFC), (1, 0x10000), _, ps, e, rfl,
      ⟨mem _ _ _ _ _ (by decide +kernel), by decide +kernel⟩, pure_of (by decide +kernel), by unfold VCtx.regsOk; decide +kernel, rfl, rfl, h, he⟩
  · obtain ⟨ps, t, h, -⟩ := ok_of (r := ((boxAt 1).lanesAt 4 1 0).mapM (planLane (fun _ => Access.atomic) true true 4) (boxAt 1))
      (p := fun _ _ => true) (by decide +kernel)
    exact ⟨boxAt 1, t, .atomAdd 0 0 127 1 4, _, ps, rfl, mem _ _ _ _ _ (by decide +kernel), pure_of (by decide +kernel),
      by unfold VCtx.regsOk; decide +kernel, .inl rfl, by decide +kernel, rfl, h⟩

/-- LD of pairs up to v127 and LDP from the window's first byte of data; LDCL of the shared granule; LDS. -/
theorem witness_LoadWords :
    (∀ x ∈ [(Space.tenant, (0 : DWord)), (.pool, 0), (.cluster, 0x14000)], ∃ (s p t : State) (vals : List (Nat × List Byte)),
      let m := s.formOf .load x.1 0
      s.vecCtx.memOk .load true false false ∧ s.vecCtx.regsOk [126, 127, 1] [1] ∧
        loadPure x.1 (memBytes 3 m.w16) (s.lanesAt 4 1 0) s = .ok () p ∧
        loadFrom x.1 m (memBytes 3 m.w16) (s.lanesAt 4 1 0) p = .ok vals t ∧ t.flagRoom 0) ∧
    ∃ (s t u : State) (bs : List Byte),
      let m := s.formOf .load .tenant 1
      s.vecCtx.memOk .load false false true ∧ pureLanes (s.badTenant false 8 [(partyLane, 0x100)]) s = .ok () t ∧
        tenantLoad m 8 [(partyLane, 0x100)] t = .ok [(partyLane, bs)] u ∧ bs.length = 8 ∧ u.flagRoom 0 := by
  have hall : ∀ x ∈ [(Space.tenant, (0 : DWord)), (.pool, 0), (.cluster, 0x14000)],
      let s := boxL.mapCur fun g => { g with s := g.s.set 4 x.2 }
      let m := s.formOf .load x.1 0
      okB (loadPure x.1 (memBytes 3 m.w16) (s.lanesAt 4 1 0) s) (fun _ p =>
          okB (loadFrom x.1 m (memBytes 3 m.w16) (s.lanesAt 4 1 0) p) fun _ t => room t 0) = true ∧
        (s.vecCtx.pre = Prefix.absent) ∧ (prefixOk false s.vecCtx.pre && !s.vecCtx.hasPre && ordOk .load 0) = true := by decide +kernel
  have hregs : ∀ x ∈ [(Space.tenant, (0 : DWord)), (.pool, 0), (.cluster, 0x14000)],
      (boxL.mapCur fun g => { g with s := g.s.set 4 x.2 }).vecCtx.regsOk [126, 127, 1] [1] := by
    unfold VCtx.regsOk; decide +kernel
  refine ⟨fun x hx => ?_, ?_⟩
  · obtain ⟨_, p, h0, h'⟩ := ok_of (hall x hx).1
    obtain ⟨v, t, h, hr⟩ := ok_of h'
    exact ⟨_, p, t, v, memOk_of (hall x hx).2.2 (hall x hx).2.1, hregs x hx, h0, h, flagRoom_of hr⟩
  · obtain ⟨_, t, h, h'⟩ := ok_of (r := pureLanes (box.badTenant false 8 [(partyLane, 0x100)]) box)
      (p := fun _ t => okB (tenantLoad (box.formOf .load .tenant 1) 8 [(partyLane, 0x100)] t) fun v u =>
        decide (v = [(partyLane, List.replicate 8 0)]) && room u 0) (by decide +kernel)
    obtain ⟨v, u, h2, hp⟩ := ok_of h'
    simp only [Bool.and_eq_true, decide_eq_true_eq] at hp
    exact ⟨box, t, u, List.replicate 8 0, memOk_of (by decide +kernel) (by decide +kernel), h, by rw [← hp.1]; exact h2, rfl, flagRoom_of hp.2⟩

/-- ST and STP of a byte a lane; STS; STP of words with nothing outstanding. -/
theorem witness_StoreWords :
    (∀ x ∈ [Space.tenant, .pool], ∃ (s p t : State) (kind : OpKind),
      let m := s.formOf .store x 0
      s.vecCtx.memOk .store false false false ∧ s.vecCtx.regsOk [127, 1] [127, 1] ∧
        storePure x (memBytes 0 m.w16) (s.lanesAt 4 1 0) s = .ok () p ∧
        storeTo x m (memBytes 0 m.w16) (s.lanesAt 4 1 0) (s.storedBytes 127 1 (memBytes 0 m.w16)) p = .ok kind t ∧ t.flagRoom 0) ∧
    (∃ (s p t : State) (kind : OpKind), s.vecCtx.memOk .store false false true ∧
      storePure .tenant 8 [(partyLane, 0x100)] s = .ok () p ∧
      storeTo .tenant (s.formOf .store .tenant 0) 8 [(partyLane, 0x100)]
        (fun _ => (List.range 8).map fun i => (s.curGroup.s.getD 5 0).extractLsb' (8 * i) 8) p = .ok kind t ∧ t.flagRoom 1) ∧
    ∃ s : State, s.running ∧ s.curPrefix = none ∧ s.mm1 s.cur.ctx = false ∧ s.lanesAt 4 1 0 ≠ [] ∧
      s.vecCtx.regsOk [126, 127, 1] [126, 127, 1] ∧ (∀ x ∈ s.lanesAt 4 1 0, (s.teamAt s.cur.ctx).inData x.2.toNat 8 = true) ∧
      s.moving s.cur.ctx = false ∧ s.flagRoom 0 := by
  have hall : ∀ x ∈ [Space.tenant, .pool], okB (storePure x (memBytes 0 (boxL.formOf .store x 0).w16) (boxL.lanesAt 4 1 0) boxL) (fun _ p =>
      okB (storeTo x (boxL.formOf .store x 0) (memBytes 0 (boxL.formOf .store x 0).w16) (boxL.lanesAt 4 1 0)
        (boxL.storedBytes 127 1 (memBytes 0 (boxL.formOf .store x 0).w16)) p) fun _ t => room t 0) = true := by decide +kernel
  refine ⟨fun x hx => ?_, ?_, boxL, running_of (by decide +kernel), by decide +kernel, by decide +kernel, by decide +kernel, boxL_regs,
    by decide +kernel, by decide +kernel, flagRoom_of (by decide +kernel)⟩
  · obtain ⟨_, p, h0, h'⟩ := ok_of (hall x hx)
    obtain ⟨k, t, h, hr⟩ := ok_of h'
    exact ⟨boxL, p, t, k, boxL_mem _ _ _ _, by unfold VCtx.regsOk; decide +kernel, h0, h, flagRoom_of hr⟩
  · obtain ⟨_, p, h0, h'⟩ := ok_of (r := storePure .tenant 8 [(partyLane, 0x100)] box) (p := fun _ p =>
      okB (storeTo .tenant (box.formOf .store .tenant 0) 8 [(partyLane, 0x100)]
        (fun _ => (List.range 8).map fun i => (box.curGroup.s.getD 5 0).extractLsb' (8 * i) 8) p) fun _ t => room t 1) (by decide +kernel)
    obtain ⟨k, t, h, hr⟩ := ok_of h'
    exact ⟨box, p, t, k, memOk_of (by decide +kernel) (by decide +kernel), h0, h, flagRoom_of hr⟩

/-- An operation of the group under f0. -/
def op7 (k : OpKind) : Op :=
  { id := 7, ctx := 0, grp := 0, flag := some 0, kind := k, parked := none, core := 0, lanes := 16, dim := 4096, dst := {}, src := {} }

/-- It is in flight, with stores queued. -/
def boxO (k : OpKind) (q : List QueuedStore) : State :=
  { (box.mapCur fun g => { g with sq := q, flags := g.flags.set 0 1 }) with ops := [op7 k] }

/-- A queued store of the operation. -/
def queued (pool : Bool) (a : Nat) (bs : List Byte) : QueuedStore :=
  { op := 7, pool := pool, cl := 0, wp := 1, prio := 0, writes := [(a, bs)] }

/-- A load, and an atomic that a peer has answered; a store at the window's end; a write-through store up to the end
of local HBM; stores through an aperture: near, at the home slice, and posted; refused. -/
theorem witness_MemoryCompletes :
    (∃ (s : State) (o : Op), s.memoryOp o.id = some o ∧ o.kind = .load) ∧
    (∃ (s : State) (o : Op), s.memoryOp o.id = some o ∧ o.kind = .peerAtomic 0x100) ∧
    (∃ (s : State) (o : Op) (q : QueuedStore) (a : Nat) (bs : List Byte), s.Inv ∧ s.memoryOp o.id = some o ∧ o.kind = .store none false ∧
      s.hasGroup o.ctx o.grp = true ∧ (s.groupAt o.ctx o.grp).parties ≠ [] ∧ (s.groupAt o.ctx o.grp).sq = [q] ∧ q.op = o.id ∧
      q.writes = [(a, bs)] ∧ q.pool = true ∧ (s.teams.any fun t => t.ctx == o.ctx) = true ∧ (s.teamAt o.ctx).resident = true ∧
      (s.teamAt o.ctx).unfilled = [] ∧ (s.teamAt o.ctx).leaving = [] ∧ a + bs.length = (s.teamAt o.ctx).granted) ∧
    (∃ (s : State) (o : Op) (q : QueuedStore) (a : Nat) (bs : List Byte), s.Inv ∧ s.memoryOp o.id = some o ∧ o.kind = .store none true ∧
      s.hasGroup o.ctx o.grp = true ∧ (s.groupAt o.ctx o.grp).parties ≠ [] ∧ (s.groupAt o.ctx o.grp).sq = [q] ∧ q.op = o.id ∧
      q.writes = [(a, bs)] ∧ q.pool = false ∧ q.wp = 1 ∧ a + bs.length = Config.hbmBytes ∧
      ∀ b ∈ s.side.combine, b.ctx ≠ o.ctx ∨ b.grp ≠ o.grp) ∧
    (∀ k ∈ [OpKind.store (some 0x100) true, .store (some 0x100) false, .posted 0x100], ∃ (s : State) (o : Op), s.memoryOp o.id = some o ∧
      o.kind = k ∧ (s.drainQueue o.ctx o.grp (some o.id)).refused o.id = false ∧ (s.drainPeers o).refused o.id = false) ∧
    (∃ (s : State) (o : Op), s.opAt o.id = some o ∧ o.peer = some 0x100) ∧ ∃ (s : State) (o : Op), s.opAt o.id = some o ∧ o.peer = none := by
  have hk : ∀ k ∈ [OpKind.store (some 0x100) true, .store (some 0x100) false, .posted 0x100], (boxO k []).memoryOp 7 = some (op7 k) ∧
      ((boxO k []).drainQueue 0 0 (some 7)).refused 7 = false ∧ ((boxO k []).drainPeers (op7 k)).refused 7 = false := by decide +kernel
  refine ⟨⟨boxO .load [], op7 .load, by decide +kernel, rfl⟩, ⟨boxO (.peerAtomic 0x100) [], op7 (.peerAtomic 0x100), by decide +kernel, rfl⟩,
    ⟨boxO (.store none false) [queued true 12280 (List.replicate 8 1)], op7 (.store none false), queued true 12280 (List.replicate 8 1),
      12280, List.replicate 8 1, ?_, by decide +kernel, rfl, by decide +kernel, by decide +kernel, rfl, rfl, rfl, rfl, by decide +kernel,
      by decide +kernel, by decide +kernel, by decide +kernel, by decide +kernel⟩,
    ⟨boxO (.store none true) [queued false (Config.hbmBytes - 1) [1]], op7 (.store none true), queued false (Config.hbmBytes - 1) [1],
      Config.hbmBytes - 1, [1], ?_, by decide +kernel, rfl, by decide +kernel, by decide +kernel, rfl, rfl, rfl, rfl, rfl, by decide +kernel,
      fun _ h => nomatch h⟩,
    fun k hk' => ⟨boxO k [], op7 k, (hk k hk').1, rfl, (hk k hk').2.1, (hk k hk').2.2⟩,
    ⟨boxO (.refused 0x100 2) [], op7 (.refused 0x100 2), by decide +kernel, rfl⟩, boxO .load [], op7 .load, by decide +kernel, rfl⟩
  all_goals
    unfold State.Inv State.MemWf State.Shape Group.Shape
    decide +kernel

/-- ATOM and ATOMP.FADD on words a lane; ATOMC of 4 and 16 bytes; ATOMP of 8 bytes in lane 14 alone. -/
def boxA : State := boxL.mapCur fun g => { g with m := g.m.set 0 0x4000 }

theorem boxA_inv : boxA.Inv := by
  unfold State.Inv State.MemWf State.Shape Group.Shape
  decide +kernel

theorem witness_AtomicWords :
    (∀ x ∈ [(Space.tenant, 0), (.pool, 9)], ∃ (s p t : State) (i : Instr) (olds : List (Nat × Nat)),
      atomTable i = some (x.1, x.2, 0, 0, 127, 1, 4) ∧ s.vecCtx.memOk .atomic false false false ∧
      s.vecCtx.regsOk [127, 1] [127, 1] ∧ atomicPure x.1 (s.lanesAt 4 1 0) s = .ok () p ∧
      atomicOn x.1 (s.formOf .atomic x.1 0) x.2 4 (s.lanesAt 4 1 0) (fun l => [s.atomSource 127 1 l])
        (fun l old => some (atomOp x.2 4 old (s.atomSource 127 1 l))) p = .ok olds t ∧ t.flagRoom 0) ∧
    (∀ x ∈ [(0 : BitVec 2), 2], ∃ (s p t : State) (olds : List (Nat × Nat)),
      let k := 2 ^ x.toNat
      let num (r l : Nat) : Nat := ((List.range k).map fun j => (s.curGroup.lane (r + j) l).toNat * 2 ^ (32 * j)).sum
      s.vecCtx.memOk .atomic false false false ∧
      s.vecCtx.regsOk ((List.range (3 * k)).map (10 + ·) ++ [1]) ((List.range (2 * k)).map (10 + ·) ++ [1]) ∧
      atomicPure .tenant (s.lanesAt 4 1 0) s = .ok () p ∧
      atomicOn .tenant (s.formOf .atomic .tenant 0) 16 (4 * k) (s.lanesAt 4 1 0) (fun l => [num (10 + k) l, num 10 l])
        (fun l old => if old = num (10 + k) l then some (num 10 l) else none) p = .ok olds t ∧ t.flagRoom 0) ∧
    ∃ (s : State) (i : Instr) (code : Nat) (l : Nat) (a : DWord), atomTable i = some (.pool, code, 1, 0, 126, 1, 4) ∧ s.Inv ∧
      s.running ∧ s.curPrefix = none ∧ s.mm1 s.cur.ctx = false ∧ s.curGroup.sq = [] ∧ s.lanesAt 4 1 0 = [(l, a)] ∧
      s.vecCtx.regsOk [126, 127, 1] [126, 127, 1] ∧ (s.teamAt s.cur.ctx).inData a.toNat 8 = true ∧ a.toNat % 8 = 0 ∧
      s.moving s.cur.ctx = false ∧ (∀ p ∈ (s.teamAt s.cur.ctx).poison, p < a.toNat ∨ a.toNat + 8 ≤ p) ∧ s.flagRoom 0 := by
  refine ⟨fun x hx => ?_, fun x hx => ?_, boxA, .atompAdd 0 1 126 1 4, 0, 14, 4152, rfl, boxA_inv, running_of (by decide +kernel),
    by decide +kernel, by decide +kernel, by decide +kernel, by decide +kernel, by unfold VCtx.regsOk; decide +kernel, by decide +kernel,
    by decide +kernel, by decide +kernel, by decide +kernel, flagRoom_of (by decide +kernel)⟩
  · have h : ∀ x ∈ [(Space.tenant, 0), (.pool, 9)], okB (atomicPure x.1 (boxL.lanesAt 4 1 0) boxL) (fun _ p =>
        okB (atomicOn x.1 (boxL.formOf .atomic x.1 0) x.2 4 (boxL.lanesAt 4 1 0)
          (fun l => [boxL.atomSource 127 1 l]) (fun l old => some (atomOp x.2 4 old (boxL.atomSource 127 1 l))) p)
          fun _ t => room t 0) = true := by decide +kernel
    have ht : atomTable (if x.2 = 0 then .atomAdd 0 0 127 1 4 else .atompFadd 0 127 1 4) = some (x.1, x.2, 0, 0, 127, 1, 4) := by
      simp only [List.mem_cons, List.not_mem_nil, or_false] at hx
      rcases hx with rfl | rfl <;> rfl
    obtain ⟨_, p, h0, h'⟩ := ok_of (h x hx)
    obtain ⟨v, t, h1, hr⟩ := ok_of h'
    exact ⟨boxL, p, t, _, v, ht, boxL_mem _ _ _ _, by unfold VCtx.regsOk; decide +kernel, h0, h1, flagRoom_of hr⟩
  · let b : State := boxV [(1, fun l => BitVec.ofNat 32 (16 * l))]
    have h : ∀ x ∈ [(0 : BitVec 2), 2],
        let k := 2 ^ x.toNat
        let num (r l : Nat) : Nat := ((List.range k).map fun j => (b.curGroup.lane (r + j) l).toNat * 2 ^ (32 * j)).sum
        okB (atomicPure .tenant (b.lanesAt 4 1 0) b) (fun _ p =>
          okB (atomicOn .tenant (b.formOf .atomic .tenant 0) 16 (4 * k) (b.lanesAt 4 1 0) (fun l => [num (10 + k) l, num 10 l])
            (fun l old => if old = num (10 + k) l then some (num 10 l) else none) p) fun _ t => room t 0) = true := by decide +kernel
    have hr : ∀ x ∈ [(0 : BitVec 2), 2], b.vecCtx.regsOk ((List.range (3 * 2 ^ x.toNat)).map (10 + ·) ++ [1])
        ((List.range (2 * 2 ^ x.toNat)).map (10 + ·) ++ [1]) := by unfold VCtx.regsOk; decide +kernel
    obtain ⟨_, p, h0, h'⟩ := ok_of (h x hx)
    obtain ⟨v, t, h1, hf⟩ := ok_of h'
    exact ⟨b, p, t, v, memOk_of (by decide +kernel) (by decide +kernel), hr x hx, h0, h1, flagRoom_of hf⟩

/-- FENCE.SYS of a release with a load outstanding that no peer answers; PREF and CCTL of a line a lane, with nt. -/
theorem witness_FenceAndCacheWords :
    (∃ s : State, s.flagless s.cur.ctx s.cur.grp = false ∧ (∀ d ∈ s.curGroup.deferred, d.flag ≠ none) ∧
      s.awaitsPeers s.cur.ctx s.cur.grp = false ∧ s.ops ≠ []) ∧
    (∀ l1 : Bool, ∃ s : State, prefixOk true s.vecCtx.pre = true ∧ s.vecCtx.regsOk [1] [1] ∧
      ((s.lanesAt 4 1 0).foldl (fun t x => t.prefLane l1 true x.2) s).flagRoom 0) ∧
    ∃ (s t : State) (ts : List (Option Trans)), prefixOk true s.vecCtx.pre = true ∧ s.vecCtx.regsOk [1] [1] ∧
      (s.lanesAt 4 1 0).mapM cctlTarget s = .ok ts t ∧
      (ts.foldl (fun u x => match x with
        | some y => if inSvc y.pa then u else u.cctlAct true true true (y.pa / 256)
        | none => u) t).flagRoom 0 := by
  refine ⟨⟨boxO .load [], by decide +kernel, by decide +kernel, by decide +kernel, by decide +kernel⟩,
    fun l1 => ⟨boxL, by decide +kernel, by unfold VCtx.regsOk; decide +kernel, flagRoom_of (by cases l1 <;> decide +kernel)⟩, ?_⟩
  obtain ⟨ts, t, h, hr⟩ := ok_of (r := (boxL.lanesAt 4 1 0).mapM cctlTarget boxL)
    (p := fun ts t => room (ts.foldl (fun u x => match x with
        | some y => if inSvc y.pa then u else u.cctlAct true true true (y.pa / 256)
        | none => u) t) 0) (by decide +kernel)
  exact ⟨boxL, t, ts, by decide +kernel, by unfold VCtx.regsOk; decide +kernel, h, flagRoom_of hr⟩

/-- A second group whose main side waits on a pool request, or for something else. -/
def boxW (w : Wait) : State :=
  { box with groups := box.groups ++ [{ wordGroup 0 with idx := 1, main := { wordParty 0 with wait := w, active := false } }] }

/-- 200 granules of core 0 belong to context 5, saved where `kept`, else to none of the teams. -/
def boxSaved (kept : Bool) : State :=
  let gs := (List.range 200).map fun i => Granule.inPool (40 + i)
  { box with
    teams := team :: (if kept then [{ team with ctx := 5, granules := gs, state := .savedRetained, retained := true, accAt := 0, stagingAt := 0, sharedAt := 0 }] else [])
    poolMap := box.poolMap ++ (List.range 200).map fun i =>
      ((0, 40 + i), { ctx := 5, wg := i, region := .shared, shared := false, retired := false, dirty := false, parked := none }) }

/-- With another stall limit. -/
def boxStall (st : Nat) (s : State) : State :=
  { s with launches := [{ launch with bytes := launch.bytes.set 0x28 (BitVec.ofNat 8 st) }] }

/-- PGROW to exactly SHMAX; a request in front of it; one past 240; one that takes retained granules; one with too few,
which may wait or not; PSHRINK; PSHARE of a run that is shared and of one that is not, in
place, apart, and apart with a shared granule in it. -/
theorem witness_PoolSizeWords :
    (∃ s : State, s.Inv ∧ s.running ∧ s.curGroup.s.length = 32 ∧ (s.teams.any fun t => t.ctx == s.cur.ctx) = true ∧ s.atFirst ∧
      s.myTeam.granules.length - s.myTeam.sharedAt + 98 = (s.launchOf s.cur.ctx).shMax ∧ s.moving s.cur.ctx = false ∧
      let w := s.passAll s.myTeam.core
      w.stalled s.myTeam.core = [] ∧ 98 ≤ w.l1Spare s.myTeam.core) ∧
    (∀ st ∈ [0, 16], ∃ s : State, s.running ∧ s.curGroup.s.length = 32 ∧ (s.teams.any fun t => t.ctx == s.cur.ctx) = true ∧ s.atFirst ∧
      s.myTeam.granules.length - s.myTeam.sharedAt + 1 ≤ (s.launchOf s.cur.ctx).shMax ∧ (s.launchOf s.cur.ctx).stall = st ∧
      let w := s.passAll s.myTeam.core
      w.stalled s.myTeam.core ≠ [] ∧ s.cur ∈ State.served (w.stalled s.myTeam.core ++ [(s.cur, 1)]) w) ∧
    (∃ s : State, s.running ∧ s.curGroup.s.length = 32 ∧ (s.teams.any fun t => t.ctx == s.cur.ctx) = true ∧ s.atFirst ∧
      (s.opZ 1 241).toNat = 241) ∧
    (∃ (s : State) (old : List (Nat × Nat)) (ps : List Nat), s.running ∧ s.curGroup.s.length = 32 ∧
      (s.teams.any fun t => t.ctx == s.cur.ctx) = true ∧ s.atFirst ∧
      s.myTeam.granules.length - s.myTeam.sharedAt + 40 ≤ (s.launchOf s.cur.ctx).shMax ∧ old.length = 3 ∧ old.Nodup ∧
      (∀ x ∈ old, x.1 ≠ s.cur.ctx) ∧
      let w := s.passAll s.myTeam.core
      w.stalled s.myTeam.core = [] ∧ w.l1Spare s.myTeam.core = 37 ∧ old = (w.retainedOn s.myTeam.core).take 3 ∧
      old.map (fun x => (w.teamAt x.1).granules.getD x.2 .inBacking) = ps.map Granule.inPool ∧
      ∀ p ∈ ps, (w.poolEntry s.myTeam.core p).map (·.dirty) = some false) ∧
    (∀ st ∈ [0, 16], ∃ s : State, s.running ∧ s.curGroup.s.length = 32 ∧ (s.teams.any fun t => t.ctx == s.cur.ctx) = true ∧
      s.atFirst ∧ s.myTeam.granules.length - s.myTeam.sharedAt + 38 ≤ (s.launchOf s.cur.ctx).shMax ∧
      (s.launchOf s.cur.ctx).stall = st ∧
      let w := s.passAll s.myTeam.core
      w.grantable s.myTeam.core = 37 ∧ s.cur ∉ State.served (w.stalled s.myTeam.core ++ [(s.cur, 38)]) w) ∧
    (∃ (s : State) (x : BitVec 8), x.toNat < 8 ∧ 6 ≤ x.toNat ∧ (s.launchOf s.cur.ctx).isPure = false) ∧
    (∃ (s : State) (b : BitVec 8), (s.opZ 1 b).toNat = 0 ∧ (s.selS 0xC3).toNat / 4096 ∉ s.myTeam.shared) ∧
    (∃ (s : State) (b : BitVec 8), (s.opZ 1 b).toNat = 0 ∧ (s.selS 0xC3).toNat / 4096 ∈ s.myTeam.shared ∧ s.running ∧
      s.curGroup.s.length = 32 ∧ (s.teams.any fun t => t.ctx == s.cur.ctx) = true) ∧
    (∃ s : State, (s.opZ 1 2).toNat = 2 ∧ (s.selS 0xC3).toNat = 4096 ∧ s.myTeam.inData 4096 8192 = true ∧
      ∀ j < 2, s.myTeam.granules.getD (1 + j) .inBacking = .inPool (21 + j)) ∧
    ∀ sh ∈ [[], [2]], ∃ s : State, (s.opZ 1 2).toNat = 2 ∧ (s.selS 0xC3).toNat = 4096 ∧ s.myTeam.inData 4096 8192 = true ∧
      s.myTeam.inPlace 1 2 = none ∧ s.canMove s.myTeam 1 2 = sh.isEmpty ∧ ((∃ j < 2, 1 + j ∈ s.myTeam.shared) ↔ sh ≠ []) := by
  refine ⟨⟨box, box_inv, box_running, by decide +kernel, by decide +kernel, ⟨clauseOf [0x18000000], by decide +kernel, rfl⟩, by decide +kernel,
      by decide +kernel, by decide +kernel⟩,
    fun st hs => ?_,
    ⟨box, box_running, by decide +kernel, by decide +kernel, ⟨clauseOf [0x18000000], by decide +kernel, rfl⟩, by decide +kernel⟩,
    ⟨boxSaved true, [(5, 199), (5, 198), (5, 197)], [239, 238, 237], running_of (by decide +kernel), by decide +kernel,
      by decide +kernel, ⟨clauseOf [0x18000000], by decide +kernel, rfl⟩, by decide +kernel, rfl, by decide, by decide, by decide +kernel⟩,
    fun st hs => ?_,
    ⟨box, 7, by decide, by decide, by decide +kernel⟩, ⟨boxS [(3, 4096)], 0, by decide +kernel⟩,
    ⟨boxL.mapCur fun g => { g with s := g.s.set 3 4096 }, 0, by decide +kernel, by decide +kernel,
      running_of (by decide +kernel), by decide +kernel, by decide +kernel⟩,
    ⟨boxS [(3, 4096)], by decide +kernel⟩,
    fun sh hs => ⟨{ boxS [(3, 4096)] with teams := [{ team with granules := [.inPool 20, .inPool 21, .inPool 30], shared := sh }] }, ?_⟩⟩
  · have h : ∀ st ∈ [0, 16],
        let b := boxStall st (boxW (.pgrow 1 0 0))
        let w := b.passAll b.myTeam.core
        runB b = true ∧ b.curGroup.s.length = 32 ∧ (b.teams.any fun t => t.ctx == b.cur.ctx) = true ∧
        b.curParty.clause = some (clauseOf [0x18000000]) ∧
        b.myTeam.granules.length - b.myTeam.sharedAt + 1 ≤ (b.launchOf b.cur.ctx).shMax ∧ (b.launchOf b.cur.ctx).stall = st ∧
        w.stalled b.myTeam.core ≠ [] ∧ b.cur ∈ State.served (w.stalled b.myTeam.core ++ [(b.cur, 1)]) w := by decide +kernel
    obtain ⟨h1, h2, h3, h4, h5⟩ := h st hs
    exact ⟨_, running_of h1, h2, h3, ⟨_, h4, rfl⟩, h5⟩
  · have h : ∀ st ∈ [0, 16],
        let b := boxStall st (boxSaved false)
        let w := b.passAll b.myTeam.core
        runB b = true ∧ b.curGroup.s.length = 32 ∧ (b.teams.any fun t => t.ctx == b.cur.ctx) = true ∧
        b.curParty.clause = some (clauseOf [0x18000000]) ∧
        b.myTeam.granules.length - b.myTeam.sharedAt + 38 ≤ (b.launchOf b.cur.ctx).shMax ∧ (b.launchOf b.cur.ctx).stall = st ∧
        w.grantable b.myTeam.core = 37 ∧ b.cur ∉ State.served (w.stalled b.myTeam.core ++ [(b.cur, 38)]) w := by decide +kernel
    obtain ⟨h1, h2, h3, h4, h5⟩ := h st hs
    exact ⟨_, running_of h1, h2, h3, ⟨_, h4, rfl⟩, h5⟩
  · revert hs
    revert sh
    decide +kernel

/-- A barrier word in the window and in tenant memory, at their last scopes. -/
theorem witness_BarrierWords :
    ∀ x ∈ [((1 : BitVec 1), (1 : BitVec 3)), (0, 5)], ∃ (s t u v : State) (o o' : Nat) (w : DWord), barrierScope x.1 x.2 ∧ s.atFirst ∧
      (let n := (s.curGroup.s.getD 4 0).toNat % 2 ^ 16
       barAtomic true true (x.1 == 1) 1 x.2.toNat [n] (s.selS 0xC3) (fun _ => some n) s = .ok o t) ∧
      barAtomic true true (x.1 == 1) 16 x.2.toNat [] (s.selS 0xC3) (fun w => some (arrive w)) s = .ok o' u ∧
      barAtomic false false (x.1 == 1) 17 x.2.toNat [] (s.selS 0xC3) (fun _ => none) s = .ok w.toNat v := by
  have h : ∀ x ∈ [((1 : BitVec 1), (1 : BitVec 3)), (0, 5)],
      let s := boxS [(3, 4096)]
      let n := (s.curGroup.s.getD 4 0).toNat % 2 ^ 16
      okB (barAtomic true true (x.1 == 1) 1 x.2.toNat [n] (s.selS 0xC3) (fun _ => some n) s)
          (fun _ _ => true) = true ∧
        okB (barAtomic true true (x.1 == 1) 16 x.2.toNat [] (s.selS 0xC3) (fun w => some (arrive w)) s) (fun _ _ => true) = true ∧
        okB (barAtomic false false (x.1 == 1) 17 x.2.toNat [] (s.selS 0xC3) (fun _ => none) s) (fun o _ => decide (o = 0)) = true := by
    decide +kernel
  have hs : ∀ x ∈ [((1 : BitVec 1), (1 : BitVec 3)), (0, 5)], barrierScope x.1 x.2 := by unfold barrierScope; decide
  intro x hx
  obtain ⟨o, t, h1, -⟩ := ok_of (h x hx).1
  obtain ⟨o', u, h2, -⟩ := ok_of (h x hx).2.1
  obtain ⟨w, v, h3, h4⟩ := ok_of (h x hx).2.2
  exact ⟨_, t, u, v, o, o', 0, hs x hx, ⟨clauseOf [0x18000000], by decide +kernel, rfl⟩, h1, h2,
    by rw [show w = (0 : DWord).toNat from of_decide_eq_true h4] at h3; exact h3⟩

/-- A descriptor from (offset, bytes, value), at window offset 4096. -/
def descOf (fs : List (Nat × Nat × Nat)) : List Byte :=
  fs.foldl (fun d f => (List.range f.2.1).foldl (fun d i => d.set (f.1 + i) (byteOf f.2.2 i)) d) (List.replicate 64 0)

def boxD (bs : List Byte) : State :=
  { boxS [(3, 4096)] with
    teams := [{ team with pool := ((List.range 64).map fun i => (4096 + i, bs.getD i 0)).filter fun c => c.2 != 0 }]
    slotTab := [(9, { slot := 9, tf := 0, en := true })] }

/-- CPY of 1 row of 8 bytes from the window's data to itself, the last of 32 slices; CPYGT of its row 0; CPYIM of one
pixel. -/
def cpyDesc : List Byte :=
  descOf [(0, 8, 8192), (8, 8, 8256), (0x10, 4, 8), (0x14, 4, 1), (0x2C, 1, 32), (0x2D, 1, 5)]
def gtDesc : List Byte :=
  descOf [(0, 8, 8192), (8, 8, 8256), (0x10, 4, 8), (0x14, 4, 1), (0x2C, 1, 32), (0x2D, 1, 5), (0x38, 4, 8320)]
def imDesc : List Byte :=
  descOf [(0, 8, 0), (8, 8, 8256), (0x10, 2, 1), (0x12, 2, 1), (0x14, 2, 1), (0x16, 2, 8), (0x18, 4, 0x01010101), (0x1C, 2, 0x0101),
    (0x20, 2, 1), (0x22, 2, 1), (0x2C, 1, 32), (0x2D, 1, 4), (0x2E, 2, 1), (0x3C, 4, 8)]
/-- A collective of 4 bytes on slot 9. -/
def colDesc : List Byte := descOf [(0, 8, 0x100), (8, 4, 4), (0xC, 4, 9), (0x10, 1, 6)]

theorem boxD_full (bs : List Byte) : (boxD bs).fullMask := by
  have h : (boxS [(3, 4096)]).curGroup.m.getD 0 0 = BitVec.ofNat 64 (2 ^ (boxS [(3, 4096)]).curGroup.width - 1) := by decide +kernel
  exact ⟨rfl, h⟩

theorem witness_CopyWords :
    (∀ x ∈ [(0, cpyDesc), (1, imDesc), (2, gtDesc)], ∃ (s : State) (desc bs : List Byte), s.fullMask ∧ s.moving s.cur.ctx = false ∧
      readCopy s.myTeam (fun a n => s.ownBytes s.cur.ctx s.cur.grp true a (s.poolBytes s.cur.ctx a n)) x.1 4096 31 true = some desc ∧
      readPool 4096 64 s = .ok bs s ∧ s.flagRoom 1) ∧
    (∀ en : Bool, ∃ (s : State) (desc : List Byte), (s.launchOf s.cur.ctx).isPure = false ∧ s.fullMask ∧ s.moving s.cur.ctx = false ∧
      s.myTeam.inData 4096 64 = true ∧ readPool 4096 64 s = .ok desc s ∧ collectiveOk desc = true ∧ s.flagRoom 1 ∧
      let u := s.engineOp 1 true (.crecv (cSlot desc) (cOp desc) (cBuf desc) (cBytes desc) 4096) false
      let v := s.engineOp 1 true (.csend (cSlot desc) (cOp desc) (cBuf desc) (cBytes desc) [] 4096) false
      u.slotServes (u.tfOf u.cur.ctx) (cSlot desc) = en ∧ v.slotServes (v.tfOf v.cur.ctx) (cSlot desc) = en) ∧
    ∃ (s : State) (bs : List Byte), s.myTeam.inData 4096 8 = true ∧ s.moving s.cur.ctx = false ∧ readPool 4096 8 s = .ok bs s ∧
      bs.length = 8 ∧ s.atFirst := by
  have hread : ∀ x ∈ [(0, cpyDesc), (1, imDesc), (2, gtDesc)], (boxD x.2).moving 0 = false ∧
      ((readCopy (boxD x.2).myTeam (fun a n => (boxD x.2).ownBytes 0 0 true a ((boxD x.2).poolBytes 0 a n)) x.1 4096 31 true).isSome
        = true) ∧ okB (readPool 4096 64 (boxD x.2)) (fun _ u => decide (u = boxD x.2)) = true ∧ room (boxD x.2) 1 = true := by
    decide +kernel
  refine ⟨fun x hx => ?_, ?_, ?_⟩
  · obtain ⟨h1, h2, h3, h4⟩ := hread x hx
    obtain ⟨desc, hd⟩ := Option.isSome_iff_exists.mp h2
    obtain ⟨bs, u, hb, hu⟩ := ok_of h3
    rw [of_decide_eq_true hu] at hb
    exact ⟨boxD x.2, desc, bs, boxD_full _, h1, hd, hb, flagRoom_of h4⟩
  · intro en
    let s : State := if en then boxD colDesc else { boxD colDesc with slotTab := [] }
    obtain ⟨bs, u, hb, hu⟩ := ok_of (r := readPool 4096 64 s)
      (p := fun bs u => decide (bs = colDesc) && decide (u = s)) (by cases en <;> decide +kernel)
    simp only [Bool.and_eq_true, decide_eq_true_eq] at hu
    rw [hu.1, hu.2] at hb
    exact ⟨s, colDesc, by cases en <;> decide +kernel, by cases en <;> exact ⟨rfl, by decide +kernel⟩, by cases en <;> decide +kernel,
      by cases en <;> decide +kernel, hb, by decide +kernel, flagRoom_of (by cases en <;> decide +kernel),
      by cases en <;> decide +kernel, by cases en <;> decide +kernel⟩
  · obtain ⟨bs, u, hb, hu⟩ := ok_of (r := readPool 4096 8 box) (p := fun bs u => decide (bs.length = 8) && decide (u = box)) (by decide +kernel)
    simp only [Bool.and_eq_true, decide_eq_true_eq] at hu
    rw [hu.2] at hb
    exact ⟨box, bs, by decide +kernel, by decide +kernel, hb, hu.1, clauseOf [0x18000000], by decide +kernel, rfl⟩
/-- LDW's control word: one row of one INT8 element. -/
def ldwCtrl : DWord := 0x800040101

theorem full_of {s : State} (h : s.cur.frag = none) (h' : s.curGroup.m.getD 0 0 = BitVec.ofNat 64 (2 ^ s.curGroup.width - 1)) :
    s.fullMask := ⟨h, h'⟩

theorem box_full : box.fullMask := full_of rfl (by decide +kernel)

theorem box_tile : box.tileReady 0 := ⟨by decide +kernel, by decide +kernel⟩

theorem witness_MatrixWords :
    (∃ (s : State) (c : BitVec 8), s.fullMask ∧ ldwOk (s.selS c) = true ∧ s.flagRoom 1) ∧
    (∀ x ∈ [((8 : Nat), (0 : BitVec 1), 112), (5, 1, 111)],
      let run := (List.range (16 + x.2.1.toNat)).map (x.2.2 + ·)
      mmaForm x.1 (x.2.1 == 1) = true ∧ x.2.2 + run.length = 128 ∧ box.vecCtx.regsOk run run) ∧
    (box.fullMask ∧ box.tileReady 0 ∧ box.flagRoom 1 ∧ prefixOk true box.vecCtx.pre = true ∧
      box.vecCtx.regsOk ((List.range 16).map (112 + ·)) ((List.range 16).map (112 + ·)) ∧ box.stepsOn 0 0 = false ∧ box.running ∧
      readTile 0 box = .ok (box.accTile 0) box) ∧
    (∀ f ∈ [1, 2, 3, 4, 6, 8],
      let dst := numFmt f
      let one (m e : Nat) : FRes := convert { box.fenv box.vecCtx (ftzFmt dst) m e with daz := false } (.flt .fp32) dst ((box.accTile 0).elem m (112 + e)).toNat
      box.quiet (box.vecCtx.lanes.foldl (fun x m => x ||| (List.range 16).foldl (fun y e => y ||| (one m e).flags) 0) 0) ∧
        box.vecCtx.regsOk ((List.range (dst.width / 2)).map ((128 - dst.width / 2) + ·)) []) ∧
    (0 < (box.launchOf 0).nAcc ∧ 0 < box.myTeam.acc.length ∧ (box.teams.any fun x => x.ctx == 0) = true ∧
      box.curGroup.ending = false ∧ (box.accTile 0).alloc = true) := by
  have hr : ∀ x ∈ [((8 : Nat), (0 : BitVec 1), 112), (5, 1, 111)], box.vecCtx.regsOk ((List.range (16 + x.2.1.toNat)).map (x.2.2 + ·))
      ((List.range (16 + x.2.1.toNat)).map (x.2.2 + ·)) := by unfold VCtx.regsOk; decide +kernel
  have hm : ∀ x ∈ [((8 : Nat), (0 : BitVec 1), 112), (5, 1, 111)], mmaForm x.1 (x.2.1 == 1) = true ∧
      x.2.2 + ((List.range (16 + x.2.1.toNat)).map (x.2.2 + ·)).length = 128 := by decide +kernel
  obtain ⟨a, u, h1, h2⟩ := ok_of (r := readTile 0 box) (p := fun a u => decide (a = box.accTile 0) && decide (u = box)) (by decide +kernel)
  simp only [Bool.and_eq_true, decide_eq_true_eq] at h2
  rw [h2.1, h2.2] at h1
  refine ⟨⟨boxS [(3, ldwCtrl)], 0xC3, full_of rfl (by decide +kernel), by decide +kernel, flagRoom_of (by decide +kernel)⟩,
    fun x hx => ⟨(hm x hx).1, (hm x hx).2, hr x hx⟩,
    ⟨box_full, box_tile, flagRoom_of (by decide +kernel), by decide +kernel, by unfold VCtx.regsOk; decide +kernel, by decide +kernel,
      box_running, h1⟩, ?_, by decide +kernel⟩
  unfold State.quiet VCtx.regsOk
  decide +kernel

/-- HVLD, HVST and HVNEAR up to the window's last byte: one hypervector of 4096 bits, and a list of two. -/
theorem witness_HypervectorWords :
    (∃ (s : State) (i : Instr) (hs bs : List Nat) (w : HvWord), hvTable s i = some (hs, bs, w) ∧ s.hvOk hs bs) ∧
    (∃ (s : State) (d : BitVec 7) (i : BitVec 8), prefixOk true s.vecCtx.pre = true ∧ s.hvOk [0] [] ∧
      s.vecCtx.regsOk (d.toNat :: selRegs i) (d.toNat :: selRegs i)) ∧
    (∃ (s : State) (a : DWord), s.hvOk [0] [] ∧ a.toNat % 8 = 0 ∧ s.myTeam.inData a.toNat (s.curGroup.hdim / 8) = true ∧
      a.toNat + s.curGroup.hdim / 8 = s.myTeam.granted ∧ s.flagRoom 1 ∧ 0 ∉ s.curGroup.hbPoison ∧
      s.moving s.cur.ctx = false) ∧
    ∃ s : State,
      let base := s.curGroup.s.getD 30 0
      let n := (s.curGroup.s.getD 31 0).toNat % 2 ^ 32
      s.hvOk [0] [] ∧ base.toNat % 8 = 0 ∧ n = 2 ∧ s.myTeam.inData base.toNat (n * (s.curGroup.hdim / 8)) = true ∧ s.flagRoom 1 ∧
        s.moving s.cur.ctx = false := by
  refine ⟨⟨box, .hvbun 0 0, [0], [0], .bun 0 0 false, rfl, by unfold State.hvOk; decide +kernel⟩,
    ⟨box, 127, 0xF1, by decide +kernel, by unfold State.hvOk; decide +kernel, by unfold VCtx.regsOk; decide +kernel⟩,
    ⟨box, 11776, by unfold State.hvOk; decide +kernel, by decide, by decide +kernel, by decide +kernel, flagRoom_of (by decide +kernel),
      by decide +kernel, by decide +kernel⟩,
    boxS [(30, 11264), (31, 2 ^ 32 + 2)], by unfold State.hvOk; decide +kernel, by decide +kernel, by decide +kernel, by decide +kernel,
    flagRoom_of (by decide +kernel), by decide +kernel⟩

/-- EMIT of 256 records to the last successor, of 257, and past the last; LAUNCH at 512 and at 511. -/
theorem witness_TaskWords :
    (∃ s : State, (s.launchOf s.cur.ctx).isPure = false ∧ 1 < (s.launchOf s.cur.ctx).nSucc ∧ (s.curGroup.s.getD 5 0).toNat = 256 ∧
      s.recBytes (s.launchOf s.cur.ctx) 1 = none ∧ s.moving s.cur.ctx = false ∧ (s.engineIssue s.cur.ctx s.cur.grp false).flagRoom 0) ∧
    (∃ s : State, (s.launchOf s.cur.ctx).nSucc ≤ 2) ∧ (∃ s : State, 256 < (s.curGroup.s.getD 5 0).toNat) ∧ (∃ s : State, s.flagRoom 0) ∧
    (∃ s : State, (s.curGroup.s.getD 5 0).toNat % 512 = 0 ∧ (s.releaseActions s.cur.ctx s.cur.grp 4).flagRoom 0) ∧
    ∃ s : State, (s.curGroup.s.getD 5 0).toNat % 512 ≠ 0 :=
  ⟨⟨boxS [(5, 256)], by decide +kernel, by decide +kernel, by decide +kernel, by decide +kernel, by decide +kernel,
      flagRoom_of (by decide +kernel)⟩,
    ⟨box, by decide +kernel⟩, ⟨boxS [(5, 257)], by decide +kernel⟩, ⟨box, flagRoom_of (by decide +kernel)⟩,
    ⟨boxS [(5, 512)], by decide +kernel, flagRoom_of (by decide +kernel)⟩, boxS [(5, 511)], by decide +kernel⟩

theorem boxT_handling : boxT.handling := ⟨by decide +kernel, by decide +kernel⟩

theorem witness_SystemWords :
    (∃ (s : State) (x : BitVec 8), x.toNat < 14 ∧ x.toNat = 13 ∧ (s.launchOf s.cur.ctx).isPure = false) ∧
    (∃ (s : State) (b : BitVec 8), ((s.selS b).setWidth 32 : Word).toNat % 8 ≠ 7) ∧
    (∃ (s : State) (b : BitVec 8), ((s.selS b).setWidth 32 : Word).toNat % 8 = 7) ∧
    (∃ s : State, ∀ o ∈ s.ops, o.ctx = s.cur.ctx → o.grp = s.cur.grp → o.kind.isHv = false) ∧
    (∃ (s : State) (b : BitVec 8), s.handling ∧ (s.selS b).getLsbD 8 = true ∧ (s.selS b).toNat % 8 = 7) ∧
    (∃ s : State, ¬ s.handling) ∧ (∃ s : State, s.handling ∧ (s.launchOf s.cur.ctx).killed = none ∧ s.launches ≠ []) ∧
    (∃ (s : State) (c : Clause), s.curParty.clause = some c ∧ c.idx < (c.hdr.extractLsb' 28 4).toNat ∧
      ((c.words.getD c.idx 0).extractLsb' 25 7).toNat = 0x28) ∧
    (∃ (s : State) (c : Clause), s.curParty.clause = some c ∧ (c.hdr.extractLsb' 28 4).toNat ≤ c.idx) ∧
    ∃ (s : State) (c : Clause), s.curParty.clause = some c ∧ ((c.words.getD c.idx 0).extractLsb' 25 7).toNat = 0x66 :=
  ⟨⟨box, 13, by decide, by decide, by decide +kernel⟩, ⟨boxS [(3, 6)], 0xC3, by decide +kernel⟩, ⟨boxS [(3, 7)], 0xC3, by decide +kernel⟩,
    ⟨boxO .load [], by decide +kernel⟩,
    ⟨boxT.mapCur fun g => { g with s := g.s.set 3 0x107 }, 0xC3, ⟨by decide +kernel, by decide +kernel⟩, by decide +kernel, by decide +kernel⟩,
    ⟨box, by unfold State.handling; decide +kernel⟩, ⟨boxT, boxT_handling, by decide +kernel, by decide +kernel⟩,
    ⟨boxWith (clauseOf [0xFE000000, 0x50000000]), clauseOf [0xFE000000, 0x50000000], by decide +kernel, by decide +kernel, by decide +kernel⟩,
    ⟨box, clauseOf [0x18000000], by decide +kernel, by decide +kernel⟩,
    boxWith (clauseOf [0xFE000000, 0xCC000000]), clauseOf [0xFE000000, 0xCC000000], by decide +kernel, by decide +kernel⟩

/-- An INT8 tile of one row and one column on core 0. -/
def tile1 : WeightTile :=
  { core := 0, tf := 0, launch := 0, fmt := 8, k := 1, n := 1, blk := false, elems := [[3]], scales := [] }

theorem canEnd_of {s : State} {k : OpKind} (h : (s.opAt 7 == some (op7 k) && s.opFree (op7 k)) = true) : s.canEnd (op7 k) := by
  simp only [Bool.and_eq_true, beq_iff_eq] at h
  exact h

theorem witness_EngineEvents :
    (∃ (s t : State) (o : Op) (c src : DWord) (bytes : List (List Byte)), s.canEnd o ∧ o.kind = .ldw c src ∧
      s.ldwImpure o c src = false ∧ (ldwSpans c src).mapM (ldwSpan o (ldwCluster c)) s = .ok bytes t ∧
      ∃ k ∈ ldwCores o.core c, k ∉ t.health.retiredCores) ∧
    (∃ (s : State) (o : Op) (acts : List (List Word)), s.canEnd o ∧ o.kind = .mma false 8 0 false acts ∧ s.firstStep o = true ∧
      s.stepTile o 8 false = none) ∧
    (∃ (s : State) (o : Op) (acts : List (List Word)) (w : WeightTile), s.canEnd o ∧ o.kind = .mma false 8 0 false acts ∧
      s.firstStep o = true ∧ s.stepTile o 8 false = some w ∧ w.n ≤ 128 ∧ 0 < (s.teamAt o.ctx).acc.length ∧
      (s.teams.any fun x => x.ctx == o.ctx) = true) ∧
    (∃ (s : State) (o : Op), s.canEnd o ∧ o.kind = .hv (.get 127 0 [] 0) ∧ s.firstHv o = true ∧
      (s.groupAt o.ctx o.grp).v.getD 127 .zero ≠ .inFrame) ∧
    (∃ g : Group, 0 < g.hdim ∧ g.h.getD 0 0 < 2 ^ g.hdim ∧ 0 < g.h.length ∧ 0 < (g.b.getD 0 []).length ∧ 31 < g.s.length) ∧
    (∃ (s t : State) (o : Op) (a : DWord) (bs : List Byte), s.canEnd o ∧ s.firstHv o = true ∧ o.kind = .hvld false 0 a ∧
      s.engineImpure o.ctx false a (o.dim / 8) = false ∧ hvRead o false a (o.dim / 8) s = .ok bs t) ∧
    (∃ (s : State) (o : Op) (a : DWord) (data : List Byte), s.canEnd o ∧ s.firstHv o = true ∧ o.kind = .hvst true a data) ∧
    (∃ (s t : State) (o : Op) (a : DWord) (data : List Byte) (ps : List (Nat × List Byte)), s.canEnd o ∧ s.firstHv o = true ∧
      o.kind = .hvst false a data ∧ s.engineImpure o.ctx true a data.length = false ∧
      enginePlan (s.tfOf o.ctx) o.core (some o.ctx) a data s = .ok ps t) ∧
    (∃ (s : State) (o : Op), s.canEnd o ∧ s.firstHv o = true ∧ o.kind = .hvnear true 30 1 false 8192 0) ∧
    ∃ (s : State) (o : Op) (key : Nat) (entry : Nat → List Byte),
      let dist (i : Nat) : Nat := popcount o.dim (key ^^^ ofLe (entry i))
      s.canEnd o ∧ s.firstHv o = true ∧ o.kind = .hvnear true 30 key false 8192 2 ∧
      (∀ i < 2, poolRead o.ctx o.id ((8192 : DWord) + BitVec.ofNat 64 (i * (o.dim / 8))).toNat (o.dim / 8) s = .ok (entry i) s) ∧
      (∀ j < 2, dist 0 ≤ dist j) ∧ ∀ j < 0, dist 0 < dist j := by
  let sl := boxO (.ldw ldwCtrl 4096) []
  let sh := boxO (.hvld false 0 0x100) []
  let st := boxO (.hvst false 0xFFE [1, 2, 3]) []
  let sn := boxO (.hvnear true 30 1 false 8192 2) []
  obtain ⟨b1, t1, h1, hk⟩ := ok_of (r := (ldwSpans ldwCtrl 4096).mapM (ldwSpan (op7 (.ldw ldwCtrl 4096)) (ldwCluster ldwCtrl)) sl)
    (p := fun _ t => decide (0 ∈ ldwCores 0 ldwCtrl ∧ 0 ∉ t.health.retiredCores)) (by decide +kernel)
  obtain ⟨b2, t2, h2, -⟩ := ok_of (r := hvRead (op7 (.hvld false 0 0x100)) false 0x100 512 sh) (p := fun _ _ => true) (by decide +kernel)
  obtain ⟨b3, t3, h3, -⟩ := ok_of (r := enginePlan (st.tfOf 0) 0 (some 0) 0xFFE [1, 2, 3] st) (p := fun _ _ => true) (by decide +kernel)
  have hn : ∀ i ∈ [0, 1], okB (poolRead 0 7 ((8192 : DWord) + BitVec.ofNat 64 (i * 512)).toNat 512 sn)
      (fun bs u => decide (bs = List.replicate 512 0) && decide (u = sn)) = true := by decide +kernel
  have hn' : ∀ i < 2, poolRead 0 7 ((8192 : DWord) + BitVec.ofNat 64 (i * 512)).toNat 512 sn =
      .ok (List.replicate 512 0) sn := by
    intro i hi
    obtain ⟨b, u, hb, hu⟩ := ok_of (hn i (by revert hi; revert i; decide))
    simp only [Bool.and_eq_true, decide_eq_true_eq] at hu
    rw [hu.1, hu.2] at hb
    exact hb
  exact ⟨⟨sl, t1, op7 (.ldw ldwCtrl 4096), ldwCtrl, 4096, b1, canEnd_of (by decide +kernel), rfl, by decide +kernel, h1,
      0, (of_decide_eq_true hk).1, (of_decide_eq_true hk).2⟩,
    ⟨boxO (.mma false 8 0 false []) [], op7 (.mma false 8 0 false []), [], canEnd_of (by decide +kernel), rfl, by decide +kernel, by decide +kernel⟩,
    ⟨{ boxO (.mma false 8 0 false []) [] with tiles := [tile1] }, op7 (.mma false 8 0 false []), [], tile1, canEnd_of (by decide +kernel), rfl,
      by decide +kernel, by decide +kernel, by decide, by decide +kernel, by decide +kernel⟩,
    ⟨boxO (.hv (.get 127 0 [] 0)) [], op7 (.hv (.get 127 0 [] 0)), canEnd_of (by decide +kernel), rfl, by decide +kernel, by decide +kernel⟩,
    ⟨{ wordGroup 0 with b := [[1]] }, by decide +kernel⟩,
    ⟨sh, t2, op7 (.hvld false 0 0x100), 0x100, b2, canEnd_of (by decide +kernel), by decide +kernel, rfl, by decide +kernel, h2⟩,
    ⟨boxO (.hvst true 4096 [1]) [], op7 (.hvst true 4096 [1]), 4096, [1], canEnd_of (by decide +kernel), by decide +kernel, rfl⟩,
    ⟨st, t3, op7 (.hvst false 0xFFE [1, 2, 3]), 0xFFE, [1, 2, 3], b3, canEnd_of (by decide +kernel), by decide +kernel, rfl, by decide +kernel, h3⟩,
    ⟨boxO (.hvnear true 30 1 false 8192 0) [], op7 (.hvnear true 30 1 false 8192 0), canEnd_of (by decide +kernel), by decide +kernel, rfl⟩,
    sn, op7 (.hvnear true 30 1 false 8192 2), 1, fun _ => List.replicate 512 0,
    canEnd_of (by decide +kernel), by decide +kernel, rfl, hn', fun _ _ => Nat.le_refl _, fun _ h => absurd h (Nat.not_lt_zero _)⟩

/-- A copy of CPY's descriptor that has started, whose chunks `k` are still to perform, under f0 of the group. -/
def copyOf (k : List Nat) : Copy :=
  { id := 3, ctx := 0, node := none, offset := 4096, kind := 0, desc := cpyDesc, parts := [], started := true, chunks := k, prior := [],
    impure := false, parked := none }

def boxC (k : List Nat) : State := { boxO (.copy 3) [] with copies := [copyOf k] }

/-- A launch that a hit of the Daymark ends, with its copy. -/
def hit : Launch := { Launch.reset with id := 8, num := 1, reuse := true, copy := some 4 }

theorem witness_CopyEvents :
    (∃ (s t : State) (c : Copy) (k : Nat), s.copyWith c.id k = some c ∧ chunkStep c k s = .ok () t) ∧
    (∃ (s : State) (c : Copy) (k : Nat) (r : CopyRun) (a : DWord), s.copyWith c.id k = some c ∧ c.kind = 0 ∧
      dFspace c.desc = 1 ∧ dTspace c.desc = 1 ∧ chunkRuns c.kind c.desc k = [r] ∧ r.src = .source a ∧
      (∀ x ∈ (s.teamAt c.ctx).poison, ¬ (a.toNat ≤ x ∧ x < a.toNat + r.len)) ∧ (s.teamAt c.ctx).resident = true ∧
      (s.teamAt c.ctx).unfilled = [] ∧ (s.teamAt c.ctx).leaving = []) ∧
    (∃ (s : State) (c : Copy) (o : Op), s.copyDone c.id = some c ∧ c.impure = false ∧
      (∀ o ∈ s.ops, o.kind = .copy c.id → (s.groupAt o.ctx o.grp).parties ≠ []) ∧
      s.ops.filter (fun p => p.kind == .copy c.id) = [o] ∧ o.flag = some 0) ∧
    (∃ (s : State) (o : Op) (pages : List (List Byte)), s.canEnd o ∧ o.kind = .csend 9 6 0x100 4 (pages.map some) 4096 ∧
      pages ≠ [] ∧ s.ctl.ven = true ∧
      ∀ x ∈ s.taken, x.1 ≠ 9) ∧
    (∃ (s t v : State) (o : Op) (others parts : List (List Byte)) (ps : List (Nat × List Byte)), s.canEnd o ∧
      o.kind = .crecv 9 6 0x100 4 4096 ∧ s.ctl.ven = true ∧ s.owes 9 = false ∧ s.contributions 9 others = (parts, v) ∧
      resultOk 6 4 parts = true ∧ enginePlan (v.tfOf o.ctx) o.core (some o.ctx) 0x100 (combineAll 6 4 parts) v = .ok ps t) ∧
    ∃ s : State, s.hasLaunch 8 = true ∧ (s.launchAt 8).reuse = true ∧ (s.launchAt 8).copy.isSome = true ∧
      s.launchReady (s.launchAt 8) = true ∧ (s.launchAt 8).refused = none ∧ (s.launchAt 8).killed = none := by
  obtain ⟨_, t1, h1, -⟩ := ok_of (r := chunkStep (copyOf [0]) 0 (boxC [0])) (p := fun _ _ => true) (by decide +kernel)
  let sr : State := { boxO (.crecv 9 6 0x100 4 4096) [] with ctl := { Controls.reset with ven := true } }
  let x := sr.contributions 9 [[0, 0, 0x80, 0x3F]]
  obtain ⟨ps, t2, h2, -⟩ := ok_of (r := enginePlan (x.2.tfOf 0) 0 (some 0) 0x100 (combineAll 6 4 x.1) x.2)
    (p := fun _ _ => true) (by decide +kernel)
  exact ⟨⟨boxC [0], t1, copyOf [0], 0, by decide +kernel, h1⟩,
    ⟨boxC [0], copyOf [0], 0, { dst := 8256, len := 8, src := .source 8192 }, 8192, by decide +kernel⟩,
    ⟨boxC [], copyOf [], op7 (.copy 3), by decide +kernel⟩,
    ⟨{ boxO (.csend 9 6 0x100 4 [some [0, 0, 0, 0]] 4096) [] with ctl := { Controls.reset with ven := true } },
      op7 (.csend 9 6 0x100 4 [some [0, 0, 0, 0]] 4096), [[0, 0, 0, 0]], canEnd_of (by decide +kernel), rfl, by decide, rfl,
      fun _ h => nomatch h⟩,
    ⟨sr, t2, x.2, op7 (.crecv 9 6 0x100 4 4096), [[0, 0, 0x80, 0x3F]], x.1, ps, canEnd_of (by decide +kernel), rfl, rfl,
      by decide +kernel, rfl, by decide +kernel, h2⟩,
    { box with launches := [launch, hit] }, by decide +kernel⟩

/-- The main side stands at the header 0, whose clause is one NOP, in memory. -/
def boxN : State :=
  let s := box.mapCur fun g => { g with main := { g.main with clause := none } }
  { s with side := { s.side with mem := [(0, 0x20), (3, 0x10), (7, 0x18)] } }

/-- v5 stands only in the frame, under the format f. -/
def boxQ (f : Byte) : State :=
  let s := box.mapCur fun g => { g with v := g.v.set 5 .inFrame }
  { s with side := { s.side with mem := if f = 0 then [] else [((s.curGroup.frame + BitVec.ofNat 64 (s.curGroup.fmtOff + 5)).toNat, f)] } }

/-- The main side waits. -/
def boxX (w : Wait) : State := box.mapCur fun g => { g with main := { g.main with wait := w, active := false } }

/-- Granule 30 of core 0 has left the team's window, and nothing issued before may reach it. -/
def boxG : State :=
  { box with
    stamp := 5
    teams := [{ team with leaving := [{ phys := 30, wg := 3, left := 4, cells := [], poison := [] }] }]
    poolMap := box.poolMap ++
      [((0, 30), { ctx := 0, wg := 3, region := .shared, shared := false, retired := false, dirty := false, parked := none })] }

/-- The shared granules stand apart. -/
def boxApart (w : Wait) (sh : List Nat) : State :=
  { boxX w with teams := [{ team with granules := [.inPool 20, .inPool 21, .inPool 30], shared := sh }] }

theorem witness_PartyEvents :
    (∃ (s t : State) (o : CodeObject) (c : Clause), s.cur = main ∧ s.atHeader main = true ∧ (s.groupAt 0 0).ending = false ∧
      (s.teamAt 0).hard = false ∧ s.targetOk 0 s.curParty.pc = true ∧ (s.slotOf 0).object = some o ∧
      (s.curParty.pc - s.codeStart 0).toNat / 65536 ∈ o.verified ∧ fetchClause 0 s.curParty.pc s.curGroup.mode s = .ok c t ∧
      t.stopping t.cur.ctx = false ∧ t.curGroup.waitMet c.hdr = true ∧ t.curGroup.deferred = []) ∧
    (∀ f ∈ [(0 : Byte), 4, 5], (∃ t, (boxQ f).hasGroup 0 0 = true ∧ ((boxQ f).groupAt 0 0).v.getD 5 .zero = .inFrame ∧
      tenderRead 0 (((boxQ f).groupAt 0 0).frame + BitVec.ofNat 64 (((boxQ f).groupAt 0 0).fmtOff + 5)) 1 (boxQ f) = .ok [f] t ∧
      (f = 0 → ∃ u x, tenderFetch 0 (((boxQ f).groupAt 0 0).frame + BitVec.ofNat 64 (((boxQ f).groupAt 0 0).slotOff 5)) 64 t = .ok x u ∧
        storedSize ((boxQ f).groupAt 0 0).width f.toNat = some 64))) ∧
    (∃ s t : State, (s.partyOf main).wait = .barwait true 4096 0 false none ∧ (s.partyOf main).stopped = false ∧
      barAgain true 4096 0 false none { s with cur := main } = .ok true t) ∧
    (∃ s t : State, (s.partyOf main).wait = .barwait false 4096 9 true (some 4096) ∧ (s.partyOf main).stopped = false ∧
      barAgain false 4096 9 true (some 4096) { s with cur := main } = .ok true t) ∧
    (∃ s : State, (s.partyOf main).wait = .chkw 12280 0 ∧ (s.partyOf main).stopped = false ∧ (s.teamAt 0).inData 12280 8 = true ∧
      s.moving 0 = false ∧ (s.teamAt 0).poison = [] ∧ le64 (s.ownBytes 0 0 true 12280 (s.poolBytes 0 12280 8)) &&& 0 = 0) ∧
    (∃ (s : State) (base : Nat), (s.partyOf main).wait = .pshare 3 4096 2 ∧ (s.teamAt 0).inData 4096 8192 = true ∧
      (s.teamAt 0).inPlace 1 2 = none ∧ s.canMove (s.teamAt 0) 1 2 = true ∧
      s.freeRun (s.teamAt 0).core 2 (((s.teamAt 0).physRun 1 2).getD []) = some base ∧ (s.moveRun 0 1 2 base).1 = true) ∧
    (∃ s : State, (s.partyOf main).wait = .pshare 3 4096 2 ∧ (s.teamAt 0).inPlace 1 2 = none ∧ s.canMove (s.teamAt 0) 1 2 = false) ∧
    (∃ s : State, (s.partyOf main).wait = .pshare 3 4096 3 ∧ (s.teamAt 0).inData 4096 12288 = false) ∧
    (∃ s : State, s.grantReady 0 = some (main, 1) ∧ (s.grow 0 1).1 = true) ∧
    (∀ past : Bool, ∃ s : State, (s.partyOf main).wait = .pgrow 250 0 0 ∧ (s.partyOf main).stopped = false ∧
      (s.launchOf 0).stall ≠ 0xFFFFFFFF ∧ main ∉ s.grantable? (s.coreOf 0) ∧
      if past then (s.launchOf 0).stall < s.us else (s.launchOf 0).stall = s.us ∧ s.tickAt ≠ s.clock) ∧
    (∃ s : State, s.deadlocked 0 = some 0 ∧ (∀ t ∈ s.residentOn 0, t.ctx < 65536) ∧
      (s.stalled 0).filter (fun x => x.1.ctx == 0) = [(main, 250)] ∧ s.hasGroup 0 0 = true) ∧
    ∃ (s : State) (t : Team), s.teamAt t.ctx = t ∧ t.core = 0 ∧
      (s.teams.find? fun x => x.core == 0 && x.leaving.any fun e => e.phys == 30 && s.passReady x e) = some t := by
  obtain ⟨c, t, h, hp⟩ := ok_of (r := fetchClause 0 boxN.curParty.pc boxN.curGroup.mode boxN)
    (p := fun c t => !t.stopping t.cur.ctx && t.curGroup.waitMet c.hdr && t.curGroup.deferred.isEmpty) (by decide +kernel)
  simp only [Bool.and_eq_true, Bool.not_eq_true', List.isEmpty_iff] at hp
  obtain ⟨b, u, hb, hb'⟩ := ok_of (r := barAgain true 4096 0 false none { boxX (.barwait true 4096 0 false none) with cur := main })
    (p := fun b _ => b) (by decide +kernel)
  rw [hb'] at hb
  obtain ⟨b2, u2, hb2, hb3⟩ := ok_of (r := barAgain false 4096 9 true (some 4096)
    { boxX (.barwait false 4096 9 true (some 4096)) with cur := main }) (p := fun b _ => b) (by decide +kernel)
  rw [hb3] at hb2
  have hq : ∀ f ∈ [(0 : Byte), 4, 5], (boxQ f).hasGroup 0 0 = true ∧ ((boxQ f).groupAt 0 0).v.getD 5 .zero = .inFrame ∧
      okB (tenderRead 0 (((boxQ f).groupAt 0 0).frame + BitVec.ofNat 64 (((boxQ f).groupAt 0 0).fmtOff + 5)) 1 (boxQ f))
        (fun bs t => decide (bs = [f]) &&
          okB (tenderFetch 0 (((boxQ f).groupAt 0 0).frame + BitVec.ofNat 64 (((boxQ f).groupAt 0 0).slotOff 5)) 64 t) fun _ _ => true) = true ∧
      (f = 0 → storedSize ((boxQ f).groupAt 0 0).width f.toNat = some 64) := by decide +kernel
  refine ⟨⟨boxN, t, object, c, rfl, by decide +kernel, by decide +kernel, by decide +kernel, by decide +kernel, by decide +kernel,
      by decide +kernel, h, hp.1.1, hp.1.2, hp.2⟩, fun f hf => ?_,
    ⟨boxX (.barwait true 4096 0 false none), u, by decide +kernel, by decide +kernel, hb⟩,
    ⟨boxX (.barwait false 4096 9 true (some 4096)), u2, by decide +kernel, by decide +kernel, hb2⟩, ⟨boxX (.chkw 12280 0), by decide +kernel⟩,
    ⟨boxApart (.pshare 3 4096 2) [], 0, by decide +kernel⟩, ⟨boxApart (.pshare 3 4096 2) [2], by decide +kernel⟩,
    ⟨boxX (.pshare 3 4096 3), by decide +kernel⟩,
    ⟨boxX (.pgrow 1 0 0), by decide +kernel⟩, fun past =>
      ⟨{ boxX (.pgrow 250 0 0) with us := if past then 17 else 16, clock := 9 }, by cases past <;> decide +kernel⟩,
    ⟨boxX (.pgrow 250 0 0), by decide +kernel⟩, boxG, boxG.teamAt 0, by decide +kernel⟩
  obtain ⟨h1, h2, h3, h4⟩ := hq f hf
  obtain ⟨bs, t, h5, h6⟩ := ok_of h3
  simp only [Bool.and_eq_true, decide_eq_true_eq] at h6
  obtain ⟨x, u, h7, -⟩ := ok_of h6.2
  rw [h6.1] at h5
  exact ⟨t, h1, h2, h5, fun h0 => ⟨u, x, h7, h4 h0⟩⟩

/-- A sector of core 0's L1 with byte 31 dirty. -/
def dirtySector : L1Sector :=
  { core := 0, sector := 8, bytes := List.replicate 32 7, dirty := 0x80000000, poison := false, vr := false, fresh := true
    writers := [({ tf := 0, launch := none, ctx := none }, 0x80000000)], filled := 0, part := false, since := 0, prio := 0 }

def comb : CombBuf := { core := 0, quad := 0, ctx := 0, grp := 0, line := 1, bytes := [(511, 9)], since := 0, alloc := none }

/-- A sector of the far die's memory. -/
def farSector : Nat := ((List.range 4096).find? fun k => State.reset.homeSlice (k / 8) / 384 != Config.dieOf 0).getD 0

def boxSide (f : MemSide → MemSide) : State := { box with side := f box.side }

theorem inv_of {s : State} (h : (Memory.wf s.side.mem && s.teams.all (fun t => Memory.wf t.pool) &&
    s.groups.all fun g => decide (g.s.length = 32 ∧ g.m.length = 16 ∧ g.v.length = 128 ∧ g.flags.length = 12 ∧ g.frags.length = 8)) = true) :
    s.Inv := by
  simp only [Bool.and_eq_true, List.all_eq_true, decide_eq_true_eq] at h
  exact ⟨⟨h.1.1, h.1.2⟩, fun g hg => h.2 g hg⟩

/-- Clean, allocated under VR = 1, and held at home where `h`. -/
def boxFar (h : Bool) : State := boxSide fun m =>
  { m with
    l1 := [{ dirtySector with sector := farSector, dirty := 0, vr := true, writers := [] }]
    l2 := if h then [{ line := farSector / 8, valid := 0xFF, dirty := 0, prio := 0 }] else [] }

/-- A tenant function block with some fields. -/
def boxTf (f : TfBlock → TfBlock) : State := { box with tfs := box.tfs.map fun x => (x.1, f x.2) }

/-- Granule 1 of the window is a hypervector region of one H and one B register. -/
def boxHv : State :=
  { box.mapCur fun g => { g with hvAt := 1, hdim := 128, bwidth := 8, h := [0], b := [[]] } with
    teams := [{ team with stagingAt := 2, sharedAt := 2 }]
    launches := [{ launch with bytes := List.replicate 512 0 }] }

/-- A sector and a buffer at the end of their time; a line that is replicated, and one that the home no longer holds;
errors in each place; retirement of a granule of the L1 and of a team's. -/
theorem witness_CacheAndErrorEvents :
    (∃ (s : State) (k : Nat) (x : L1Sector), s.Inv ∧ s.l1Find 0 k = some x ∧ x.dirty ≠ 0 ∧ 32 * k < Config.hbmBytes) ∧
    (∃ (s : State) (b : CombBuf), s.Inv ∧
      s.side.combine.filter (fun c => c.core == b.core && c.quad == b.quad && c.line == b.line) = [b] ∧
      512 ≤ s.clock.toNat - b.since ∧ 256 * b.line < Config.hbmBytes ∧
      (∀ x ∈ s.side.l1, x.core = b.core → x.sector / 8 = b.line → x.dirty = 0) ∧ s.side.l1 ≠ []) ∧
    (∀ h : Bool, ∃ (s : State) (k : Nat), s.replicates 0 (k / 8) = true ∧ (∀ x ∈ s.l1LineOf 0 (k / 8), x.fresh = true) ∧
      ((s.side.l2.any fun y => y.line == k / 8) = h)) ∧
    (∃ (s : State) (k : Nat), s.replicates 0 (k / 8) = false) ∧
    (∃ s : State, s.health.ready = true ∧ (∃ k, 32 * k < Config.hbmBytes ∧ 32 * (k + 1) = Config.hbmBytes) ∧
      (∃ k x, s.l1Find 0 k = some x ∧ x.dirty ≠ 0) ∧ (∃ ws, s.hasGroup 0 0 = true ∧ (s.groupAt 0 0).v.getD 1 .zero = .raw ws) ∧
      (s.teams.any fun t => t.ctx == 0) = true ∧ (s.teamAt 0).granules.getD (12287 / 4096) .inBacking = .inPool 22 ∧
      s.regionOf (s.teamAt 0) (12287 / 4096) = .shared) ∧
    (∃ (s : State) (g : Group), s.health.ready = true ∧ (s.teams.any fun t => t.ctx == 0) = true ∧
      (s.teamAt 0).granules.getD (4096 / 4096) .inBacking = .inPool 21 ∧ s.regionOf (s.teamAt 0) (4096 / 4096) = .hypervector ∧
      s.hvGroup 0 (4096 / 4096) = some g ∧ g.hvRegAt (4096 - 4096 * g.hvAt) = some (hMark 0)) ∧
    (∃ (s : State) (g : Group) (ws : List Word), s.health.ready = true ∧ (s.teams.any fun t => t.ctx == 0) = true ∧
      (s.teamAt 0).granules.getD (64 / 4096) .inBacking = .inPool 20 ∧ s.regionOf (s.teamAt 0) (64 / 4096) = .frame ∧
      s.frameGroup 0 (64 / 4096) = some (g, 0) ∧ s.groupAt 0 g.idx = g ∧ 1 < g.budget ∧ g.slotOff 1 ≤ 0 + 64 % 4096 ∧
      0 + 64 % 4096 < g.slotOff 1 + 4 * g.width ∧ g.v.getD 1 .zero = .raw ws) ∧
    (∃ s : State, 0 < s.errorCount (.slice 767) ∧ s.health.cethr.toNat ≤ s.errorCount (.slice 767) ∧ 767 ∉ s.health.retiredSlices) ∧
    (∃ s : State, s.poolEntry 511 255 = none ∧ 0 < s.l1Spare 511) ∧
    (∃ (s : State) (e : PoolEntry), s.poolEntry 0 20 = some e ∧ e.retired = false) ∧
    ∃ s : State, 511 ∉ s.health.retiredCores := by
  exact ⟨⟨boxSide fun m => { m with l1 := [dirtySector] }, 8, dirtySector, inv_of (by decide +kernel), by decide +kernel, by decide,
      by decide +kernel⟩,
    ⟨{ boxSide fun m => { m with combine := [comb], l1 := [{ dirtySector with dirty := 0 }] } with clock := 512 }, comb,
      inv_of (by decide +kernel), by decide +kernel, by decide +kernel, by decide +kernel, by decide +kernel, by decide +kernel⟩,
    fun h => ⟨boxFar h, farSector, by cases h <;> decide +kernel, by cases h <;> decide +kernel, by cases h <;> decide +kernel⟩,
    ⟨box, 0, by decide +kernel⟩,
    ⟨{ boxI 16 with side := { box.side with l1 := [dirtySector] } }, by decide +kernel, ⟨Config.hbmBytes / 32 - 1, by decide +kernel⟩,
      ⟨8, dirtySector, by decide +kernel⟩, ⟨(List.range 16).map fun l => BitVec.ofNat 32 l, by decide +kernel⟩, by decide +kernel, by decide +kernel⟩,
    ⟨boxHv, boxHv.curGroup, by decide +kernel⟩, ⟨boxI 16, (boxI 16).curGroup, (List.range 16).map fun l => BitVec.ofNat 32 l, by decide +kernel⟩,
    ⟨{ box with health := { box.health with cethr := 1, errors := [(.slice 767, 0)] } }, by decide +kernel⟩,
    ⟨box, by decide +kernel⟩,
    ⟨box, _, rfl, rfl⟩, box, by decide +kernel⟩

/-- The Keeper holds the same translation. -/
def boxK : State := boxSide fun m => { m with tlb := [held, { held with core := 512 }], mem := [(0x100, 1), (0x260, 2)] }

/-- Queue 5 has one record, at address 0, which is refused. -/
def queue5 : LaunchQueue := { LaunchQueue.reset with en := true, qtail := 0x100 }

/-- A stream node of 16-byte records, open under the first successor's record. -/
def node : Launch :=
  { Launch.reset with
    id := 6, num := 6, record := 0x1000
    stream := some { inq := 0x2000, base := 0x3000, recSize := 16, log2n := 2, thresh := 2, head := 3, issued := 2, freed := 0, batch := 1,
                     queued := [], running := [], ended := false, stale := false } }

def boxE2 (k : OpKind) : State :=
  { boxO k [] with launches := [launch, node], side := boxK.side }

/-- A compute launch of one team of one role of one group, with one team slot and `sh` shared granules. -/
def pend (sh cls : Nat) : Launch :=
  { Launch.reset with
    id := 9, num := 1, cls := cls, base := cls
    bytes := (List.range 512).map fun i =>
      if i = 5 ∨ i = 8 ∨ i = 0xC ∨ i = 0xE ∨ i = 0x11 ∨ i = 0x2C then 1 else if i = 0x22 ∨ i = 0x24 then BitVec.ofNat 8 sh else 0 }

theorem witness_LaunchEvents :
    (∃ (s t u : State) (new : List Nat), s.pollQueues (s.servedQueues 0) = (new, t) ∧ t.chooseQueue 0 new = some (5, u)) ∧
    (∃ (s t : State) (id : Nat), s.openNode (s.queueAt 5).tf 0 = none ∧
      acceptLaunch { tf := 0, queue := 5, taken := true, qhead := 0, num := 5 * 2 ^ 20 } 0 s = .ok id t) ∧
    (∃ (s t : State) (id : Nat), s.canEnd (op7 (.launch 0x400)) ∧ s.openNode (s.launchOf 0).tf 0x400 = none ∧
      acceptLaunch { tf := (s.launchOf 0).tf, queue := (s.launchOf 0).queue, taken := false, qhead := 0, num := 0 } 0x400 s = .ok id t) ∧
    (∃ (s t : State) (old : Nat), s.canEnd (op7 (.signal 0x200)) ∧ decrementPreds (s.launchOf 0).tf.toNat 0x200 s = .ok old t ∧ old ≠ 1) ∧
    (∀ there : Bool, ∃ (s t : State) (o : Op), s.canEnd o ∧ o.kind = .signal 0x400 ∧
      decrementPreds (s.launchOf 0).tf.toNat 0x400 s = .ok 1 t ∧
      let w : Op := { o with flag := none, kind := .start 0x400 }
      let v := (t.mapOp o.id fun _ => w).dropFlag o.ctx o.grp o.flag
      let l := v.launchOf o.ctx
      if there then ∃ n, v.openNode l.tf 0x400 = some n
      else v.openNode l.tf 0x400 = none ∧ ∃ id u, acceptLaunch
        { tf := l.tf, queue := l.queue, taken := false, qhead := 0,
          num := BitVec.ofNat 32 (l.queue.toNat * 2 ^ 20 + (v.queueAt l.queue.toNat).starts.toNat) } 0x400 v = .ok id u) ∧
    (∃ (s t : State) (n : Launch) (q : Stream) (data : List Byte), s.canEnd (op7 (.emit 0 4096 1)) ∧ s.firstEmit (op7 (.emit 0 4096 1)) = true ∧
      (s.launchOf 0).succ.getD 0 0 ∉ (s.launchOf 0).refusedNodes ∧ 0 < (s.launchOf 0).succ.length ∧
      s.openNode (s.launchOf 0).tf ((s.launchOf 0).succ.getD 0 0) = some n ∧ n.killed = none ∧
      (s.launchAt n.id).stream = some q ∧ q.head + 1 - q.freed = 2 ^ q.log2n ∧ (s.teamAt 0).spanFor (some 7) 4096 (1 * q.recSize) = true ∧
      poolRead 0 7 4096 (1 * q.recSize) s = .ok data s ∧ placeRecords (s.tfOf 0) q q.head (chunksOf q.recSize 1 data) s = .ok () t) ∧
    (∃ (s : State) (n : Launch), s.canEnd (op7 (.eflush 0)) ∧ s.firstEmit (op7 (.eflush 0)) = true ∧
      s.openNode (s.launchOf 0).tf ((s.launchOf 0).succ.getD 0 0) = some n ∧ n.killed = none ∧ (s.launchOf 0).succ.length = 2 ∧
      (s.launchOf 0).succ.getD 0 0 ∉ (s.launchOf 0).refusedNodes) ∧
    (∃ s : State, s.canEnd (op7 (.emit 0 4096 0)) ∧ s.firstEmit (op7 (.emit 0 4096 0)) = true) ∧
    ∀ c ∈ [((1 : BitVec 8), false), (1, true), (2, true), (3, false), (4, false)], ∃ s t : State,
      let l := s.launchAt 9
      let word := leBytes 8 (l.num.toNat * 2 ^ 32 + l.outcome.2.toNat * 256 + l.outcome.1.toNat)
      let u := if l.outcome.1 = 1 then s.recordPure l
        else match l.pure with
          | some p => if l.outcome.1 = 2 then s.touchKey l.tf p.key else s
          | none => s
      s.hasLaunch 9 = true ∧ l.copy = none ∧ l.stream = none ∧ s.launchReady l = true ∧ l.outcome.1 = c.1 ∧ l.pure.isSome = c.2 ∧
        keeperStore true l.tf.toNat (BitVec.ofNat 64 l.compl) word u = .ok () t ∧ t.hasLaunch 9 = true := by
  let sq : State := { boxK with queues := [(5, queue5)] }
  let sl : State := { boxE2 (.launch 0x400) with launches := [launch] }
  let ss := boxE2 (.signal 0x200)
  let se := boxE2 (.emit 0 4096 1)
  let ss1 (there : Bool) : State :=
    { boxE2 (.signal 0x400) with
      launches := if there then [launch, { node with record := 0x400 }] else [launch]
      side := { boxK.side with mem := [(0x460, 1)] } }
  let sc (c : BitVec 8 × Bool) : State :=
    { boxTf (fun b => { b with quota := 1 }) with
      side := boxK.side
      launches := [launch, { pend 1 0 with
        next := 1, refused := if c.1 = 4 then some 3 else none, killed := if c.1 = 3 then some 2 else none, reuse := c.1 = 2
        pure := if c.2 then some { key := 5, clean := true, frames := [], missing := [], result := [] } else none }] }
  let after (s : State) (l : Launch) : State := if l.outcome.1 = 1 then s.recordPure l
    else match l.pure with
      | some p => if l.outcome.1 = 2 then s.touchKey l.tf p.key else s
      | none => s
  have h0 : ((sq.pollQueues (sq.servedQueues 0)).2.chooseQueue 0 (sq.pollQueues (sq.servedQueues 0)).1).map (·.1) = some 5 := by decide +kernel
  obtain ⟨⟨q, u⟩, hu, hq⟩ := Option.map_eq_some_iff.mp h0
  simp only at hq
  subst hq
  obtain ⟨i1, t1, h1, -⟩ := ok_of (r := acceptLaunch { tf := 0, queue := 5, taken := true, qhead := 0, num := 5 * 2 ^ 20 } 0 sq)
    (p := fun _ _ => true) (by decide +kernel)
  obtain ⟨i2, t2, h2, -⟩ := ok_of (r := acceptLaunch { tf := (sl.launchOf 0).tf, queue := (sl.launchOf 0).queue, taken := false, qhead := 0, num := 0 } 0x400 sl)
    (p := fun _ _ => true) (by decide +kernel)
  obtain ⟨i3, t3, h3, hp3⟩ := ok_of (r := decrementPreds (ss.launchOf 0).tf.toNat 0x200 ss) (p := fun o _ => decide (o ≠ 1)) (by decide +kernel)
  obtain ⟨d, td, hd, hpd⟩ := ok_of (r := poolRead 0 7 4096 (1 * 16) se) (p := fun b u => decide (b = List.replicate 16 0) && decide (u = se)) (by decide +kernel)
  simp only [Bool.and_eq_true, decide_eq_true_eq] at hpd
  rw [hpd.1, hpd.2] at hd
  obtain ⟨qs, hqs⟩ := Option.isSome_iff_exists.mp (show node.stream.isSome = true from rfl)
  have hqe : qs = { inq := 0x2000, base := 0x3000, recSize := 16, log2n := 2, thresh := 2, head := 3, issued := 2, freed := 0, batch := 1,
                    queued := [], running := [], ended := false, stale := false } := Option.some.inj hqs.symm
  obtain ⟨_, t4, h4, -⟩ := ok_of (r := placeRecords (se.tfOf 0)
    { inq := 0x2000, base := 0x3000, recSize := 16, log2n := 2, thresh := 2, head := 3, issued := 2, freed := 0, batch := 1,
      queued := [], running := [], ended := false, stale := false } 3 (chunksOf 16 1 (List.replicate 16 0)) se) (p := fun _ _ => true) (by decide +kernel)
  have hs1 : ∀ there : Bool, okB (decrementPreds ((ss1 there).launchOf 0).tf.toNat 0x400 (ss1 there)) (fun n t => decide (n = 1) &&
      let w : Op := { op7 (.signal 0x400) with flag := none, kind := .start 0x400 }
      let v := (t.mapOp 7 fun _ => w).dropFlag 0 0 (some 0)
      let l := v.launchOf 0
      if there then (v.openNode l.tf 0x400).isSome
      else (v.openNode l.tf 0x400).isNone && okB (acceptLaunch
        { tf := l.tf, queue := l.queue, taken := false, qhead := 0,
          num := BitVec.ofNat 32 (l.queue.toNat * 2 ^ 20 + (v.queueAt l.queue.toNat).starts.toNat) } 0x400 v) fun _ _ => true) = true := by
    decide +kernel
  have hc : ∀ c ∈ [((1 : BitVec 8), false), (1, true), (2, true), (3, false), (4, false)],
      let s := sc c
      let l := s.launchAt 9
      s.hasLaunch 9 = true ∧ l.copy = none ∧ l.stream = none ∧ s.launchReady l = true ∧ l.outcome.1 = c.1 ∧ l.pure.isSome = c.2 ∧
        okB (keeperStore true l.tf.toNat (BitVec.ofNat 64 l.compl)
          (leBytes 8 (l.num.toNat * 2 ^ 32 + l.outcome.2.toNat * 256 + l.outcome.1.toNat)) (after s l)) (fun _ t => t.hasLaunch 9) = true := by
    decide +kernel
  refine ⟨⟨sq, _, u, _, rfl, hu⟩, ⟨sq, t1, i1, by decide +kernel, h1⟩, ⟨sl, t2, i2, canEnd_of (by decide +kernel), by decide +kernel, h2⟩,
    ⟨ss, t3, i3, canEnd_of (by decide +kernel), h3, of_decide_eq_true hp3⟩, fun there => ?_,
    ⟨se, t4, node, qs, List.replicate 16 0, canEnd_of (by decide +kernel), by decide +kernel, by decide +kernel, by decide +kernel, by decide +kernel, rfl,
      by rw [hqe]; decide +kernel, by rw [hqe]; decide, by rw [hqe]; decide +kernel, by rw [hqe]; exact hd, by rw [hqe]; exact h4⟩,
    ⟨boxE2 (.eflush 0), node, canEnd_of (by decide +kernel), by decide +kernel, by decide +kernel, rfl, by decide +kernel⟩,
    ⟨boxE2 (.emit 0 4096 0), canEnd_of (by decide +kernel), by decide +kernel⟩,
    fun c hm => ?_⟩
  · obtain ⟨n, t, h, hp⟩ := ok_of (hs1 there)
    simp only [Bool.and_eq_true, decide_eq_true_eq] at hp
    obtain ⟨rfl, hp⟩ := hp
    refine ⟨ss1 there, t, op7 (.signal 0x400), canEnd_of (by cases there <;> decide +kernel), rfl, h, ?_⟩
    cases there
    · have hp' := (Bool.and_eq_true _ _).mp hp
      obtain ⟨id, u, ha, -⟩ := ok_of hp'.2
      exact ⟨Option.isNone_iff_eq_none.mp hp'.1, id, u, ha⟩
    · exact Option.isSome_iff_exists.mp hp
  · obtain ⟨g1, g2, g3, g4, g5, g6, g7⟩ := hc c hm
    obtain ⟨_, t, g7, g8⟩ := ok_of g7
    exact ⟨sc c, t, g1, g2, g3, g4, g5, g6, g7, g8⟩

/-- Core 0 alone is in service in the first of four partitions, and the tenant function is enabled. -/
def boxR (ls : List Launch) (t : Team) : State :=
  { box with
    launches := ls, teams := [t], us := 5000
    tfs := box.tfs.map fun x => (x.1, { x.2 with en := true })
    ctl := { box.ctl with p := 2 }
    health := { box.health with
      retiredCores := (List.range 512).filter fun c => c != 0 && Config.dieOf c == 0 && decide (Config.sectorOf c % 8 < 4) } }

/-- A waiting launch; a saved team with nothing of it in the pool; a resumed one with a granule still in memory; one
whose group's control area is in memory; a team with no group left. -/
theorem witness_PlacementEvents :
    (∃ (s t : State) (x : Pending) (places : List (Nat × Nat)) (pools : List (Nat × List Nat)),
      (s.ageList 0).nextPlace 0 = some (x, places) ∧ x.saved = [] ∧ (s.ageList 0).reserve places = (some pools, t)) ∧
    (∃ (s : State) (o : CodeObject), s.objectOf (s.launchAt 9) = some o ∧ (s.launchAt 9).stream = none ∧ 0 < (s.launchAt 9).groupCount) ∧
    (∃ (s t : State) (x : Pending) (places : List (Nat × Nat)) (pools : List (Nat × List Nat)), s.refillOut = none ∧ s.controlOut = none ∧
      (s.ageList 0).nextPlace 0 = some (x, places) ∧ x.saved = [0] ∧
      (x.saved.foldl (fun v c => v.mapTeam c fun t => { t with retained := false }) (s.ageList 0)).reserve places = (some pools, t)) ∧
    (∃ s t : State, s.refillOut = some (0, 2) ∧ refillGranule 0 2 s = .ok () t) ∧
    (∃ (s t : State) (g : Group) (bs : List Byte), s.refillOut = none ∧ s.controlOut = some g ∧
      tenderRead g.ctx (g.frame + BitVec.ofNat 64 g.ctlOff) 512 s = .ok bs t) ∧
    ∃ s : State, s.teamOver 0 = true ∧ (s.launchAt (s.teamAt 0).launch).stream = none := by
  let sp := boxR [launch, pend 1 0] team
  let sv := boxR [launch] { team with state := .savedNone, granules := List.replicate 3 .inBacking }
  let sf := boxR [launch] { team with unfilled := [2] }
  let sc := box.mapCur fun g => { g with ctlOut := true }
  have key : ∀ (s : State) (c : List Nat), ((s.nextPlace 0).map fun x => x.1.saved) = some c →
      ∃ x ps, s.nextPlace 0 = some (x, ps) ∧ x.saved = c := by
    intro s c h
    obtain ⟨⟨x, ps⟩, hx, hc⟩ := Option.map_eq_some_iff.mp h
    exact ⟨x, ps, hx, hc⟩
  have take : ∀ (s : State) (ps : List (Nat × Nat)), (s.reserve ps).1.isSome = true → ∃ pools t, s.reserve ps = (some pools, t) := by
    intro s ps h
    obtain ⟨pools, hp⟩ := Option.isSome_iff_exists.mp h
    exact ⟨pools, (s.reserve ps).2, Prod.ext hp rfl⟩
  have hp : (match (sp.ageList 0).nextPlace 0 with | some (_, ps) => ((sp.ageList 0).reserve ps).1.isSome | none => false) = true := by
    decide +kernel
  have hv : (match (sv.ageList 0).nextPlace 0 with
      | some (x, ps) => ((x.saved.foldl (fun v c => v.mapTeam c fun t => { t with retained := false }) (sv.ageList 0)).reserve ps).1.isSome
      | none => false) = true := by decide +kernel
  obtain ⟨x1, ps1, h1, h1'⟩ := key (sp.ageList 0) [] (by decide +kernel)
  obtain ⟨x2, ps2, h2, h2'⟩ := key (sv.ageList 0) [0] (by decide +kernel)
  rw [h1] at hp
  rw [h2] at hv
  obtain ⟨pools1, t1, g1⟩ := take _ _ hp
  obtain ⟨pools2, t2, g2⟩ := take _ _ hv
  obtain ⟨_, t3, h3, -⟩ := ok_of (r := refillGranule 0 2 sf) (p := fun _ _ => true) (by decide +kernel)
  obtain ⟨bs, t4, h4, -⟩ := ok_of (r := tenderRead 0 (sc.curGroup.frame + BitVec.ofNat 64 sc.curGroup.ctlOff) 512 sc)
    (p := fun _ _ => true) (by decide +kernel)
  exact ⟨⟨sp, t1, x1, ps1, pools1, h1, h1', g1⟩, ⟨sp, object, by decide +kernel, by decide +kernel, by decide +kernel⟩,
    ⟨sv, t2, x2, ps2, pools2, by decide +kernel, by decide +kernel, h2, h2', g2⟩, ⟨sf, t3, by decide +kernel, h3⟩,
    ⟨sc, t4, sc.curGroup, bs, by decide +kernel, by decide +kernel, h4⟩, { box with groups := [] }, by decide +kernel⟩

/-- The one team of a launch of class 5 stands in the way of one of class 0 that needs almost the whole pool. -/
theorem witness_SchedulingEvents :
    (∃ s : State, (s.teamAt 0).state = .resident ∧ s.ctl.quantum ≠ 0 ∧ s.ctl.quantum.toNat ≤ s.us - (s.teamAt 0).since ∧
      (∃ x ∈ (s.ageList (s.partOf (s.teamAt 0))).pending (s.partOf (s.teamAt 0)), x.cls ≤ (s.launchAt (s.teamAt 0).launch).cls) ∧
      (s.launchAt (s.teamAt 0).launch).cosched = false) ∧
    (∃ s : State, (((s.ageList 0).pending 0).findSome? (s.ageList 0).roomFor).isSome = true ∧
      ∃ x ∈ s.pending 0, (s.roomFor x).isSome = true) ∧
    (∃ s : State, ∃ l ∈ s.launches, s.starts l = true ∧ (s.tf l.tf.toNat).part.toNat = 0) ∧
    (∃ s : State, ∃ x ∈ s.teams, x.isSaved = true ∧ (s.tf (s.launchAt x.launch).tf.toNat).part.toNat = 0) ∧
    (∃ s : State, (s.teamAt 0).state = .stopping ∧ (s.teamAt 0).hard = false ∧ (s.teamAt 0).request = some 4900 ∧
      s.ctl.timeout.toNat = s.us - 4900) ∧
    (∀ sh ∈ [[], [1]], ∃ s : State, s.canSave 0 = true ∧ (s.teamAt 0).core ∈ s.health.retiredCores ∧ (s.teamAt 0).shared = sh) ∧
    (∃ s : State, (s.bestReady 0 0).isSome = true ∧ s.starving 0 0 = none ∧ (s.activeOf 0 0).length < 8 ∧ s.enteredNow 0 0 = false) ∧
    (∃ s : State, (s.starving 0 0).isSome = true ∧ (s.activeOf 0 0).length < 8 ∧ s.enteredNow 0 0 = false) ∧
    (∃ s : State, (s.starving 0 0).isSome = true ∧ s.enteredNow 0 0 = true) ∧
    ∃ s : State, (s.starving 0 0).isSome = true ∧ 8 ≤ (s.activeOf 0 0).length ∧ s.enteredNow 0 0 = false := by
  let sr := boxR [{ launch with cls := 5 }, pend 237 0] team
  let ready : State := box.mapCur fun g => { g with main := { g.main with active := false, clause := none, wait := .none } }
  let stopped (sh : List Nat) : State :=
    { box.mapCur (fun g => { g with main := { g.main with stopped := true } }) with
      teams := [{ team with state := .stopping, shared := sh }], health := { box.health with retiredCores := [0] } }
  have hs : ∀ sh ∈ [[], [1]], (stopped sh).canSave 0 = true ∧ ((stopped sh).teamAt 0).core ∈ (stopped sh).health.retiredCores ∧
      ((stopped sh).teamAt 0).shared = sh := by decide +kernel
  let full (n : Nat) (e : Option Nat) : State :=
    { ready with
      clock := 3072
      quads := [(0, { Quadrant.reset with entered := e })]
      groups := ready.groups ++ (List.range n).map fun i =>
        { wordGroup 0 with idx := 4 * (i + 1), main := { wordParty 0 with ready := 0, entered := 1 } } }
  exact ⟨⟨sr, by decide +kernel⟩, ⟨sr, by decide +kernel⟩, ⟨sr, by decide +kernel⟩,
    ⟨boxR [launch] { team with state := .savedNone }, by decide +kernel⟩,
    ⟨boxR [launch] { team with state := .stopping, request := some 4900 }, by decide +kernel⟩,
    fun sh h => ⟨stopped sh, hs sh h⟩,
    ⟨ready, by decide +kernel⟩, ⟨full 7 none, by decide +kernel⟩, ⟨full 7 (some 3072), by decide +kernel⟩,
    full 8 (some 3071), by decide +kernel⟩

/-- A sample at the last clock step, and 1 °C above the limit. -/
theorem witness_EnergyEvents :
    (∃ s : State, (s.clock - s.tickAt).toNat + 1 = 100 * s.health.clk.toNat) ∧
    (∃ s : State, (s.clock - s.tickAt).toNat = 100 * s.health.clk.toNat ∧ s.launches ≠ []) ∧
    (∃ s : State, s.health.ready = true) ∧ (∃ s : State, s.health.headroom = 100 ∧ s.health.clk.toNat = 26) ∧
    ∃ s : State, s.health.overCap = 1000 ∧ s.health.danger = false :=
  ⟨⟨{ box with clock := 2699 }, by decide +kernel⟩, ⟨{ box with clock := 2700 }, by decide +kernel⟩,
    ⟨box, by decide +kernel⟩, ⟨{ box with health := { box.health with headroom := 100, clk := 26 } }, by decide +kernel⟩,
    { box with health := { box.health with overCap := 1000 } }, by decide +kernel⟩


/-- Not canonical; held; and a walk that meets V = 0 in the root. -/
theorem witness_TranslationEvents :
    ((0x0100000000000000 : DWord).extractLsb' 57 7 ≠ (if (0x0100000000000000 : DWord).getLsbD 56 then 0x7F else 0)) ∧
    ((0xFF00000000000000 : DWord).extractLsb' 57 7 = (if (0xFF00000000000000 : DWord).getLsbD 56 then 0x7F else 0)) ∧
    (∃ s : State, (s.heldFor 0 0 0xFFFF Access.keeperRead).isSome = true) ∧
    (∃ s : State, s.heldFor 0 0 0x10000 Access.keeperRead = none ∧ (s.tf 0).root.toNat * 4096 < Config.hbmBytes ∧
      (s.window 0 ((s.tf 0).root.toNat * 4096)).1 = true ∧
      Memory.readLe s.side.mem ((s.tf 0).root.toNat * 4096 + 8 * ((0x10000 : DWord).extractLsb' 48 9).toNat) 8 % 2 = 0) ∧
    (∃ s : State, s.Inv ∧ s.health.ready = true ∧ 8 * (s.tf 0).resAddr.toNat < Config.hbmBytes ∧ (s.tfs.any fun x => x.1 == 0) = true ∧
      ∃ k ∈ s.side.tokens, k.value = 0x01400000 ∧ k.asid = (s.tf 0).asid) ∧
    (∃ s : State, s.health.ready = true ∧ (s.tf 0).invs.length = 7 ∧ (s.tf 0).invHeld = []) ∧
    (∃ s : State, s.health.ready = true ∧ 8 ≤ (s.tf 0).invs.length) ∧
    (∀ x ∈ [(0, true), (Config.hbmBytes / 8, false)], ∃ s : State, s.Inv ∧ (s.tf 0).invHeld = [] ∧ (s.tf 0).invs = [{ seq := 4 }] ∧
      (s.drainTf 0).peersBusy 0 = false ∧ s.inPart (s.tf 0).part.toNat (8 * (s.tf 0).invCw.toNat) = x.2) ∧
    (∃ s : State, s.Inv ∧ (s.tf 0).invs = [{ seq := 4 }] ∧ (s.drainTf 0).peersBusy 0 = true) ∧
    (∃ s : State, s.health.ready = true ∧ (s.tf 0).fqEn = false ∧ (s.tf 0).held = []) ∧
    ∃ s : State, s.health.ready = true ∧ (s.tf 0).fqEn = true := by
  refine ⟨by decide, by decide, ⟨box, by decide +kernel⟩,
    ⟨boxTf fun b => { b with windows := b.windows.set 0 { base := 0, limit := 0x7FFFFFFF, ro := false, en := true } }, by decide +kernel⟩,
    ⟨boxSide fun m => { m with tokens := [{ sector := 0, entry := 5, seq := 0, asid := 0, page := 0 }] }, inv_of (by decide +kernel), by decide +kernel⟩,
    ⟨boxTf fun b => { b with invs := List.replicate 7 { seq := 1 } }, by decide +kernel⟩,
    ⟨boxTf fun b => { b with invs := List.replicate 8 { seq := 1 } }, by decide +kernel⟩,
    fun x hx => ⟨boxTf fun b => { b with invs := [{ seq := 4 }], invCw := BitVec.ofNat 49 x.1 }, inv_of ?_, ?_⟩,
    ⟨{ boxTf (fun b => { b with invs := [{ seq := 4 }] }) with ops := [op7 (.posted 0x100)] }, inv_of (by decide +kernel), by decide +kernel⟩,
    ⟨box, by decide +kernel⟩, boxTf fun b => { b with fqEn := true }, by decide +kernel⟩
  · revert hx; revert x; decide +kernel
  · revert hx; revert x; decide +kernel

/-- Code slot 0 in a state. -/
def boxCs (f : CodeSlot → CodeSlot) : State := boxTf fun b => b.mapSlot 0 f

/-- The header of an image of one word under MM2, with one page hash and one role of 8 registers (Tables 05-6, 05-7). -/
def imageCells : List Host.Cell :=
  [(0, 0x47), (1, 0x4E), (2, 0x43), (3, 0x4F), (4, 1), (6, 2), (0xA, 1), (0x10, 4), (0x14, 0x40), (0x20, 0x60), (0x24, 1),
   (0x64, 0xFF), (0x65, 0xFF), (0x66, 0xFF), (0x67, 0xFF), (0x68, 16), (0x69, 8), (0x6D, 8)]

/-- Each state of a slot, with and without contexts; LOAD of an image, and of a base that is not aligned, one that is
no image, and one on a page that is missing; the pages of an object. -/
theorem witness_CodeEvents :
    (∀ x ∈ [(SlotState.empty, 0), (.loading, 0), (.ready, 0), (.ready, 65535), (.failed, 0), (.unloading, 1), (.poisoned, 0)],
      ∃ s : State, s.health.ready = true ∧ ((s.tf 0).slot 0).state = x.1 ∧ ((s.tf 0).slot 0).refs = x.2) ∧
    (∃ s : State, ((s.tf 0).slot 0).state = .loading ∧ ((s.tf 0).slot 0).parked = none ∧ ((s.tf 0).slot 0).base.toNat % 65536 ≠ 0) ∧
    (∃ (s t : State) (e : Nat), ((s.tf 0).slot 0).state = .loading ∧ ((s.tf 0).slot 0).parked = none ∧
      loadObject 0 ((s.tf 0).slot 0).base s = .ok (.error e) t) ∧
    (∃ (s t : State) (o : CodeObject), ((s.tf 0).slot 0).state = .loading ∧ ((s.tf 0).slot 0).parked = none ∧
      loadObject 0 ((s.tf 0).slot 0).base s = .ok (.ok o) t) ∧
    (∃ (s t u : State) (x : FaultInfo) (k : Park), ((s.tf 0).slot 0).state = .loading ∧ ((s.tf 0).slot 0).parked = none ∧
      loadObject 0 ((s.tf 0).slot 0).base s = .error (.miss x) t ∧ t.parkKeeper 0 0 x = (some k, u)) ∧
    (∃ (s t : State) (o : CodeObject), s.pageWaiters 0 0 0 = [main] ∧ ((s.tf 0).slot 0).object = some o ∧
      ∃ bs, readCodePage 0 (s.coreOf 0) ((s.tf 0).slot 0).base o 0 Access.fetch s = .ok (bs, false) t) ∧
    ∃ s : State, ((s.tf 0).slot 0).state = .unloading ∧ ((s.tf 0).slot 0).refs = 0 := by
  let o : CodeObject := { object with codeSize := 64, verified := [] }
  let sx : State := { boxCs (fun c => { c with object := some o }) with groups := (boxX (.code 0)).groups }
  let sl : State := { boxCs (fun c => { c with state := .loading }) with side := { box.side with tlb := [{ held with core := 512 }] } }
  let sm : State := { boxTf (fun b => { b.mapSlot 0 fun c => { c with state := .loading } with
    dp := true, fqEn := true, windows := b.windows.set 0 { base := 0, limit := 0x7FFFFFFF, ro := false, en := true } }) with side := { box.side with tlb := [] } }
  obtain ⟨⟨bs, b⟩, t, h, hp⟩ := ok_of (r := readCodePage 0 (sx.coreOf 0) ((sx.tf 0).slot 0).base o 0 Access.fetch sx)
    (p := fun x _ => !x.2) (by decide +kernel)
  simp only [Bool.not_eq_true'] at hp
  subst hp
  obtain ⟨e, t2, h2, hp2⟩ := ok_of (r := loadObject 0 ((sl.tf 0).slot 0).base sl)
    (p := fun x _ => match x with | .error _ => true | .ok _ => false) (by decide +kernel)
  let si : State := { sl with side := { sl.side with mem := imageCells } }
  obtain ⟨e', t4, h4, hp4⟩ := ok_of (r := loadObject 0 ((si.tf 0).slot 0).base si)
    (p := fun x _ => match x with | .error _ => false | .ok _ => true) (by decide +kernel)
  obtain ⟨x, t3, h3, hp3⟩ := miss_of (r := loadObject 0 ((sm.tf 0).slot 0).base sm) (p := fun x t => (t.parkKeeper 0 0 x).1.isSome)
    (by decide +kernel)
  obtain ⟨k, hk⟩ := Option.isSome_iff_exists.mp hp3
  refine ⟨fun x hx => ⟨boxCs fun c => { c with state := x.1, refs := x.2 }, ?_⟩, ⟨boxCs fun c => { c with state := .loading, base := 4 }, by decide +kernel⟩,
    ?_, ?_, ⟨sm, t3, (t3.parkKeeper 0 0 x).2, x, k, by decide +kernel, by decide +kernel, h3, Prod.ext hk rfl⟩, ⟨sx, t, o, by decide +kernel, by decide +kernel, bs, h⟩, boxCs fun c => { c with state := .unloading }, by decide +kernel⟩
  · revert hx; revert x; decide +kernel
  · match e, hp2, h2 with
    | .error n, _, h2 => exact ⟨sl, t2, n, by decide +kernel, by decide +kernel, h2⟩
  · match e', hp4, h4 with
    | .ok o, _, h4 => exact ⟨si, t4, o, by decide +kernel, by decide +kernel, h4⟩

/-- Queue 5 of tenant function 0, open or not. -/
def boxOpen (en : Bool) : State := { boxK with queues := [(5, { queue5 with en := en })] }

/-- What QCTL's write makes of it before its tail word is read. -/
def opening (s : State) : State := s.mapQueue 5 fun x => { x with en := true, opening := true }

theorem witness_ServiceRegisterEvents :
    (∃ (s : State) (v : DWord), s.health.ready = true ∧ (s.tf 0).en = false ∧ v.getLsbD 0 = true ∧ (s.tf 0).part.toNat < 2 ^ s.ctl.p.toNat ∧
      ∀ x ∈ s.tfs, x.1 ≠ 0 → x.2.en = true → x.2.asid ≠ v.extractLsb' 16 12) ∧
    (∃ s : State, s.health.ready = true ∧ (s.tf 0).en = false ∧ (s.tf 0).part.toNat = 2 ^ s.ctl.p.toNat) ∧
    (∃ s : State, s.health.ready = true ∧ (s.tf 0).en = false ∧ (s.tf 255).en = true ∧ (s.tf 255).asid = 1) ∧
    (∃ s : State, s.health.ready = true ∧ (s.tf 0).en = true) ∧
    (∃ s : State, s.health.ready = true ∧ (s.tf 0).en = false ∧ ∀ x ∈ s.queues, x.2.tf = 0 → s.queueBusy x.1 = false) ∧
    (∃ s : State, s.health.ready = true ∧ ∃ x ∈ s.queues, x.2.tf = 0 ∧ s.queueBusy x.1 = true) ∧
    (∃ s : State, s.health.ready = true ∧ (s.queueAt 5).en = true) ∧
    (∃ s : State, s.health.ready = true ∧ s.ctl.pNext ≠ none) ∧
    (∃ (s t : State) (n : Nat), s.health.ready = true ∧ (s.queueAt 5).en = false ∧ s.ctl.pNext = none ∧ s.queueBusy 5 = false ∧
      readTail 5 (opening s) = .ok n t) ∧
    (∃ (s t : State) (e : FaultInfo), s.health.ready = true ∧ (s.queueAt 5).en = false ∧ s.ctl.pNext = none ∧
      readTail 5 (opening s) = .error (.fault e) t) ∧
    (∃ (s t w : State) (e : FaultInfo) (k : Park), s.health.ready = true ∧ (s.queueAt 5).en = false ∧ s.ctl.pNext = none ∧
      readTail 5 (opening s) = .error (.miss e) t ∧
      t.parkKeeper (t.queueAt 5).tf.toNat ((t.queueAt 5).nextNum 5) { e with acc := 0x41 } = (some k, w)) ∧
    (∃ s : State, s.health.ready = true ∧ (∀ x ∈ s.queues, s.queueBusy x.1 = false ∧ x.2.en = false) ∧ s.teams = [] ∧ s.ctl.pNext = none) ∧
    (∃ s : State, s.health.ready = true ∧ s.teams ≠ []) ∧ (∃ s : State, s.ctl.pNext = some 2) ∧
    (∃ s : State, s.health.ready = true ∧ (look s.slotTab 9 SlotEntry.reset).en = true) ∧
    (∀ cycle ∈ [(5 : DWord), 6], ∃ s : State, s.released = [(9, 8, cycle)] ∧ s.clock = 6 ∧
      s.ops.filter (fun o => decide (o.id < 8) && o.kind.slotNo.any fun n => n % 4096 == 9) = []) ∧
    (∃ (s : State) (o : Op), s.released = [(9, 8, 5)] ∧ s.clock = 6 ∧
      s.ops.filter (fun o => decide (o.id < 8) && o.kind.slotNo.any fun n => n % 4096 == 9) = [o] ∧ o.kind.statusAt = some 4096) ∧
    (∃ s : State, s.health.ready = true ∧ s.health.abusy = false) ∧
    (∃ s : State, s.Inv ∧ s.health.abusy = true ∧ 512 * s.health.attAddr.toNat < Config.hbmBytes) ∧ ∃ s : State, s.health.ready = false := by
  let sf : State := { boxOpen false with queues := [(5, { queue5 with en := false, qtail := 0x0100000000000000 })] }
  let sm : State := { boxTf (fun b => { b with
    dp := true, fqEn := true, windows := b.windows.set 0 { base := 0, limit := 0x7FFFFFFF, ro := false, en := true } }) with
    queues := (boxOpen false).queues }
  obtain ⟨n, t, h, -⟩ := ok_of (r := readTail 5 (opening (boxOpen false))) (p := fun _ _ => true) (by decide +kernel)
  obtain ⟨e1, t1, h1⟩ := fault_of (r := readTail 5 (opening sf)) (by decide +kernel)
  obtain ⟨e2, t2, h2, hp⟩ := miss_of (r := readTail 5 (opening sm))
    (p := fun e t => (t.parkKeeper (t.queueAt 5).tf.toNat ((t.queueAt 5).nextNum 5) { e with acc := 0x41 }).1.isSome) (by decide +kernel)
  obtain ⟨k, hk⟩ := Option.isSome_iff_exists.mp hp
  exact ⟨⟨box, 0x10001, by decide +kernel⟩, ⟨boxTf fun b => { b with part := 1 }, by decide +kernel⟩,
    ⟨{ box with tfs := put box.tfs 255 { TfBlock.reset with en := true, asid := 1 } }, by decide +kernel⟩,
    ⟨boxTf fun b => { b with en := true }, by decide +kernel⟩,
    ⟨boxOpen false, by decide +kernel⟩, ⟨boxOpen true, by decide +kernel⟩, ⟨boxOpen true, by decide +kernel⟩,
    ⟨{ box with ctl := { box.ctl with pNext := some 2 } }, by decide +kernel⟩,
    ⟨boxOpen false, t, n, by decide +kernel, by decide +kernel, by decide +kernel, by decide +kernel, h⟩,
    ⟨sf, t1, e1, by decide +kernel, by decide +kernel, by decide +kernel, h1⟩,
    ⟨sm, t2, _, e2, k, by decide +kernel, by decide +kernel, by decide +kernel, h2, Prod.ext hk rfl⟩,
    ⟨{ boxOpen false with teams := [], groups := [] }, by decide +kernel⟩, ⟨box, by decide +kernel⟩,
    ⟨{ box with ctl := { box.ctl with pNext := some 2 } }, rfl⟩, ⟨boxD [], by decide +kernel⟩,
    fun cycle _ => ⟨{ boxD [] with released := [(9, 8, cycle)], clock := 6 }, rfl, rfl, rfl⟩,
    ⟨{ boxD [] with released := [(9, 8, 5)], clock := 6, ops := [op7 (.crecv 9 6 0x100 4 4096)] }, op7 (.crecv 9 6 0x100 4 4096), by decide +kernel⟩,
    ⟨box, by decide +kernel⟩,
    ⟨{ box with health := { box.health with abusy := true } }, inv_of (by decide +kernel), by decide +kernel⟩, State.reset, by decide +kernel⟩

/-- Queue pair 3 is live, the fabric is up and link 2 is trained. -/
def boxH2 : State :=
  { boxK with
    ctl := { boxK.ctl with ven := true }
    qps := [(3, { QueuePair.reset with en := true, state := 1, rkey := 7, lq := 5 })]
    queues := [(5, { queue5 with qbase := 0x1000 })]
    imports := [(0, { base := 0, limit := 0x7FFFFFFF, ro := false, en := true, src := 4 })]
    links := [(2, { Link.reset with up := true })] }

theorem fails_of {α} {r : EStateM.Result Stop State α} (h : faultB r = true) : ∃ e t, r = .error e t := by
  obtain ⟨e, t, h⟩ := fault_of h
  exact ⟨_, t, h⟩

/-- Its queue has one record and room for 2^log2n. -/
def boxRing (log2n : BitVec 4) (tail : DWord) : State :=
  { boxH2 with queues := [(5, { queue5 with qbase := 0x1000, log2n := log2n, qtail := tail })] }

theorem witness_HostAndFabricEvents :
    (∃ s : State, s.qpLive 3 = false) ∧
    (∃ s t u : State, s.qpLive 3 = true ∧ (s.qpAt 3).rkey = 7 ∧ rdmaPut (s.qpAt 3).tf.toNat 0xFFF [1, 2] s = .ok () t ∧
      ∃ bs, rdmaGet (s.qpAt 3).tf.toNat 0xFFF 2 s = .ok bs u) ∧
    (∃ (s t u : State) (e e' : Stop), s.qpLive 3 = true ∧ (s.qpAt 3).rkey = 7 ∧
      rdmaPut (s.qpAt 3).tf.toNat 0x0100000000000000 [1] s = .error e t ∧ rdmaGet (s.qpAt 3).tf.toNat 0x0100000000000000 1 s = .error e' u) ∧
    (∃ s : State, s.qpLive 3 = true ∧ (0 < ((s.qpAt 3).rpsn - 0xFFFFFF).toNat ∧ ((s.qpAt 3).rpsn - 0xFFFFFF).toNat < 2 ^ 23) ∧
      2 ^ 23 = ((s.qpAt 3).rpsn - 0x800000).toNat) ∧
    (∃ s t : State, s.qpLive 3 = true ∧ (s.queueAt (s.qpAt 3).lq.toNat).tf = (s.qpAt 3).tf ∧
      sendRecord (s.qpAt 3).lq.toNat (List.replicate 512 1) s = .ok true t) ∧
    (∃ s t : State, s.qpLive 3 = true ∧ (s.queueAt (s.qpAt 3).lq.toNat).tf = (s.qpAt 3).tf ∧
      sendRecord (s.qpAt 3).lq.toNat (List.replicate 512 1) s = .ok false t) ∧
    (∃ (s t : State) (e : Stop), s.qpLive 3 = true ∧ (s.queueAt (s.qpAt 3).lq.toNat).tf = (s.qpAt 3).tf ∧
      sendRecord (s.qpAt 3).lq.toNat (List.replicate 512 1) s = .error e t) ∧
    (∃ s : State, s.qpLive 3 = true ∧ (s.queueAt (s.qpAt 3).lq.toNat).tf ≠ (s.qpAt 3).tf) ∧
    (∃ s : State, s.health.ready = true ∧ s.ctl.ven = true ∧ s.granted 4 0x100 8 true = true ∧ s.granted 5 0x100 8 false = false ∧
      (∃ f, peerAtomic 0x100 (.arrive 0x100) = some (8, f)) ∧ s.side.poison.contains (0x100 / 32) = true) ∧
    (∃ s : State, s.health.ready = true ∧ s.ctl.ven = false) ∧
    (∃ (s : State) (f : List Byte), s.takesFlit 2 f 1 = true ∧ flitSeq f = (s.linkAt 2).rxSeq ∧ (s.linkAt 2).held = []) ∧
    (∃ (s : State) (f : List Byte), s.takesFlit 2 f 1 = true ∧ (flitSeq f - (s.linkAt 2).rxSeq).toNat = 512 ∧
      (∀ x ∈ (s.linkAt 2).held, x.1 ≠ flitSeq f) ∧ (s.linkAt 2).held.length < 512) ∧
    (∃ (s : State) (f : List Byte), s.takesFlit 2 f 2 = true ∧ (s.linkAt 2).waiting = []) ∧
    (∃ (s : State) (f : List Byte), s.takesFlit 2 f 3 = true ∧
      ((s.linkAt 2).replay.find? fun x => x.seq == flitNum f).isSome = true) ∧
    ∃ s : State, s.ctl.ven = true ∧ (s.linkAt 2).up = true ∧ s.health.ready = true ∧ (s.linkAt 23).up = false := by
  obtain ⟨_, t1, h1, -⟩ := ok_of (r := rdmaPut (boxH2.qpAt 3).tf.toNat 0xFFF [1, 2] boxH2) (p := fun _ _ => true) (by decide +kernel)
  obtain ⟨b2, t2, h2, -⟩ := ok_of (r := rdmaGet (boxH2.qpAt 3).tf.toNat 0xFFF 2 boxH2) (p := fun _ _ => true) (by decide +kernel)
  obtain ⟨b3, t3, h3, hb3⟩ := ok_of (r := sendRecord 5 (List.replicate 512 1) (boxRing 1 0x100)) (p := fun b _ => b) (by decide +kernel)
  rw [hb3] at h3
  obtain ⟨b4, t4, h4, hb4⟩ := ok_of (r := sendRecord 5 (List.replicate 512 1) (boxRing 0 0x100)) (p := fun b _ => !b) (by decide +kernel)
  rw [Bool.not_eq_true'] at hb4
  rw [hb4] at h4
  let sb := boxRing 0 0x0100000000000000
  obtain ⟨e5, t5, h5⟩ := fails_of (r := sendRecord (sb.qpAt 3).lq.toNat (List.replicate 512 1) sb) (by decide +kernel)
  obtain ⟨e6, t6, h6⟩ := fails_of (r := rdmaPut (boxH2.qpAt 3).tf.toNat 0x0100000000000000 [1] boxH2) (by decide +kernel)
  obtain ⟨e7, t7, h7⟩ := fails_of (r := rdmaGet (boxH2.qpAt 3).tf.toNat 0x0100000000000000 1 boxH2) (by decide +kernel)
  exact ⟨⟨box, by decide +kernel⟩, ⟨boxH2, t1, t2, by decide +kernel, by decide +kernel, h1, b2, h2⟩,
    ⟨boxH2, t6, t7, e6, e7, by decide +kernel, by decide +kernel, h6, h7⟩, ⟨boxH2, by decide +kernel⟩,
    ⟨boxRing 1 0x100, t3, by decide +kernel, by decide +kernel, h3⟩,
    ⟨boxRing 0 0x100, t4, by decide +kernel, by decide +kernel, h4⟩, ⟨sb, t5, e5, by decide +kernel, by decide +kernel, h5⟩,
    ⟨{ boxH2 with queues := [(5, { queue5 with tf := 255 })] }, by decide +kernel⟩,
    ⟨{ boxH2 with side := { boxH2.side with poison := [8] } }, by decide +kernel, by decide +kernel, by decide +kernel, by decide +kernel,
      ⟨_, rfl⟩, by decide +kernel⟩,
    ⟨box, by decide +kernel⟩, ⟨boxH2, makeFlit 1 0 [5], by decide +kernel⟩, ⟨boxH2, makeFlit 1 512 [5], by decide +kernel⟩,
    ⟨boxH2, controlFlit 2 9, by decide +kernel⟩,
    ⟨{ boxH2 with links := [(2, { Link.reset with up := true, replay := [{ seq := 4, bytes := makeFlit 1 4 [], own := [] }] })] },
      controlFlit 3 4, by decide +kernel⟩, boxH2, by decide +kernel⟩

/-- A fog-signal state; a report on which power-up fails whatever the image; one on which it ends READY unless the image
fails, which is a free value of Config; and an image whose write was interrupted. -/
theorem witness_PowerUpEvents :
    (∃ (s : State) (r : PowerUpReport) (k : Nat), bootFails s.health.imageOk r = some k) ∧
    (∃ r : PowerUpReport, r.failedClusters = [] ∧ r.failedSlices = [] ∧ r.stacksTrained = true ∧ bootFails true r = none) ∧
    (∃ r : PowerUpReport, r.failedClusters = [] ∧ r.stacksTrained = false) ∧
    (∃ s : State, s.health.torn = true ∧ s.health.fog = some 1) ∧ (∃ s : State, s.health.torn = false ∧ s.health.fog = none) ∧
    ∃ bs : List Byte, 64 * 2 ^ 20 - 1 + bs.length = 64 * 2 ^ 20 := by
  refine ⟨⟨box, { failedClusters := [], failedSlices := [], failedGranules := [], stacksTrained := false }, ?_⟩,
    ⟨{ failedClusters := [], failedSlices := [], failedGranules := [], stacksTrained := true }, by decide +kernel⟩,
    ⟨{ failedClusters := [], failedSlices := [], failedGranules := [], stacksTrained := false }, by decide⟩,
    ⟨{ box with health := { box.health with torn := true, fog := some 1 } }, rfl, rfl⟩, ⟨box, by decide +kernel⟩, [0], rfl⟩
  cases h : box.health.imageOk
  · exact ⟨1, by decide +kernel⟩
  · exact ⟨3, by decide +kernel⟩

/-! ## Single steps: results worked out by hand from the rules -/

/-- The next state passes a check. -/
def ran (o : Host.Outcome State Fault Refusal) (p : State → Bool) : Bool :=
  match o with
  | .next t => p t
  | _ => false

/-- SADD wraps modulo 2^64; SDIV by zero answers all ones, and the overflowing quotient is the dividend (R243, R244). -/
theorem test_scalar_corners :
    ran (exec (.sadd 1 3 0xC4 1) (boxS [(4, 0xFFFFFFFFFFFFFFFF)])) (fun t => t.curGroup.s.getD 3 9 == 0) = true ∧
    ran (exec (.sdiv 1 3 0xC4 0) (boxS [(4, 5)])) (fun t => t.curGroup.s.getD 3 0 == 0xFFFFFFFFFFFFFFFF) = true ∧
    ran (exec (.sdiv 1 3 0xC4 0xFF) (boxS [(4, 0x8000000000000000)])) (fun t => t.curGroup.s.getD 3 0 == 0x8000000000000000) = true := by
  decide +kernel

/-- A write to m1 drops the bits above W = 16, and MFFS of an empty mask answers all ones (R245, Table 09-6). -/
theorem test_mask_width :
    ran (exec (.mfroms 1 0xC4) (boxS [(4, 0x123456)])) (fun t => t.curGroup.m.getD 1 0 == 0x3456) = true ∧
    ran (exec (.mffs 3 2) box) (fun t => t.curGroup.s.getD 3 0 == 0xFFFFFFFFFFFFFFFF) = true := by decide +kernel

/-- Elements of a byte word do not carry into each other; a saturating sum stops at 127 and sets FSTAT.SAT, bit 5 (R185,
R248, R250). -/
theorem test_vector_elements :
    ran (exec (.vaddI8 1 2 1 1) (boxV [(1, fun _ => 0x01FF7FFF)])) (fun t => t.curGroup.lane 2 15 == 0x02008000) = true ∧
    ran (exec (.vaddsatI8 1 2 1 1) (boxV [(1, fun _ => 0x01FF7FFF)]))
      (fun t => t.curGroup.lane 2 0 == 0x02007F00 && t.curGroup.fstat == 0x20) = true := by decide +kernel

/-- Under a mask with Z = 1 the lanes outside it become zero; with Z = 0 they stay (R247). -/
theorem test_vector_mask :
    ran (exec (.vmov 1 2 7) ((boxP { Prefix.absent with sel := 1, zero := 1 }).mapCur fun g => { g with m := g.m.set 1 2, v := g.v.set 2 (.raw (List.replicate 16 5)) }))
      (fun t => t.curGroup.lane 2 1 == 7 && t.curGroup.lane 2 0 == 0) = true ∧
    ran (exec (.vmov 1 2 7) ((boxP { Prefix.absent with sel := 1, zero := 0 }).mapCur fun g => { g with m := g.m.set 1 2, v := g.v.set 2 (.raw (List.replicate 16 5)) }))
      (fun t => t.curGroup.lane 2 1 == 7 && t.curGroup.lane 2 0 == 5) = true := by decide +kernel

/-- 1 + 2^-24 is a tie and rounds to the even 1, setting PR, bit 4; 0 / 0 is the canonical NaN and sets IV, bit 0
(R189 to R191). -/
theorem test_float_corners :
    ran (exec (.vfadd 2 1 3) (boxV [(1, fun _ => 0x3F800000), (3, fun _ => 0x33800000)]))
      (fun t => t.curGroup.lane 2 0 == 0x3F800000 && t.curGroup.fstat == 0x10) = true ∧
    ran (exec (.vfdiv 2 1 1) box) (fun t => t.curGroup.lane 2 0 == 0x7FC00000 && t.curGroup.fstat == 1) = true := by decide +kernel

/-- The spec's example of an LG8 product: codes 72 and 61 give 6317 × 2^-12 (R187). -/
theorem test_lg8_product :
    let x : MmaStep := { fmt := 6, ba := false, acts := List.replicate 16 (List.replicate 16 72), tile := { tile1 with fmt := 6, elems := [[61]] } }
    (x.elem 0 0 0).bits = 0x3FC56800 := by decide +kernel

/-- LOOP counts down and goes on at 0; CALL links to the word after it (R233). -/
theorem test_transfers :
    ran (exec (.loop 3 5) (boxS [(3, 1)])) (fun t => t.curGroup.s.getD 3 9 == 0 && t.curParty.pc == 8) = true ∧
    ran (exec (.call 5) box) (fun t => t.curGroup.s.getD 31 0 == 8 && t.curParty.pc == 24) = true := by decide +kernel

/-- TRAP 9 with a handler at word 16: cause 08, word 1 and DETAIL 9 in word 0 of the record (R238, R361, Table 16-2). -/
theorem test_trap_record :
    ran (exec (.trap 9) boxH) (fun t => t.curGroup.trap.words.getD 0 0 == 0x0000000900000108 && t.curParty.pc == 64) = true := by
  decide +kernel

/-- A store of the pool window reaches it at its completion, not at its issue (R97). -/
theorem test_store_queue :
    ran (exec (.stp 0 2 1 1 4 0 0) boxL) (fun t => t.myTeam.pool == [] && t.curGroup.sq.map (·.writes.length) == [16] && t.curGroup.flags.getD 0 0 == 1) = true := by
  decide +kernel

/-- ATOMP.MIN is signed, and answers the old value (Table 08-9). -/
theorem test_atomic_min :
    ran (exec (.atompMin 0 0 127 1 4) (boxA.mapCur fun g => { g with v := g.v.set 127 (.raw (List.replicate 16 0xFFFFFFFF)) }))
      (fun t => t.curGroup.lane 127 14 == 0 && Memory.get t.myTeam.pool 4152 == 0xFF && Memory.get t.myTeam.pool 4156 == 0) = true := by
  decide +kernel

/-- BARARR by the last expected party turns the phase: arrived 0, phase 6 (R285). -/
theorem test_barrier_turn : arrive 0x0005_0001_0002 = 0x0006_0000_0002 := by decide +kernel

/-- Above 2,400 W the clock goes down one step; at 2,400 W and 95 °C it stays (R408). -/
theorem test_power_sample :
    ran (exec (.powerSample 2401 20) box) (fun t => t.health.clk == 0x1A) = true ∧
    ran (exec (.powerSample 2400 95) box) (fun t => t.health.clk == 0x1B) = true := by decide +kernel

end Sys2Proof.Tests
end

section
/-!
PROOFS. Code slots (R157 to R161): what a write to CODECTL does, how LOAD and the verification of a page end, and that
fault records, writes at home and the end of contexts leave every slot's state as it is.
-/

namespace Sys2Proof.CodeSlots

open Sys2Proof Sys2Proof.Machine

/-! ## What a write to CODECTL does -/

/-- The register of a slot lies in the translation block of its tenant function, and takes a command (Table 05-8). -/
theorem svcWrite_codectl {s : State} (hr : s.health.ready = true) (tf : BitVec 8) (slot : BitVec 7) (v : DWord) :
    s.svcWrite (codectlOff tf slot) v = s.writeCodectl tf.toNat slot.toNat v.toNat := by
  have ht := tf.isLt
  have hk := slot.isLt
  have hlt : codectlOff tf slot < 0x10_0000 := by unfold codectlOff; omega
  have hblock : codectlOff tf slot / 4096 = tf.toNat := by unfold codectlOff; omega
  have hoff : codectlOff tf slot % 4096 = 0x808 + 16 * slot.toNat := by unfold codectlOff; omega
  have hslot : (0x808 + 16 * slot.toNat - 0x800) / 16 = slot.toNat := by omega
  have hodd : (0x808 + 16 * slot.toNat) % 16 ≠ 0 := by omega
  simp only [State.svcWrite, State.svcWriteBy, State.svcPut, hr, hlt, hblock, hoff, State.writeTtBlock, hslot, hodd,
    Bool.not_true, Bool.false_eq_true, if_true, if_false]
  repeat rw [if_neg (by omega)]
  rw [if_pos (by omega)]

/-- CMD is the low two bits of the word (Table 05-8). -/
theorem codeCmd_eq (v : DWord) : codeCmd v = (v.extractLsb' 0 2).toNat := by simp [codeCmd, field]

theorem writeCodectl_load {v : DWord} (s : State) (t k : Nat) (hc : codeCmd v = 1) :
    s.writeCodectl t k v.toNat = s.codeLoad t k := by
  simp only [codeCmd] at hc
  simp only [State.writeCodectl, hc]

theorem writeCodectl_unload {v : DWord} (s : State) (t k : Nat) (hc : codeCmd v = 2) (hf : codeForce v = false) :
    s.writeCodectl t k v.toNat = s.codeUnload t k := by
  have hb : bitAt v.toNat 2 = false := hf
  simp only [codeCmd] at hc
  simp only [State.writeCodectl, hc, hb]

theorem writeCodectl_force {v : DWord} (s : State) (t k : Nat) (hc : codeCmd v = 2) (hf : codeForce v = true) :
    s.writeCodectl t k v.toNat = s.codeUnloadForce t k := by
  have hb : bitAt v.toNat 2 = true := hf
  simp only [codeCmd] at hc
  simp only [State.writeCodectl, hc, hb]

theorem writeCodectl_other {v : DWord} (s : State) (t k : Nat) (h1 : codeCmd v ≠ 1) (h2 : codeCmd v ≠ 2) :
    s.writeCodectl t k v.toNat = s := by
  unfold State.writeCodectl
  split
  · exact absurd ‹_› h1
  · exact absurd ‹_› h2
  · exact absurd ‹_› h2
  · rfl

/-- A command that the slot's state does not accept changes nothing (R158, R161). -/
theorem writeCodectl_refused {s : State} {tf : BitVec 8} {slot : BitVec 7} {v : DWord}
    (h : s.slotAccepts tf slot v = false) : s.writeCodectl tf.toNat slot.toNat v.toNat = s := by
  unfold State.slotAccepts at h
  by_cases h1 : codeCmd v = 1
  · rw [writeCodectl_load s _ _ h1]
    cases hst : ((s.tf tf.toNat).slot slot.toNat).state <;> simp_all [SlotState.accepts, State.codeLoad]
  by_cases h2 : codeCmd v = 2
  · cases hf : codeForce v
    · rw [writeCodectl_unload s _ _ h2 hf]
      cases hst : ((s.tf tf.toNat).slot slot.toNat).state <;> simp_all [SlotState.accepts, State.codeUnload]
    · rw [writeCodectl_force s _ _ h2 hf]
      cases hst : ((s.tf tf.toNat).slot slot.toNat).state <;> simp_all [SlotState.accepts, State.codeUnloadForce]
  · exact writeCodectl_other s _ _ h1 h2

/-- An event of CODECTL whose guard holds exactly for the commands that its slot accepts has the effect of the write. -/
theorem svcEvent_codectl {s : State} (hr : s.health.ready = true) (tf : BitVec 8) (slot : BitVec 7) (v : DWord) :
    s.svcEvent (codectlOff tf slot) v (s.slotAccepts tf slot v) = s.writeCodectl tf.toNat slot.toNat v.toNat := by
  unfold State.svcEvent
  split
  · exact svcWrite_codectl hr tf slot v
  · next hno => exact (writeCodectl_refused (Bool.eq_false_iff.mpr hno)).symm

/-- The event of a command writes it, whether the slot accepts it or not. -/
theorem exec_codeLoad {s : State} (hr : s.health.ready = true) (tf : BitVec 8) (slot : BitVec 7) {v : DWord}
    (hc : codeCmd v = 1) : exec (.codeLoad tf slot v) s = .next (s.codeLoad tf.toNat slot.toNat) := by
  rw [← writeCodectl_load s _ _ hc, ← svcEvent_codectl hr]
  show execCodeLoad tf slot v s = _
  simp [execCodeLoad, hc]

theorem exec_codeUnload {s : State} (hr : s.health.ready = true) (tf : BitVec 8) (slot : BitVec 7) {v : DWord}
    (hc : codeCmd v = 2) (hf : codeForce v = false) :
    exec (.codeUnload tf slot v) s = .next (s.codeUnload tf.toNat slot.toNat) := by
  rw [← writeCodectl_unload s _ _ hc hf, ← svcEvent_codectl hr]
  show execCodeUnload tf slot v s = _
  simp [execCodeUnload, hc, hf]

theorem exec_codeUnloadForce {s : State} (hr : s.health.ready = true) (tf : BitVec 8) (slot : BitVec 7) {v : DWord}
    (hc : codeCmd v = 2) (hf : codeForce v = true) :
    exec (.codeUnloadForce tf slot v) s = .next (s.codeUnloadForce tf.toNat slot.toNat) := by
  rw [← writeCodectl_force s _ _ hc hf, ← svcEvent_codectl hr]
  show execCodeUnloadForce tf slot v s = _
  simp [execCodeUnloadForce, hc, hf]

theorem exec_codeCmdIgnored {s : State} (hr : s.health.ready = true) (tf : BitVec 8) (slot : BitVec 7) (v : DWord) :
    exec (.codeCmdIgnored tf slot v) s = .next s := by
  show execCodeCmdIgnored tf slot v s = _
  unfold execCodeCmdIgnored State.svcEvent
  split
  · next hok =>
    have hno : s.slotAccepts tf slot v = false := by simpa using (Bool.and_eq_true_iff.mp hok).2
    rw [svcWrite_codectl hr, writeCodectl_refused hno]
  · rfl

/-! ## What each command does to a slot -/

section Commands

variable {s : State} {t k : Nat}

theorem codeLoad_begins (h : ((s.tf t).slot k).state = .empty ∨ ((s.tf t).slot k).state = .failed) :
    s.codeLoad t k = s.mapSlot t k fun c => { c with state := .loading } := by
  rcases h with h | h <;> simp only [State.codeLoad, h]

theorem codeUnload_empties (h : ((s.tf t).slot k).state = .empty ∨ ((s.tf t).slot k).state = .failed ∨
      (((s.tf t).slot k).state = .ready ∨ ((s.tf t).slot k).state = .poisoned) ∧ ((s.tf t).slot k).refs = 0) :
    s.codeUnload t k = s.mapSlot t k CodeSlot.emptied := by
  rcases h with h | h | ⟨h | h, hz⟩
  · simp only [State.codeUnload, h]
  · simp only [State.codeUnload, h]
  · simp only [State.codeUnload, h, hz, if_true]
  · simp only [State.codeUnload, h, hz, if_true]

theorem codeUnload_marks (h : ((s.tf t).slot k).state = .ready ∨ ((s.tf t).slot k).state = .poisoned)
    (hz : ((s.tf t).slot k).refs ≠ 0) :
    s.codeUnload t k = s.mapSlot t k fun c => { c with state := .unloading } := by
  rcases h with h | h <;> simp only [State.codeUnload, h, hz, if_false]

theorem codeUnloadForce_ends (h : ((s.tf t).slot k).state = .ready ∨ ((s.tf t).slot k).state = .poisoned ∨
      ((s.tf t).slot k).state = .unloading) :
    s.codeUnloadForce t k =
      let u := (s.mapSlot t k fun c => { c with state := .unloading, force := true }).endObject t k cCodeGone
        (BitVec.ofNat 32 k) false none
      if ((s.tf t).slot k).refs = 0 then u.mapSlot t k CodeSlot.emptied else u := by
  rcases h with h | h | h <;> simp only [State.codeUnloadForce, h]

theorem codeUnloadForce_empties (h : ((s.tf t).slot k).state = .empty ∨ ((s.tf t).slot k).state = .failed) :
    s.codeUnloadForce t k = s.mapSlot t k CodeSlot.emptied := by
  rcases h with h | h <;> simp only [State.codeUnloadForce, h]

theorem codeUnloadForce_loading (h : ((s.tf t).slot k).state = .loading) : s.codeUnloadForce t k = s := by
  simp only [State.codeUnloadForce, h]

end Commands

/-! ## How LOAD ends -/

/-- A misaligned or non-canonical base fails before anything is read (R158). -/
theorem loadObject_bad_base {base : DWord} (t : Nat) (s : State) (h : base.toNat % 65536 ≠ 0 ∨
      base.extractLsb' 57 7 ≠ (if base.getLsbD 56 then 0x7F else 0)) :
    loadObject t base s = .ok (.error 0x01) s := by
  have hbad : (!canonical base || base.toNat % 65536 != 0) = true := by
    rcases h with h | h
    · simp [h]
    · cases hb : base.getLsbD 56 <;> simp_all [canonical]
  unfold loadObject
  rw [if_pos hbad]
  rfl

section LoadEnd

variable {s t : State} {tf : BitVec 8} {slot : BitVec 7}

theorem exec_codeLoadVerify (hl : ((s.tf tf.toNat).slot slot.toNat).state = .loading)
    (hp : ((s.tf tf.toNat).slot slot.toNat).parked = none) :
    exec (.codeLoadVerify tf slot) s = .next (s.loadEnd tf.toNat slot.toNat) := by
  show execCodeLoadVerify tf slot s = _
  simp [execCodeLoadVerify, hl, hp]

theorem loadEnd_ready {n k : Nat} {o : CodeObject} (h : loadObject n ((s.tf n).slot k).base s = .ok (.ok o) t) :
    s.loadEnd n k = t.mapSlot n k fun c => { c with state := .ready, err := 0, object := some o } := by
  simp only [State.loadEnd, h]

theorem loadEnd_failed {n k e : Nat} (h : loadObject n ((s.tf n).slot k).base s = .ok (.error e) t) :
    s.loadEnd n k = t.mapSlot n k fun c => { c with state := .failed, err := BitVec.ofNat 8 e, object := none } := by
  simp only [State.loadEnd, h]

theorem loadEnd_parked {n k : Nat} {x : FaultInfo} {p : Park} {u : State}
    (h : loadObject n ((s.tf n).slot k).base s = .error (.miss x) t) (hk : t.parkKeeper n 0 x = (some p, u)) :
    s.loadEnd n k = u.mapSlot n k fun c => { c with parked := some p } := by
  simp only [State.loadEnd, h, hk]

end LoadEnd

/-! ## The states of code slots -/

/-- STATE of every code slot of every tenant function, as a table of translation blocks gives it. -/
def slotStates (l : List (Nat × TfBlock)) (t k : Nat) : SlotState := ((look l t TfBlock.reset).slot k).state

/-- What every step of a fold keeps, the fold keeps. -/
theorem foldl_keeps {σ α β : Type} (p : σ → β) {f : σ → α → σ} (h : ∀ s x, p (f s x) = p s) :
    ∀ (l : List α) (s : σ), p (l.foldl f s) = p s
  | [], _ => rfl
  | x :: l, s => (foldl_keeps p h l (f s x)).trans (h s x)

/-- A fold of steps that change no slot's state changes none. -/
theorem foldl_slotStates {α : Type} {f : State → α → State} (h : ∀ s x, slotStates (f s x).tfs = slotStates s.tfs)
    (l : List α) (s : State) : slotStates (l.foldl f s).tfs = slotStates s.tfs :=
  foldl_keeps (fun s : State => slotStates s.tfs) h l s

/-- A change of every value of a list by key that `p` does not see. -/
theorem look_mapValues {α β : Type} (p : α → β) {g : α → α} (h : ∀ x, p (g x) = p x) (k : Nat) (d : α) :
    ∀ l : List (Nat × α), p (look (l.map fun x => (x.1, g x.2)) k d) = p (look l k d)
  | [] => rfl
  | (j, v) :: l => by
    simp only [List.map_cons, look]
    split
    · exact h v
    · exact look_mapValues p h k d l

/-- A change of one block that leaves its slots. -/
theorem slotStates_put {s : State} {n : Nat} {b : TfBlock} (h : b.slots = (s.tf n).slots) :
    slotStates (put s.tfs n b) = slotStates s.tfs := by
  funext t k
  unfold slotStates TfBlock.slot
  by_cases ht : t = n
  · subst ht; rw [look_put_self, h]; rfl
  · rw [look_put_other _ _ ht]

/-- The state given to a slot. -/
theorem slotStates_mapSlot (s : State) (t k : Nat) (f : CodeSlot → CodeSlot) :
    slotStates (s.mapSlot t k f).tfs t k = (f ((s.tf t).slot k)).state := by
  show (((s.mapSlot t k f).tf t).slot k).state = _
  simp only [State.mapSlot, State.tf_mapTf_self]
  exact congrArg CodeSlot.state (look_put_self k _ _ _)

/-- A slot of which LOAD's reads retry where `f` answers none to their park, as `State.mapParks` leaves it. -/
def retrying (f : Park → Option Park) (c : CodeSlot) : CodeSlot := { c with parked := c.parked.bind f }

/-- Waking waiters changes no slot's state: of LOAD's reads only the park goes. -/
@[simp] theorem mapParks_slotStates (s : State) (f : Park → Option Park) :
    slotStates (s.mapParks f).tfs = slotStates s.tfs := by
  funext t k
  exact look_mapValues (g := fun b : TfBlock => { b with slots := b.slots.map fun x => (x.1, retrying f x.2) })
    (fun b : TfBlock => (b.slot k).state)
    (fun b => look_mapValues (g := retrying f) CodeSlot.state (fun _ => rfl) k _ b.slots) t _ s.tfs

/-! ## Home slices and links leave the translation blocks -/

@[simp] theorem dropReplica_tfs (s : State) (a l : Nat) : (s.dropReplica a l).tfs = s.tfs := rfl
@[simp] theorem l2Drop_tfs (s : State) (l : Nat) : (s.l2Drop l).tfs = s.tfs := rfl
@[simp] theorem l1Map_tfs (s : State) (c k : Nat) (f : L1Sector → L1Sector) : (s.l1Map c k f).tfs = s.tfs := rfl
@[simp] theorem recordStrong_tfs (s : State) (us : List (Nat × Nat × Nat)) : (s.recordStrong us).tfs = s.tfs := rfl
@[simp] theorem breakWatches_tfs (s : State) (own : List Writer) (as : List Nat) : (s.breakWatches own as).tfs = s.tfs := rfl
@[simp] theorem refusePeers_tfs (s : State) (own : List Writer) : (s.refusePeers own).tfs = s.tfs := rfl
@[simp] theorem sendNow_tfs (s : State) (p : Nat) (bs : List Byte) (own : List Writer) : (s.sendNow p bs own).tfs = s.tfs := rfl
@[simp] theorem poisonHome_tfs (s : State) (k : Nat) : (s.poisonHome k).tfs = s.tfs := rfl

@[simp] theorem l2Trim_tfs (s : State) (sl l n : Nat) : (s.l2Trim sl l n).tfs = s.tfs := by
  unfold State.l2Trim
  dsimp only
  repeat' split
  all_goals simp

@[simp] theorem l2Room_tfs (s : State) (sl l : Nat) : (s.l2Room sl l).tfs = s.tfs := l2Trim_tfs ..

@[simp] theorem l2Touch_tfs (s : State) (pa n : Nat) (w : Bool) (a : Option Nat) (l : Nat) :
    (s.l2Touch pa n w a l).tfs = s.tfs := by
  unfold State.l2Touch
  dsimp only
  repeat' split
  all_goals simp

@[simp] theorem l2Use_tfs (s : State) (pa n : Nat) (w : Bool) (a : Option Nat) : (s.l2Use pa n w a).tfs = s.tfs := by
  unfold State.l2Use
  split
  · exact foldl_keeps State.tfs (fun s k => l2Touch_tfs s pa n w a k) _ s
  · rfl

@[simp] theorem l2Write_tfs (s : State) (pa : Nat) (bs : List (Option Byte)) (a : Option Nat) :
    (s.l2Write pa bs a).tfs = s.tfs :=
  foldl_keeps State.tfs (fun s _ => l2Use_tfs s ..) _ s

@[simp] theorem strongUse_tfs (s : State) (pa n : Nat) (x w : Bool) (a : Option Nat) :
    (s.strongUse pa n x w a).tfs = s.tfs := by
  unfold State.strongUse; split <;> simp

@[simp] theorem seeWrite_tfs (s : State) (c : Option Nat) (f : Nat → Bool) : (s.seeWrite c f).tfs = s.tfs := by
  unfold State.seeWrite; split <;> rfl

@[simp] theorem pumpLink_tfs (p : Nat) : ∀ (n : Nat) (s : State), (s.pumpLink p n).tfs = s.tfs
  | 0, _ => rfl
  | n + 1, s => by
    unfold State.pumpLink
    split
    · rfl
    · split
      · simp [pumpLink_tfs p n]
      · rfl

@[simp] theorem toPeer_tfs (s : State) (m : OutMsg) (own : List Writer) : (s.toPeer m own).tfs = s.tfs := by
  unfold State.toPeer
  split
  · exact pumpLink_tfs ..
  · rfl

@[simp] theorem homeRead_tfs (s : State) (pa n : Nat) : (s.homeRead pa n).2.2.tfs = s.tfs := by
  unfold State.homeRead; split <;> rfl

@[simp] theorem peerAnswers_tfs (s : State) (pa : Nat) : (s.peerAnswers pa).2.tfs = s.tfs := by
  unfold State.peerAnswers
  dsimp only [State.draw]
  repeat' split
  all_goals rfl

/-! ## Writes at home: only waiters wake -/

@[simp] theorem resume_slotStates (s : State) (t : Nat) (v : Word) : slotStates (s.resume t v).tfs = slotStates s.tfs := by
  unfold State.resume State.wakeParks; simp

@[simp] theorem deliver_slotStates (s : State) (pa : Nat) (bs : List (Option Byte)) :
    slotStates (s.deliver pa bs).tfs = slotStates s.tfs := by
  refine foldl_slotStates (fun s x => ?_) _ s
  dsimp only
  split
  · exact resume_slotStates ..
  · rfl

@[simp] theorem homeStore_slotStates (s : State) (own : List Writer) (pa : Nat) (bs : List (Option Byte)) (p : Bool) :
    slotStates (s.homeStore own pa bs p).tfs = slotStates s.tfs := by
  unfold State.homeStore
  split
  · simp
  · exact congrArg slotStates (foldl_keeps State.tfs (fun s _ => toPeer_tfs s ..) _ s)

@[simp] theorem homeWrite_slotStates (s : State) (own : List Writer) (pa : Nat) (bs : List (Option Byte)) (p : Bool) :
    slotStates (s.homeWrite own pa bs p).tfs = slotStates s.tfs := by
  unfold State.homeWrite; rw [homeStore_slotStates]; split <;> simp

/-! ## The L1 and the combining buffers -/

@[simp] theorem l1WriteBack_slotStates (s : State) (c k : Nat) : slotStates (s.l1WriteBack c k).tfs = slotStates s.tfs := by
  unfold State.l1WriteBack
  split
  · rfl
  · next x _ =>
    have hwatch (u : State) :
        (x.writers.foldl (fun s w => s.breakWatches [w.1] (maskedAddrs (32 * k) (x.dirtyOf w.2))) u).tfs = u.tfs :=
      foldl_keeps State.tfs (fun s _ => breakWatches_tfs s ..) _ u
    dsimp only
    repeat' split
    all_goals simp [hwatch]

theorem l1WriteBacks_slotStates (s : State) (c : Nat) (l : List Nat) :
    slotStates (l.foldl (fun s k => s.l1WriteBack c k) s).tfs = slotStates s.tfs :=
  foldl_slotStates (fun s k => l1WriteBack_slotStates s c k) l s

@[simp] theorem l1WriteBackAll_slotStates (s : State) (c : Nat) : slotStates (s.l1WriteBackAll c).tfs = slotStates s.tfs :=
  l1WriteBacks_slotStates s c _

@[simp] theorem l1EvictLine_slotStates (s : State) (c l : Nat) : slotStates (s.l1EvictLine c l).tfs = slotStates s.tfs :=
  l1WriteBacks_slotStates s c _

@[simp] theorem placeReplica_tfs (s : State) (a l p : Nat) (ps : List (Nat × List Byte × Bool)) :
    (s.placeReplica a l p ps).tfs = s.tfs := by
  simp [State.placeReplica]

@[simp] theorem l1Evict_slotStates (s : State) (c l : Nat) : slotStates (s.l1Evict c l).tfs = slotStates s.tfs := by
  have hback (xs : List L1Sector) : slotStates (xs.foldl (fun s x => s.l1WriteBack c x.sector) s).tfs = slotStates s.tfs :=
    foldl_slotStates (fun s x => l1WriteBack_slotStates s c x.sector) xs s
  unfold State.l1Evict
  dsimp only
  repeat' split
  all_goals simp [hback]

@[simp] theorem l1Room_slotStates (s : State) (c l : Nat) : slotStates (s.l1Room c l).tfs = slotStates s.tfs := by
  unfold State.l1Room
  dsimp only [State.draw]
  repeat' split
  all_goals simp

@[simp] theorem l1Supply_tfs (s : State) (c k p : Nat) (b : Bool) : (s.l1Supply c k p b).2.2.tfs = s.tfs := by
  unfold State.l1Supply; split <;> simp

@[simp] theorem l1Fill_slotStates (s : State) (c k : Nat) (vr : Bool) (p : Nat) (b : Bool) :
    slotStates (s.l1Fill c k vr p b).2.tfs = slotStates s.tfs := by
  unfold State.l1Fill
  dsimp only
  repeat' split
  all_goals simp

@[simp] theorem l1Store_slotStates (s : State) (c : Nat) (vr : Bool) (p : Nat) (own : Writer) (a : Nat) (bs : List Byte) :
    slotStates (s.l1Store c vr p own a bs).tfs = slotStates s.tfs := by
  unfold State.l1Store
  dsimp only
  repeat' split
  all_goals simp

@[simp] theorem drainBuffer_slotStates (s : State) (b : CombBuf) : slotStates (s.drainBuffer b).tfs = slotStates s.tfs := by
  simp [State.drainBuffer]

@[simp] theorem drainBuffers_slotStates (s : State) (p : CombBuf → Bool) :
    slotStates (s.drainBuffers p).tfs = slotStates s.tfs :=
  foldl_slotStates (fun s b => drainBuffer_slotStates s b) _ s

@[simp] theorem drainCombining_slotStates (s : State) (c g : Nat) : slotStates (s.drainCombining c g).tfs = slotStates s.tfs :=
  drainBuffers_slotStates s _

@[simp] theorem combineStore_slotStates (s : State) (c x g : Nat) (a : Option Nat) (pa : Nat) (bs : List Byte) :
    slotStates (s.combineStore c x g a pa bs).tfs = slotStates s.tfs := by
  unfold State.combineStore
  dsimp only
  rw [drainBuffers_slotStates, State.mapSide_tfs]
  repeat' split
  all_goals simp

/-! ## Store queues and what a release does -/

@[simp] theorem plainStore_slotStates (s : State) (c x g : Nat) (cl wp : BitVec 2) (p pa : Nat) (bs : List Byte) :
    slotStates (s.plainStore c x g cl wp p pa bs).tfs = slotStates s.tfs := by
  unfold State.plainStore
  dsimp only
  split
  · refine foldl_slotStates (fun s y => ?_) _ s
    split <;> simp
  split
  · rw [foldl_slotStates (fun s y => l1Store_slotStates s ..), drainBuffers_slotStates]
  split
  · rw [foldl_slotStates (fun s y => by simp)]
    simp
  · simp

@[simp] theorem poolWriteFor_tfs (s : State) (c op off : Nat) (bs : List Byte) : (s.poolWriteFor c op off bs).tfs = s.tfs := by
  unfold State.poolWriteFor State.poolWrite
  dsimp only
  split <;> simp

@[simp] theorem storeOut_slotStates (s : State) (c g : Nat) (q : QueuedStore) :
    slotStates (s.storeOut c g q).tfs = slotStates s.tfs := by
  refine foldl_slotStates (fun s x => ?_) _ s
  dsimp only
  split <;> simp

@[simp] theorem drainQueue_slotStates (s : State) (c g : Nat) (op : Option Nat) :
    slotStates (s.drainQueue c g op).tfs = slotStates s.tfs :=
  foldl_slotStates (fun s q => storeOut_slotStates s c g q) _ s

@[simp] theorem releaseActions_slotStates (s : State) (c g scope : Nat) :
    slotStates (s.releaseActions c g scope).tfs = slotStates s.tfs := by
  unfold State.releaseActions
  dsimp only
  repeat' split
  all_goals simp

/-! ## Fault records, and the end of parties, contexts and objects -/

@[simp] theorem groupExit_slotStates (s : State) (c g : Nat) : slotStates (s.groupExit c g).tfs = slotStates s.tfs := by
  unfold State.groupExit
  dsimp only
  repeat' split
  all_goals simp

@[simp] theorem retireParty_slotStates (s : State) (p : PartyRef) : slotStates (s.retireParty p).tfs = slotStates s.tfs := by
  simp [State.retireParty]

@[simp] theorem endContext_slotStates (s : State) (c : Nat) : slotStates (s.endContext c).tfs = slotStates s.tfs :=
  foldl_slotStates (fun s p => retireParty_slotStates s p) _ _

@[simp] theorem sendEvent_tfs (s : State) (t : Nat) (imm : Word) : (s.sendEvent t imm).tfs = s.tfs := by
  unfold State.sendEvent
  dsimp only
  split <;> simp

/-- A change of a block that leaves its slots. -/
theorem mapTf_slotStates (s : State) (n : Nat) {f : TfBlock → TfBlock} (h : ∀ b, (f b).slots = b.slots) :
    slotStates (s.mapTf n f).tfs = slotStates s.tfs := slotStates_put (h _)

@[simp] theorem putRecord_slotStates (s : State) (t : Nat) (r : FaultRecord) :
    slotStates (s.putRecord t r).tfs = slotStates s.tfs := by
  unfold State.putRecord
  dsimp only
  repeat' split
  all_goals simp [-State.mapTf_tfs, mapTf_slotStates]

@[simp] theorem writeHeld_slotStates (t : Nat) : ∀ (n : Nat) (s : State), slotStates (s.writeHeld t n).tfs = slotStates s.tfs
  | 0, _ => rfl
  | n + 1, s => by
    unfold State.writeHeld
    split
    · rfl
    · split
      · simp [-State.mapTf_tfs, writeHeld_slotStates t n, mapTf_slotStates]
      · rfl

@[simp] theorem addRecord_slotStates (s : State) (t : Nat) (r : FaultRecord) (l : Option Nat) (e : Bool) :
    slotStates (s.addRecord t r l e).tfs = slotStates s.tfs := by
  unfold State.addRecord
  dsimp only
  split
  · simp [-State.mapTf_tfs, mapTf_slotStates]
  · rfl

/-- Ending the teams of an object leaves the states of the slots. -/
@[simp] theorem endObject_slotStates (s : State) (t k : Nat) (cause : Byte) (detail : Word) (sec : Bool) (skip : Option Nat) :
    slotStates (s.endObject t k cause detail sec skip).tfs = slotStates s.tfs := by
  refine foldl_slotStates (fun s l => ?_) _ s
  dsimp only
  refine (foldl_slotStates (fun s x => ?_) _ _).trans (by simp)
  split <;> simp

/-- A mismatch leaves the slot poisoned, whatever the end of its teams does (R160). -/
theorem poisonObject_poisoned (s : State) (t k : Nat) (skip : Option Nat) :
    slotStates (s.poisonObject t k skip).tfs t k = .poisoned := by
  unfold State.poisonObject
  rw [endObject_slotStates, slotStates_mapSlot]

/-! ## Verification of a page -/

section Verify

variable {s t : State} {tf : BitVec 8} {slot : BitVec 7} {page : Nat} {p : PartyRef} {rest : List PartyRef} {o : CodeObject}
  {bs : List Byte}

/-- A page whose read for the first waiter succeeds is judged by its bytes. -/
theorem exec_codePageVerify_read {bad : Bool} (hw : s.pageWaiters tf.toNat slot.toNat page = p :: rest)
    (ho : ((s.tf tf.toNat).slot slot.toNat).object = some o)
    (hr : readCodePage tf.toNat (s.coreOf p.ctx) ((s.tf tf.toNat).slot slot.toNat).base o page Access.fetch s =
      .ok (bs, bad) t) :
    exec (.codePageVerify tf slot page) s = .next (t.pageRead tf.toNat slot.toNat page p o bs bad) := by
  show Host.Outcome.next (s.verifyPage tf.toNat slot.toNat page) = _
  simp only [State.verifyPage, hw, ho, hr]

theorem pageRead_match {n k : Nat} (h : pageHash bs = o.hashes.getD page []) :
    t.pageRead n k page p o bs false =
      let u := t.mapSlot n k fun c => { c with object := c.object.map fun o => { o with verified := o.verified ++ [page] } }
      (u.pageWaiters n k page).foldl (fun u p => u.mapPartyOf p u.readyParty) u := by
  simp [State.pageRead, h]

theorem pageRead_mismatch_poisoned {n k : Nat} (h : pageHash bs ≠ o.hashes.getD page []) :
    (((t.pageRead n k page p o bs false).tf n).slot k).state = .poisoned := by
  have hne : (pageHash bs == o.hashes.getD page []) = false := by simpa using h
  simp only [State.pageRead, hne, Bool.false_eq_true, if_false]
  show slotStates (State.retireParty _ p).tfs n k = _
  rw [retireParty_slotStates, poisonObject_poisoned]

end Verify

theorem exec_codeObjectEmpty {s : State} {tf : BitVec 8} {slot : BitVec 7}
    (hu : ((s.tf tf.toNat).slot slot.toNat).state = .unloading) (hz : ((s.tf tf.toNat).slot slot.toNat).refs = 0) :
    exec (.codeObjectEmpty tf slot) s = .next (s.mapSlot tf.toNat slot.toNat CodeSlot.emptied) := by
  show execCodeObjectEmpty tf slot s = _
  simp [execCodeObjectEmpty, hu, hz]

/-- Settles O57: each command by the case of its slot's state, LOAD's end by the result of its reads, a verified page by
its hash; a poisoned slot stays so through the records and the end of its teams (`endObject_slotStates`). -/
theorem codeEvents : Obligations.CodeEvents := by
  unfold Obligations.CodeEvents
  refine ⟨fun s tf slot v hr => ?commands, fun s tf slot hl hp => ?loadEnds,
    fun s t tf slot page p rest o bs hw ho hread => ?pages, fun s tf slot hu hz => exec_codeObjectEmpty hu hz⟩
  case commands =>
    dsimp only
    simp only [← codeCmd_eq]
    refine ⟨fun hc hst => ?_, fun hc hf => ⟨fun hst => ?_, fun hst hz => ?_⟩,
      fun hc hf => ⟨fun hst => ?_, fun hst => ?_, fun hst => ?_⟩, exec_codeCmdIgnored hr tf slot v⟩
    · rw [exec_codeLoad hr tf slot hc, codeLoad_begins hst]
    · rw [exec_codeUnload hr tf slot hc hf, codeUnload_empties hst]; rfl
    · rw [exec_codeUnload hr tf slot hc hf, codeUnload_marks hst hz]
    · rw [exec_codeUnloadForce hr tf slot hc hf, codeUnloadForce_ends hst]; rfl
    · rw [exec_codeUnloadForce hr tf slot hc hf, codeUnloadForce_empties hst]; rfl
    · rw [exec_codeUnloadForce hr tf slot hc hf, codeUnloadForce_loading hst]
  case loadEnds =>
    rw [exec_codeLoadVerify hl hp]
    exact ⟨fun hbad => congrArg _ (loadEnd_failed (loadObject_bad_base _ s hbad)),
      fun o t h => congrArg _ (loadEnd_ready h), fun e t h => congrArg _ (loadEnd_failed h),
      fun x t k u h hk => congrArg _ (loadEnd_parked h hk)⟩
  case pages =>
    rw [exec_codePageVerify_read hw ho hread]
    exact ⟨fun h => congrArg _ (pageRead_match h), fun h => ⟨_, rfl, pageRead_mismatch_poisoned h⟩⟩

end Sys2Proof.CodeSlots
end
